-- ==== Sys2Proof/Word.lean ====
section
/-! DEFINITION. Machine words, and the sparse table in canonical form that memory, register files and
caches are kept in. -/

namespace Sys2Proof

/-- A 32-bit register or instruction word (spec 04 R81). -/
abbrev Word := BitVec 32

/-- The smallest addressable unit of memory (spec 00 R5). -/
abbrev Byte := BitVec 8

/-- A sparse table: key and value pairs, keys strictly rising. -/
abbrev Table (α : Type) := List (Nat × α)

namespace Table

variable {α : Type}

/-- The value listed at a key. -/
def get? : Table α → Nat → Option α
  | [], _ => none
  | (j, v) :: t, k => if j = k then some v else get? t k

/-- The value at a key, `d` where none is listed. -/
def getD (t : Table α) (d : α) (k : Nat) : α := (get? t k).getD d

/-- Take every entry of a key out. -/
def erase (t : Table α) (k : Nat) : Table α := t.filter (fun e => e.1 != k)

/-- Put an entry at its place in the order; the key is not yet listed. -/
def insert : Table α → Nat → α → Table α
  | [], k, v => [(k, v)]
  | (j, w) :: t, k, v => if k < j then (k, v) :: (j, w) :: t else (j, w) :: insert t k v

/-- Set the value at a key. -/
def put (t : Table α) (k : Nat) (v : α) : Table α := insert (erase t k) k v

/-- Set the value at a key; the value `d` that an unlisted key reads as is not listed. -/
def putD [DecidableEq α] (t : Table α) (d : α) (k : Nat) (v : α) : Table α :=
  if v = d then erase t k else put t k v

/-- Change the value at a key, where one is listed. -/
def modify (t : Table α) (k : Nat) (f : α → α) : Table α :=
  match get? t k with
  | some v => put t k (f v)
  | none => t

/-- Change every listed value. -/
def mapVals (t : Table α) (f : α → α) : Table α := t.map (fun e => (e.1, f e.2))

/-- The canonical form: keys strictly rising. -/
def sorted : Table α → Bool
  | [] => true
  | e :: t => t.all (fun e' => decide (e.1 < e'.1)) && sorted t

end Table

/-- `f` at every position of a list, counted from `n`. -/
def mapFrom {α β : Type} (n : Nat) (f : Nat → α → β) : List α → List β
  | [] => []
  | a :: l => f n a :: mapFrom (n + 1) f l

/-- Bit `n` of a natural number. -/
def natBit (x n : Nat) : Bool := Nat.testBit x n

/-- Bits `hi` down to `lo` of a natural number (the spec's `x<h:l>`, 01 R27). -/
def bitsOf (x hi lo : Nat) : Nat := (x >>> lo) % 2 ^ (hi + 1 - lo)

/-- `x` sign-extended from `n` bits, as an integer (01 R27). -/
def sextNat (x n : Nat) : Int :=
  if natBit x (n - 1) then ((x % 2 ^ n : Nat) : Int) - ((2 ^ n : Nat) : Int) else ((x % 2 ^ n : Nat) : Int)

end Sys2Proof
end

