-- ==== Sys2Proof/Config.lean ====
section
/-! DEFINITION. What the fully enabled part fixes (spec 00 R4 and the owning chapters), and the free values:
opaque constants, which no proof can see. -/

namespace Sys2Proof.Config

/-! The part in figures. -/

def lanesPerWarp : Nat := 32
def vregs : Nat := 56
def dies : Nat := 4
def clustersPerDie : Nat := 12
def coresPerCluster : Nat := 8
def coresPerDie : Nat := 96
def warpSlots : Nat := 64
def tilesPerCore : Nat := 128
def tileBytes : Nat := 4096
def lineBytes : Nat := 128
/-- Words of one cluster's commit buffer that a block may hold, in lines (12 R279). -/
def bufferLines : Nat := 256
/-- Entries of a record cache (02 R53). -/
def recordEntries : Nat := 32
/-- Ways of an L1 and of an LLC slice (12 R268). -/
def ways : Nat := 16
/-- Directory entries of a home slice (12 R272). -/
def dirEntries : Nat := 16384
/-- Entries of a core TLB and of a die's last-level TLB (14 R328). -/
def coreTlbEntries : Nat := 256
def dieTlbEntries : Nat := 16384
/-- Sink-table entries of a core (07 R181). -/
def sinkEntries : Nat := 64
/-- Decision-queue entries (02 R46). -/
def dqEntries : Nat := 64
/-- Entries of a load-value queue (12 R289) and the most a leading warp may run ahead (12 R288). -/
def lvqEntries : Nat := 256
def trailLag : Nat := 64
/-- Queued items of a ladder unit (09 R214). -/
def ladderItems : Nat := 4096
/-- The stepping code of the KLN-840 (04 R103). -/
def stepping : Nat := 0x08400100
/-- The magic word of a code object (14 R345). -/
def kcoMagic : Nat := 0x314F434B
/-- One past the highest virtual or physical address of a device (00 R4). -/
def addrSpace : Nat := 2 ^ 52
/-- Bytes of the column store under one array (08 R202). -/
def arrayColumnBytes : Nat := 96 * 2 ^ 20
/-- The energy weights at reset, by class (15 R366). -/
def energyWeights : List Nat :=
  [400, 640, 960, 560, 480, 80, 4000, 800, 2400, 4096, 1200, 600, 2000, 52428, 9520, 8000]

/-! Free values (notes/assumptions/4, 5, 10, 15, 16, 27, 39, 45, 47, 53, 74, 80). -/

/-- Which of several possible steps comes next, counted by the step number. -/
opaque choice : Nat → Nat

/-- The result an implementation returns for an SFU function (number, operand), before the bound of
06 R146 is enforced. -/
opaque sfu : Nat → Word → Word

/-- Which entry of a full cache is replaced, counted by the replacement number. -/
opaque victim : Nat → Nat

/-- The set of a line in an L1 and in its LLC slice: the spec gives the ways, and no index (12 R268). -/
opaque l1Set : Nat → Nat
opaque llcSet : Nat → Nat

/-- Whether the set of a line's directory entry is full, by the lines that have entries in its slice: the spec gives the
entries of a slice, and no sets (12 R272). -/
opaque dirFull : Nat → List Nat → Bool

/-- Whether a core that has fetched a code word executes that word, and not the one that has been written since, counted by
the cycle and by region and PC (14 R384). -/
opaque oldWord : Nat → Nat → Bool

/-- SHA-384, which the spec names and does not define (14 R345). -/
opaque sha384 : List Byte → BitVec 384

/-- The signature of a quote over nonce and registers (15 R359). -/
opaque quoteSignature : BitVec 256 → List (BitVec 384) → BitVec 768

/-- Whether a PC of the code object at a code base is a safe point: the spec gives the safe-point map no layout (14 R349). -/
opaque safePoint : Nat → Nat → Bool

/-- The event posted for a malformed invalidation command, whose KIND the spec does not give (14 R331). -/
opaque invalidEvent : BitVec 128 → BitVec 128

/-- Layer, bank, row and column of a line's DRAM location, as bits 47:11 of a pending-repair entry hold them: the spec gives
only its pseudo-channel (12 R269, R295). -/
opaque dramCell : Nat → BitVec 37

/-- Flits that a partition's virtual channel on a link has credits for beyond those of one command's unit: the spec gives no number
(15 R350). -/
opaque channelCredits : Nat

/-- Whether the fuse resources of a layer allow the hard repair of an entry (12 R296). -/
opaque fusable : BitVec 128 → Bool

/-- The digests that the boot extends into the measurement registers 0 to 3 (15 R359). -/
opaque bootDigest : Nat → BitVec 384

/-- The rate of a queue pair after an ECN mark, before it is cut below the rate in force (15 R355). -/
opaque ecnCut : Nat → Nat

/-- Process and thread ids of a launch whose record cannot be reached, by the record's address (15 R362). -/
opaque lostIds : Nat → BitVec 64

/-- What a system core runs at a time, in the fields of a joined entity: partition, process, thread, region (15 R362). -/
opaque sysIdentity : Nat → Nat → BitVec 192

/-- Where a snapshot slot of a partition's snapshot area begins: the spec gives the slots no stride (12 R283). -/
opaque snapPlace : Nat → Nat → Nat

/-- The bytes of a snapshot half's header and operand log, by sequence number and offset: the spec says what they hold, and not where
(12 R283). -/
opaque snapByte : Nat → Nat → Byte

/-- What stands at an offset of a spill image's header, of a front thread's 256 bytes, of a warp's 1 KiB and of the taint of a warp's
registers: the number of a value and which of its bytes, or neither. The spec says what they hold, and not where (14 R340). -/
opaque headerPlace : Nat → Option (Nat × Nat)
opaque frontPlace : Nat → Option (Nat × Nat)
opaque warpPlace : Nat → Option (Nat × Nat)
opaque taintPlace : Nat → Option (Nat × Nat)

/-- The other bytes of an image, by cycle, core and offset (14 R340). -/
opaque imageByte : Nat → Nat → Nat → Byte

/-- OPND of a defect that belongs to no one operand of its command: parameter block, DETAIL (08 R191). -/
opaque statOpnd : BitVec 512 → Nat → BitVec 2

end Sys2Proof.Config
end

