-- ==== Sys2Proof/Machine/Flags.lean ====
section
/-! DEFINITION. Number formats, rounding and the IEEE flags (spec 03): exact values are sign, natural mantissa and
exponent of two, rounded once. -/

namespace Sys2Proof.Machine

/-! ## Formats (03 R64, R65) -/

inductive Fmt where
  | f32 | f16 | bf16 | f8e4 | f8e5
  deriving DecidableEq, Repr

def Fmt.ebits : Fmt → Nat
  | .f32 => 8 | .f16 => 5 | .bf16 => 8 | .f8e4 => 4 | .f8e5 => 5

def Fmt.mbits : Fmt → Nat
  | .f32 => 23 | .f16 => 10 | .bf16 => 7 | .f8e4 => 3 | .f8e5 => 2

def Fmt.bias : Fmt → Nat
  | .f32 => 127 | .f16 => 15 | .bf16 => 127 | .f8e4 => 7 | .f8e5 => 15

def Fmt.width (f : Fmt) : Nat := 1 + f.ebits + f.mbits

/-- Largest finite magnitude, as an encoding without sign. -/
def Fmt.maxFin : Fmt → Nat
  | .f32 => 0x7F7FFFFF | .f16 => 0x7BFF | .bf16 => 0x7F7F | .f8e4 => 0x7E | .f8e5 => 0x7B

/-- +∞; in F8E4, which has none, the canonical NaN stands in its place (R70). -/
def Fmt.infBits (f : Fmt) : Nat := f.maxFin + 1

def Fmt.canonNan : Fmt → Nat
  | .f32 => 0x7FC00000 | .f16 => 0x7E00 | .bf16 => 0x7FC0 | .f8e4 => 0x7F | .f8e5 => 0x7E

/-- Exponent of the smallest normal. -/
def Fmt.emin (f : Fmt) : Int := 1 - (f.bias : Int)

/-- A value: (−1)^neg × m × 2^e where finite. -/
inductive FVal where
  | nan (sig : Bool)
  | inf (neg : Bool)
  | fin (neg : Bool) (m : Nat) (e : Int)
  deriving DecidableEq, Repr

/-- The value of an encoding (R64, R65). -/
def readF (f : Fmt) (x : Nat) : FVal :=
  let neg := natBit x (f.width - 1)
  let e := bitsOf x (f.width - 2) f.mbits
  let m := bitsOf x (f.mbits - 1) 0
  if f = .f8e4 ∧ e = 15 ∧ m = 7 then .nan false
  else if f ≠ .f8e4 ∧ e = 2 ^ f.ebits - 1 then
    if m = 0 then .inf neg else .nan (!natBit m (f.mbits - 1))
  else if e = 0 then .fin neg m (f.emin - f.mbits)
  else .fin neg (m + 2 ^ f.mbits) ((e : Int) - f.bias - f.mbits)

def FVal.isNan : FVal → Bool
  | .nan _ => true
  | _ => false

def FVal.isSnan : FVal → Bool
  | .nan s => s
  | _ => false

/-! ## Flags (02 R41; 03 R71) -/

abbrev Flags := BitVec 5
def NX : Flags := 1
def UF : Flags := 2
def OF : Flags := 4
def DZ : Flags := 8
def NV : Flags := 16

def flagIf (b : Bool) (f : Flags) : Flags := if b then f else 0

/-! ## Rounding (03 R68 to R70) -/

inductive Rm where
  | rn | rz | rd | ru
  deriving DecidableEq, Repr

def Rm.ofCode (n : Nat) : Rm := match n with
  | 0 => .rn
  | 1 => .rz
  | 2 => .rd
  | _ => .ru

/-- Whether the kept mantissa is raised: `rem` of `2 * half` lies below it. -/
def roundsUp (rm : Rm) (neg : Bool) (kept rem half : Nat) : Bool :=
  match rm with
  | .rn => decide (half < rem) || (rem == half && half != 0 && kept % 2 == 1)
  | .rz => false
  | .rd => neg && rem != 0
  | .ru => !neg && rem != 0

/-- `m × 2^e` as a multiple of `2^q`: the quotient, the remainder and half the divisor. -/
def cutAt (m : Nat) (e q : Int) : Nat × Nat × Nat :=
  if m = 0 then (0, 0, 0)
  else if q ≤ e then (m <<< (e - q).toNat, 0, 0)
  else
    let k := (q - e).toNat
    if m.log2 + 2 < k then (0, 1, 2)
    else (m >>> k, m % 2 ^ k, 2 ^ (k - 1))

/-- Base-2 logarithm of the leading bit of `m × 2^e`. -/
def topOf (m : Nat) (e : Int) : Int := (m.log2 : Int) + e

/-- What overflow gives (R70), without sign: whether the infinity or the largest finite value. -/
def overflowsToInf (rm : Rm) (neg : Bool) : Bool :=
  match rm with
  | .rn => true
  | .rz => false
  | .rd => neg
  | .ru => !neg

/-- An encoding with its sign; the NaN that stands for an F8E4 infinity has none. -/
def withSign (f : Fmt) (neg : Bool) (x : Nat) : Nat :=
  if f = .f8e4 ∧ x = 0x7F then x else if neg then x + 2 ^ (f.width - 1) else x

/-- A finite value rounded to a format: the encoding and NX, UF, OF. -/
def roundFin (f : Fmt) (rm : Rm) (neg : Bool) (m : Nat) (e : Int) : Nat × Flags :=
  if m = 0 then (withSign f neg 0, 0)
  else
    let top := topOf m e
    let q := max top f.emin - f.mbits
    let (kept, rem, half) := cutAt m e q
    let atMax := f = .f8e4 ∧ rm = .rn ∧ top = 8 ∧ kept = 14 ∧ half ≤ rem ∧ rem ≠ 0
    let sig := if roundsUp rm neg kept rem half ∨ atMax then kept + 1 else kept
    let bits := if sig < 2 ^ f.mbits then sig
      else ((q + f.mbits + f.bias).toNat <<< f.mbits) + (sig - 2 ^ f.mbits)
    if top > f.emin + 2 ^ f.ebits ∨ f.maxFin < bits then
      (withSign f neg (if overflowsToInf rm neg then f.infBits else f.maxFin), OF ||| NX)
    else
      let (k', r', h') := cutAt m e (top - f.mbits)
      let tiny := decide (top < f.emin) &&
        !(top == f.emin - 1 && roundsUp rm neg k' r' h' && k' + 1 == 2 ^ (f.mbits + 1))
      (withSign f neg bits, flagIf (rem != 0) NX ||| flagIf (rem != 0 && tiny) UF)

/-- Any value rounded to a format; a NaN becomes canonical (R66). -/
def roundTo (f : Fmt) (rm : Rm) : FVal → Nat × Flags
  | .nan _ => (f.canonNan, 0)
  | .inf neg => (withSign f neg f.infBits, 0)
  | .fin neg m e => roundFin f rm neg m e

/-! ## Exact operations -/

def FVal.neg : FVal → FVal
  | .nan s => .nan s
  | .inf n => .inf (!n)
  | .fin n m e => .fin (!n) m e

/-- Exact product, and NV for 0 × ∞ (R71). -/
def mulEx : FVal → FVal → FVal × Flags
  | .nan s, .nan t => (.nan (s || t), 0)
  | .nan s, _ => (.nan s, 0)
  | _, .nan s => (.nan s, 0)
  | .inf a, .inf b => (.inf (a ^^ b), 0)
  | .inf a, .fin b m _ => if m = 0 then (.nan false, NV) else (.inf (a ^^ b), 0)
  | .fin b m _, .inf a => if m = 0 then (.nan false, NV) else (.inf (a ^^ b), 0)
  | .fin a m e, .fin b n g => (.fin (a ^^ b) (m * n) (e + g), 0)

def minExp : List FVal → Int → Int
  | [], e => e
  | .fin _ m g :: l, e => minExp l (if m = 0 then e else min e g)
  | _ :: l, e => minExp l e

/-- Sum of the finite terms in units of `2^e`. -/
def intSum (e : Int) : List FVal → Int
  | [] => 0
  | .fin n m g :: l =>
    (if m = 0 then 0 else if n then -((m <<< (g - e).toNat : Nat) : Int) else ((m <<< (g - e).toNat : Nat) : Int))
      + intSum e l
  | _ :: l => intSum e l

def isZeroOf (neg : Bool) : FVal → Bool
  | .fin n m _ => m == 0 && n == neg
  | _ => false

def isInfOf (neg : Bool) : FVal → Bool
  | .inf n => n == neg
  | _ => false

/-- The exact sum of any number of terms, and NV for ∞ − ∞, which a quiet NaN among the terms does not suppress (R66,
R71). A zero sum follows IEEE 754. -/
def sumEx (rm : Rm) (l : List FVal) : FVal × Flags :=
  if l.any FVal.isNan then (.nan (l.any FVal.isSnan), flagIf (l.any (isInfOf true) && l.any (isInfOf false)) NV)
  else if l.any (isInfOf true) then
    if l.any (isInfOf false) then (.nan false, NV) else (.inf true, 0)
  else if l.any (isInfOf false) then (.inf false, 0)
  else if l.all (isZeroOf false) then (.fin false 0 0, 0)
  else if l.all (isZeroOf true) then (.fin true 0 0, 0)
  else
    let e := minExp l 1000
    let t := intSum e l
    (.fin (if t = 0 then rm == .rd else decide (t < 0)) t.natAbs e, 0)

/-- NV for a signalling operand (R66). -/
def snanFlag (l : List FVal) : Flags := flagIf (l.any FVal.isSnan) NV

/-! ## Modified arithmetic (06 R136, R145, R147) -/

/-- What an HMOD word asks of arithmetic. -/
structure Mods where
  rm : Rm := .rn
  sat : Bool := false
  deriving DecidableEq, Repr

/-- The encoding of 1.0. -/
def oneBits (f : Fmt) : Nat := f.bias <<< f.mbits

/-- SAT: clamp to [+0, 1.0], a NaN becoming +0; whether the value changed (R136). -/
def saturate (f : Fmt) (x : Nat) : Nat × Bool :=
  match readF f x with
  | .nan _ => (0, true)
  | .inf neg => (if neg then 0 else oneBits f, true)
  | .fin neg m _ =>
    if neg then (0, m != 0)
    else if oneBits f < x then (oneBits f, true) else (x, false)

/-- One rounding of an exact value, then SAT; the flags of R71 with those given. UF is judged on the rounding: where SAT
changes an exact subnormal to +0, NX alone is raised (notes/assumptions/59). -/
def finish (f : Fmt) (md : Mods) (x : FVal) (fl : Flags) : Nat × Flags :=
  let (t, g) := roundTo f md.rm x
  if md.sat then
    let (u, changed) := saturate f t
    let g' := (g &&& (NX ||| UF)) ||| fl
    (u, if changed then g' ||| NX else g')
  else (t, g ||| fl)

def fadd (f : Fmt) (md : Mods) (a b : Nat) : Nat × Flags :=
  let x := readF f a
  let y := readF f b
  let (s, fl) := sumEx md.rm [x, y]
  finish f md s (fl ||| snanFlag [x, y])

def fsub (f : Fmt) (md : Mods) (a b : Nat) : Nat × Flags :=
  let x := readF f a
  let y := readF f b
  let (s, fl) := sumEx md.rm [x, y.neg]
  finish f md s (fl ||| snanFlag [x, y])

def fmul (f : Fmt) (md : Mods) (a b : Nat) : Nat × Flags :=
  let x := readF f a
  let y := readF f b
  let (s, fl) := mulEx x y
  finish f md s (fl ||| snanFlag [x, y])

/-- a × b + c, or c − a × b, fused. -/
def ffma (f : Fmt) (md : Mods) (negate : Bool) (a b c : Nat) : Nat × Flags :=
  let x := readF f a
  let y := readF f b
  let z := readF f c
  let (p, fl) := mulEx x y
  let (s, gl) := sumEx md.rm [if negate then p.neg else p, z]
  finish f md s (fl ||| gl ||| snanFlag [x, y, z])

/-- Whether a < b, of values that are no NaN; −0 lies below +0 where asked. -/
def ltF (signedZero : Bool) : FVal → FVal → Bool
  | .inf a, .inf b => a && !b
  | .inf a, _ => a
  | _, .inf b => !b
  | .fin a m e, .fin b n g =>
    let x := intSum (min e g) [.fin a m e]
    let y := intSum (min e g) [.fin b n g]
    decide (x < y) || (signedZero && m == 0 && n == 0 && a && !b)
  | _, _ => false

def eqF : FVal → FVal → Bool
  | .inf a, .inf b => a == b
  | .fin a m e, .fin b n g => intSum (min e g) [.fin a m e] == intSum (min e g) [.fin b n g]
  | _, _ => false

/-- FMIN and FMAX (R145). -/
def fminmax (f : Fmt) (sat wantMax : Bool) (a b : Nat) : Nat × Flags :=
  let x := readF f a
  let y := readF f b
  let t := if x.isNan && y.isNan then f.canonNan
    else if x.isNan then b
    else if y.isNan then a
    else if wantMax then (if ltF true x y then b else a)
    else (if ltF true y x then b else a)
  if sat then
    let (u, changed) := saturate f t
    (u, flagIf changed NX ||| snanFlag [x, y])
  else (t, snanFlag [x, y])

/-- FSET conditions by FN (R143), with NV for a signalling operand. -/
def fsetCond (fn : Nat) (a b : Nat) : Bool × Flags :=
  let x := readF .f32 a
  let y := readF .f32 b
  let un := x.isNan || y.isNan
  let r := match fn with
    | 0 => !un && eqF x y
    | 1 => un || !eqF x y
    | 2 => !un && ltF false x y
    | 3 => !un && (ltF false x y || eqF x y)
    | 4 => !un
    | 5 => un
    | 6 => un || eqF x y
    | _ => un || ltF false x y
  (r, snanFlag [x, y])

/-- HDOT2: the two products and c, rounded once to F32 (R147). -/
def hdot (f : Fmt) (md : Mods) (a b c : Nat) : Nat × Flags :=
  let w := f.width
  let a0 := readF f (a % 2 ^ w)
  let a1 := readF f (a / 2 ^ w)
  let b0 := readF f (b % 2 ^ w)
  let b1 := readF f (b / 2 ^ w)
  let z := readF .f32 c
  let (p, fl) := mulEx a0 b0
  let (q, gl) := mulEx a1 b1
  let (s, hl) := sumEx md.rm [p, q, z]
  finish .f32 md s (fl ||| gl ||| hl ||| snanFlag [a0, a1, b0, b1, z])

/-- An operation on both halves of packed pairs (03 R67). -/
def packed (op : Nat → Nat → Nat → Nat × Flags) (a b c : Nat) : Nat × Flags :=
  let (lo, f) := op (a % 2 ^ 16) (b % 2 ^ 16) (c % 2 ^ 16)
  let (hi, g) := op (a / 2 ^ 16) (b / 2 ^ 16) (c / 2 ^ 16)
  (lo + hi * 2 ^ 16, f ||| g)

/-! ## Rounding to integers, conversions (03 R72, R73; 06 R149) -/

/-- A finite value rounded to an integer, and whether that changed it. -/
def roundInt (rm : Rm) (neg : Bool) (m : Nat) (e : Int) : Int × Bool :=
  let (kept, rem, half) := cutAt m e 0
  let k := if roundsUp rm neg kept rem half then kept + 1 else kept
  (if neg then -(k : Int) else (k : Int), rem != 0)

/-- FRND (R149). -/
def frnd (rm : Rm) (a : Nat) : Nat × Flags :=
  match readF .f32 a with
  | .nan s => (Fmt.canonNan .f32, flagIf s NV)
  | .inf neg => (withSign .f32 neg (Fmt.infBits .f32), 0)
  | .fin neg m e =>
    if 0 ≤ e then (a, 0)
    else
      let (k, inexact) := roundInt rm neg m e
      ((roundFin .f32 .rn neg k.natAbs 0).1, flagIf inexact NX)

/-- FFRAC (R149). -/
def ffrac (a : Nat) : Nat × Flags :=
  match readF .f32 a with
  | .nan s => (Fmt.canonNan .f32, flagIf s NV)
  | .inf _ => (Fmt.canonNan .f32, NV)
  | .fin neg m e =>
    if 0 ≤ e then (withSign .f32 neg 0, 0)
    else
      let k := (-e).toNat
      ((roundFin .f32 .rn neg (if m.log2 < k then m else m % 2 ^ k) e).1, 0)

/-- FEXP (R149). -/
def fexp (a : Nat) : Nat × Flags :=
  match readF .f32 a with
  | .nan s => (0x80000001, flagIf s NV)
  | .inf _ => (0x7FFFFFFF, 0)
  | .fin _ m e => (if m = 0 then 0x80000000 else ((topOf m e) % 2 ^ 32).toNat, 0)

/-- FSCALE: a × 2^k (R149). -/
def fscale (md : Mods) (a : Nat) (k : Int) : Nat × Flags :=
  match readF .f32 a with
  | .nan s => finish .f32 md (.nan s) (flagIf s NV)
  | .inf neg => finish .f32 md (.inf neg) 0
  | .fin neg m e => finish .f32 md (.fin neg m (e + k)) 0

/-- FCLASS (R149). -/
def fclass (a : Nat) : Nat :=
  match readF .f32 a with
  | .nan s => if s then 2 ^ 8 else 2 ^ 9
  | .inf neg => if neg then 2 ^ 0 else 2 ^ 7
  | .fin neg m _ =>
    if m = 0 then (if neg then 2 ^ 3 else 2 ^ 4)
    else if m < 2 ^ 23 then (if neg then 2 ^ 2 else 2 ^ 5)
    else (if neg then 2 ^ 1 else 2 ^ 6)

/-- Float to float (R73). -/
def cvtFF (s d : Fmt) (rm : Rm) (sat : Bool) (a : Nat) : Nat × Flags :=
  match readF s (a % 2 ^ s.width) with
  | .nan g => (d.canonNan, flagIf g NV)
  | .inf neg => if sat then (withSign d neg d.maxFin, NX) else (withSign d neg d.infBits, 0)
  | .fin neg m e =>
    let (t, fl) := roundFin d rm neg m e
    if sat && (fl &&& OF) != 0 then (withSign d neg d.maxFin, NX) else (t, fl)

/-- The I32 or N32 reading of a register. -/
def intOf (signed : Bool) (bits : Nat) (a : Nat) : Int :=
  if signed then sextNat a bits else ((a % 2 ^ bits : Nat) : Int)

/-- Integer to float (R73). -/
def cvtIF (signed : Bool) (bits : Nat) (d : Fmt) (rm : Rm) (sat : Bool) (a : Nat) : Nat × Flags :=
  let x := intOf signed bits a
  let neg := decide (x < 0)
  let (t, fl) := roundFin d rm neg x.natAbs 0
  if sat && (fl &&& OF) != 0 then (withSign d neg d.maxFin, NX) else (t, fl)

/-- Range limits of an integer format. -/
def intMin (signed : Bool) (bits : Nat) : Int := if signed then -((2 ^ (bits - 1) : Nat) : Int) else 0
def intMax (signed : Bool) (bits : Nat) : Int :=
  if signed then ((2 ^ (bits - 1) : Nat) : Int) - 1 else ((2 ^ bits : Nat) : Int) - 1

/-- An integer as a register holds it (R63). -/
def regOfInt (x : Int) : Nat := (x % 2 ^ 32).toNat

/-- Float to integer (R73). -/
def cvtFI (s : Fmt) (signed : Bool) (bits : Nat) (rm : Rm) (sat : Bool) (a : Nat) : Nat × Flags :=
  let clampFlag : Flags := if sat then NX else NV
  match readF s (a % 2 ^ s.width) with
  | .nan g => (0, flagIf (g || !sat) NV)
  | .inf neg => (regOfInt (if neg then intMin signed bits else intMax signed bits), clampFlag)
  | .fin neg m e =>
    let (k, inexact) := if topOf m e > 40 then (if neg then -(2 ^ 41 : Int) else 2 ^ 41, true)
      else roundInt rm neg m e
    if intMax signed bits < k then (regOfInt (intMax signed bits), clampFlag)
    else if k < intMin signed bits then (regOfInt (intMin signed bits), clampFlag)
    else (regOfInt k, flagIf inexact NX)

/-- Integer to integer (R73). -/
def cvtII (ssigned dsigned : Bool) (bits : Nat) (sat : Bool) (a : Nat) : Nat × Flags :=
  let x := intOf ssigned 32 a
  if sat then (regOfInt (max (intMin dsigned bits) (min (intMax dsigned bits) x)), 0)
  else (regOfInt (intOf dsigned bits (a % 2 ^ bits)), 0)

/-- CVT by conversion code (R72) and rounding selection (R148). -/
def cvtOp (code fn a : Nat) : Nat × Flags :=
  let sat := decide (4 ≤ fn)
  let rm := Rm.ofCode (fn % 4)
  match code with
  | 0x00 => cvtFF .f32 .f16 rm sat a
  | 0x01 => cvtFF .f32 .bf16 rm sat a
  | 0x02 => cvtFF .f32 .f8e4 rm sat a
  | 0x03 => cvtFF .f32 .f8e5 rm sat a
  | 0x04 => cvtFF .f16 .f32 rm sat a
  | 0x05 => cvtFF .bf16 .f32 rm sat a
  | 0x06 => cvtFF .f8e4 .f32 rm sat a
  | 0x07 => cvtFF .f8e5 .f32 rm sat a
  | 0x08 => cvtFF .f16 .bf16 rm sat a
  | 0x09 => cvtFF .bf16 .f16 rm sat a
  | 0x0A => cvtFF .f16 .f8e4 rm sat a
  | 0x0B => cvtFF .f16 .f8e5 rm sat a
  | 0x0C => cvtFF .bf16 .f8e4 rm sat a
  | 0x0D => cvtFF .bf16 .f8e5 rm sat a
  | 0x10 => cvtIF true 32 .f32 rm sat a
  | 0x11 => cvtIF false 32 .f32 rm sat a
  | 0x12 => cvtIF true 32 .f16 rm sat a
  | 0x13 => cvtIF false 32 .f16 rm sat a
  | 0x14 => cvtIF true 32 .bf16 rm sat a
  | 0x15 => cvtIF false 32 .bf16 rm sat a
  | 0x16 => cvtIF true 8 .f16 rm sat a
  | 0x17 => cvtIF true 8 .bf16 rm sat a
  | 0x18 => cvtIF true 16 .f32 rm sat a
  | 0x19 => cvtIF false 16 .f32 rm sat a
  | 0x1A => cvtIF true 8 .f32 rm sat a
  | 0x1B => cvtIF false 8 .f32 rm sat a
  | 0x20 => cvtFI .f32 true 32 rm sat a
  | 0x21 => cvtFI .f32 false 32 rm sat a
  | 0x22 => cvtFI .f32 true 16 rm sat a
  | 0x23 => cvtFI .f32 false 16 rm sat a
  | 0x24 => cvtFI .f32 true 8 rm sat a
  | 0x25 => cvtFI .f32 false 8 rm sat a
  | 0x26 => cvtFI .f16 true 32 rm sat a
  | 0x27 => cvtFI .f16 false 32 rm sat a
  | 0x28 => cvtFI .f16 true 16 rm sat a
  | 0x29 => cvtFI .f16 true 8 rm sat a
  | 0x2A => cvtFI .bf16 true 32 rm sat a
  | 0x2B => cvtFI .bf16 true 8 rm sat a
  | 0x30 => cvtII true true 16 sat a
  | 0x31 => cvtII true false 16 sat a
  | 0x32 => cvtII true true 8 sat a
  | 0x33 => cvtII true false 8 sat a
  | 0x34 => cvtII false true 32 sat a
  | 0x35 => cvtII true false 32 sat a
  | 0x36 => cvtII false false 16 sat a
  | 0x37 => cvtII false false 8 sat a
  | 0x38 => cvtII false true 16 sat a
  | 0x39 => cvtII false true 8 sat a
  | _ => (0, 0)

/-! ## Fixed summation orders (03 R77 to R80) -/

/-- One level of the pairwise tree of R80. -/
def pairUp {α : Type} (add : α → α → α) : List α → List α
  | a :: b :: l => add a b :: pairUp add l
  | l => l

/-- The pairwise tree of R80; `fuel` bounds the levels. -/
def treeSum {α : Type} (add : α → α → α) (d : α) : Nat → List α → α
  | _, [] => d
  | _, [a] => a
  | 0, a :: _ => a
  | n + 1, l => treeSum add d n (pairUp add l)

/-- An exact chunk sum of products (R78): special values first, a zero sum is +0. -/
def chunkSum (ps : List (FVal × FVal)) : FVal :=
  let terms := ps.map (fun p => (mulEx p.1 p.2).1)
  match (sumEx .rn terms).1 with
  | .fin _ 0 e => .fin false 0 e
  | v => v

/-- acc + c × ws × xs with one RN rounding (R78). -/
def accChunk (acc : Nat) (c ws xs : FVal) : Nat :=
  let p := (mulEx (mulEx c ws).1 xs).1
  (roundTo .f32 .rn (sumEx .rn [readF .f32 acc, p]).1).1

/-! ## SFU functions (06 R146) -/

/-- Integer square root by bits, from bit `n` down. -/
def isqrtAux (x : Nat) : Nat → Nat → Nat
  | 0, r => r
  | n + 1, r => let t := r + 2 ^ n
    isqrtAux x n (if t * t ≤ x then t else r)

def isqrt (x : Nat) : Nat := isqrtAux x (x.log2 / 2 + 1) 0

/-- FSQRT, correctly rounded. -/
def sqrtFin (m : Nat) (e : Int) : Nat × Flags :=
  let (m, e) := if e % 2 = 0 then (m, e) else (2 * m, e - 1)
  let x := m <<< 64
  let r := isqrt x
  let sticky := if r * r = x then 0 else 1
  roundFin .f32 .rn false (2 * r + sticky) (e / 2 - 33)

/-- Fixed point with this many fraction bits serves the functions without algebraic bounds. -/
def fx : Nat := 200

/-- π in units of 2^−400. -/
def piFx : Nat :=
  0x3243F6A8885A308D313198A2E03707344A4093822299F31D0082EFA98EC4E6C89452821E638D01377BE5466CF34E90C6CC0AC

/-- ln 2 in units of 2^−200. -/
def ln2Fx : Nat := 0xB17217F7D1CF79ABC9E3B39803F2F6AF40F343267298B62D8A

/-- exp of `x` in units of 2^−200, by its series: `t` the term, `k` its index. -/
def expSeries (x : Int) : Nat → Nat → Int → Int → Int
  | 0, _, _, s => s
  | n + 1, k, t, s =>
    let t' := t * x / ((2 ^ fx : Nat) : Int) / (k : Int)
    expSeries x n (k + 1) t' (s + t')

def expFx (x : Int) : Int := expSeries x 60 1 ((2 ^ fx : Nat) : Int) ((2 ^ fx : Nat) : Int)

/-- sin and cos of `x` in units of 2^−200, by their series in x². -/
def trigSeries (x2 : Int) : Nat → Nat → Int → Int → Int
  | 0, _, _, s => s
  | n + 1, k, t, s =>
    let t' := -(t * x2 / ((2 ^ fx : Nat) : Int)) / ((k * (k + 1) : Nat) : Int)
    trigSeries x2 n (k + 2) t' (s + t')

def sinFx (x : Int) : Int := trigSeries (x * x / ((2 ^ fx : Nat) : Int)) 40 2 x x
def cosFx (x : Int) : Int :=
  trigSeries (x * x / ((2 ^ fx : Nat) : Int)) 40 1 ((2 ^ fx : Nat) : Int) ((2 ^ fx : Nat) : Int)

/-- ±m × 2^e reduced modulo 2π to [−π, π], in units of 2^−200. -/
def reduceFx (neg : Bool) (m : Nat) (e : Int) : Int :=
  let x : Nat := if 0 ≤ e + 400 then m <<< (e + 400).toNat else m >>> (-(e + 400)).toNat
  let r : Int := ((x % (2 * piFx) : Nat) : Int)
  let r' : Int := if r > (piFx : Int) then r - ((2 * piFx : Nat) : Int) else r
  let y := r' / ((2 ^ 200 : Nat) : Int)
  if neg then -y else y

/-- log2 of a value in [1, 2) given in units of 2^−200, by squaring: `n` fraction bits. -/
def log2Frac : Nat → Nat → Nat → Nat
  | 0, _, acc => acc
  | n + 1, y, acc =>
    let z := y * y / 2 ^ fx
    if 2 ^ (fx + 1) ≤ z then log2Frac n (z / 2) (2 * acc + 1) else log2Frac n z (2 * acc)

/-- The exact result as a signed number of units of 2^−k: numerator and k; the function has no special case at the
operand. -/
def sfuExact (fn : Nat) (neg : Bool) (m : Nat) (e : Int) : Int × Int :=
  let sgn (x : Int) : Int := if neg then -x else x
  match fn with
  | 0 => (sgn (((2 ^ (200 + m.log2) : Nat) : Int) / (m : Int)), e + ((200 + m.log2 : Nat) : Int))
  | 1 =>
    let (m, e) := if e % 2 = 0 then (m, e) else (2 * m, e - 1)
    ((isqrt (2 ^ 400 / m) : Int), e / 2 + 200)
  | 3 =>
    let (k, f) : Int × Int :=
      if 0 ≤ e then (sgn (m <<< e.toNat : Nat), 0)
      else
        let x := sgn (if e < -200 then 0 else (m <<< (200 + e).toNat : Nat))
        (x / ((2 ^ fx : Nat) : Int), x % ((2 ^ fx : Nat) : Int))
    (expFx (f * (ln2Fx : Int) / ((2 ^ fx : Nat) : Int)), 200 - k)
  | 4 =>
    let k := topOf m e
    let y := m <<< (fx - m.log2)
    (k * ((2 ^ 120 : Nat) : Int) + (log2Frac 120 y 0 : Int), 120)
  | 5 => (sinFx (reduceFx neg m e), 200)
  | 6 => (cosFx (reduceFx neg m e), 200)
  | _ =>
    if topOf m e < -40 then (sgn ((m : Nat) : Int), -e)
    else if topOf m e ≥ 5 then (sgn (((2 ^ fx : Nat) : Int) - 1), 200)
    else
      let x := sgn (if 0 ≤ e + 200 then (m <<< (e + 200).toNat : Nat) else (m >>> (-(e + 200)).toNat : Nat))
      let p := expFx (x / 64)
      let sq (y : Int) : Int := y * y / ((2 ^ fx : Nat) : Int)
      let q := sq (sq (sq (sq (sq (sq (sq p))))))
      ((q - ((2 ^ fx : Nat) : Int)) * ((2 ^ fx : Nat) : Int) / (q + ((2 ^ fx : Nat) : Int)), 200)

/-- A number of units of 2^−k rounded to nearest F32. -/
def nearestF32 (x k : Int) : Nat := (roundFin .f32 .rn (decide (x < 0)) x.natAbs (-k)).1

/-- An F32 ulp at a value of units of 2^−k, as an exponent of two. -/
def ulpExp (x k : Int) : Int := max (topOf x.natAbs (-k)) (-126) - 23

/-- Whether an F32 value lies within `n × 2^b` of `x × 2^−k`. -/
def within (r : Nat) (x k : Int) (n : Nat) (b : Int) : Bool :=
  match readF .f32 r with
  | .fin neg m e =>
    let base := min (min e (-k)) b
    let d := intSum base [.fin neg m e, .fin (decide (0 ≤ x)) x.natAbs (-k)]
    decide (d.natAbs ≤ n <<< (b - base).toNat)
  | _ => false

/-- Whether `r` meets the bound of R146 for FN at operand value; FEX2 underflows to +0, never below it. -/
def sfuWithin (fn : Nat) (m : Nat) (e : Int) (r : Nat) (x k : Int) : Bool :=
  match fn with
  | 0 => within r x k 1 (ulpExp x k)
  | 4 =>
    if topOf m e = 0 ∨ topOf m e = -1 ∨ (topOf m e = 1 ∧ m = 2 ^ m.log2) then within r x k 1 (-22)
    else within r x k 2 (ulpExp x k)
  | 5 => within r x k 1 (-21)
  | 6 => within r x k 1 (-21)
  | 7 => if topOf m e < -4 then within r x k 1 (-22) else within r x k 2 (ulpExp x k)
  | 3 => !natBit r 31 && within r x k 2 (ulpExp x k)
  | _ => within r x k 2 (ulpExp x k)

/-- Whether the exact result at a finite nonzero operand is a number that the function returns exactly (R146). -/
def sfuIsExact (fn : Nat) (m : Nat) (e : Int) : Bool :=
  match fn with
  | 0 => m == 2 ^ m.log2
  | 3 => decide (0 ≤ e) || m % 2 ^ (-e).toNat == 0
  | 4 => m == 2 ^ m.log2
  | _ => false

/-- The result of an SFU function that has no special case at the operand: exact where R146 says so, else the
implementation's value (free, notes/assumptions/5) where it meets the bound, else the nearest. -/
def sfuFinite (fn : Nat) (neg : Bool) (m : Nat) (e : Int) (a : Nat) : Nat × Flags :=
  let (x, k) := sfuExact fn neg m e
  if sfuIsExact fn m e then
    let v : FVal := match fn with
      | 0 => .fin neg 1 (-(topOf m e))
      | 3 => .fin false 1 (if 0 ≤ e then (if neg then -((m <<< e.toNat : Nat) : Int) else ((m <<< e.toNat : Nat) : Int))
               else (if neg then -((m >>> (-e).toNat : Nat) : Int) else ((m >>> (-e).toNat : Nat) : Int)))
      | _ => .fin (decide (topOf m e < 0)) (topOf m e).natAbs 0
    roundTo .f32 .rn v
  else
    let free := (Config.sfu fn (BitVec.ofNat 32 a)).toNat
    let r := if sfuWithin fn m e free x k then free else nearestF32 x k
    let small := match readF .f32 r with
      | .fin _ m' e' => m' == 0 || decide (topOf m' e' < -126)
      | _ => false
    -- FRSQ of an even power of two has an exact result, which R146 does not promise
    let hit := fn == 1 && m == 2 ^ m.log2 && topOf m e % 2 == 0 && r == (roundFin .f32 .rn false 1 (-(topOf m e / 2))).1
    (r, if hit then 0 else NX ||| flagIf small UF)

/-- The SFU functions by FN, special cases included (R146). -/
def sfuOp (fn a : Nat) : Nat × Flags :=
  let nan := Fmt.canonNan .f32
  let pinf := Fmt.infBits .f32
  let ninf := withSign .f32 true pinf
  let nzero := withSign .f32 true 0
  let one := oneBits .f32
  match readF .f32 a with
  | .nan s => (nan, flagIf s NV)
  | .inf neg =>
    match fn with
    | 0 => (if neg then nzero else 0, 0)
    | 1 => if neg then (nan, NV) else (0, 0)
    | 2 => if neg then (nan, NV) else (pinf, 0)
    | 3 => (if neg then 0 else pinf, 0)
    | 4 => if neg then (nan, NV) else (pinf, 0)
    | 5 => (nan, NV)
    | 6 => (nan, NV)
    | _ => (if neg then withSign .f32 true one else one, 0)
  | .fin neg m e =>
    if m = 0 then
      match fn with
      | 0 => (if neg then ninf else pinf, DZ)
      | 1 => (if neg then ninf else pinf, DZ)
      | 2 => (if neg then nzero else 0, 0)
      | 3 => (one, 0)
      | 4 => (ninf, DZ)
      | 5 => (if neg then nzero else 0, 0)
      | 6 => (one, 0)
      | _ => (if neg then nzero else 0, 0)
    else if neg && (fn == 1 || fn == 2 || fn == 4) then (nan, NV)
    else if fn = 2 then sqrtFin m e
    else if fn = 3 ∧ (if neg then topOf m e ≥ 8 else topOf m e ≥ 7) then
      (if neg then 0 else pinf, NX ||| (if neg then UF else OF))
    else if fn = 0 ∧ topOf m e < -128 then
      (if neg then ninf else pinf, OF ||| NX)
    else sfuFinite fn neg m e a

end Sys2Proof.Machine
end

