-- ==== Sys2Proof/Machine/Payload.lean ====
section
/-! DEFINITION. What the table's rows without bits carry: the operands of the part's events, as plain data. -/

namespace Sys2Proof.Machine

/-- The lowest unit a calendar schedules (13 R316). -/
inductive CalUnit where
  | quadrant (die core quad : Nat)
  | router (die port : Nat)
  | engine (die port : Nat)
  | pseudoChannel (die pch : Nat)
  | fabric (port : Nat)
  deriving DecidableEq, Repr

/-- What a patrol-scrub read of a line finds (12 R275, R293). -/
inductive ScrubResult where
  | clean
  | corrected (pin : Nat)
  | beyond
  deriving DecidableEq, Repr

/-- The operation of a read-modify-write at a home point (07 R172; 15 R355). -/
inductive RmwOp where
  | add | minS | maxS | minU | maxU | and | or | xor | exch | addF32 | addF16x2
  deriving DecidableEq, Repr

/-- What an outside agent does at a home point. Addresses are physical. -/
inductive HomeOp where
  | read (pa bytes : Nat)
  | write (pa : Nat) (data : List Byte)
  | rmw (pa bytes : Nat) (op : RmwOp) (x : Nat)
  | cas (pa bytes : Nat) (old new : Nat)
  deriving DecidableEq, Repr

/-- What a PCIe agent does (11 R252). -/
inductive DmaOp where
  | read (pa bytes : Nat)
  | write (pa : Nat) (data : List Byte)
  deriving DecidableEq, Repr

/-- The body of a fabric packet from a peer (15 R351, R352; 21 R380): an access of a line homed on a die of this device,
as the peer's mapping holds it; a read that makes the peer a sharer; an invalidation of a line homed on the peer; or a
packet that asks for nothing. -/
inductive FabricBody where
  | home (die : Nat) (tracked : Bool) (op : HomeOp)
  | share (die line : Nat)
  | invalidate (line : Nat)
  | pad
  deriving DecidableEq, Repr

/-- What a system core does (11 R253): an access, or a RISC-V FENCE by whether its sets hold reads and writes. -/
inductive CoreOp where
  | access (op : HomeOp) (aq rl : Bool)
  | lr (pa bytes : Nat) (aq : Bool)
  | sc (pa bytes : Nat) (x : Nat) (rl : Bool)
  | fence (predRead predWrite succRead succWrite : Bool)
  /-- the model's own: the oldest operation that the core has waiting is tried -/
  | again
  deriving DecidableEq, Repr

/-- What an RDMA operation names: the queue pair, an address, and the remote key that covers it (15 R356); `ipv4`: its frame is one of
IPv4 (R355); `piece`: the model's own, one line of a message. -/
structure RdmaTarget where
  qp : Nat
  va : Nat
  key : Nat := 0
  ipv4 : Bool := false
  piece : Bool := false
  deriving DecidableEq, Repr

/-- A die and the peer that it watches: another die of the package (0 to 3), or a device (4 + its number) (12 R297). -/
structure Peering where
  die : Nat
  peer : Nat
  deriving DecidableEq, Repr

/-- How a boot goes: the stage that fails, if one does, and whether it is the image's version that fails there; the version of the
image (15 R357, R358). -/
structure BootRun where
  fails : Option (Nat × Bool)
  version : Nat
  deriving DecidableEq, Repr

/-- Readings of one port at a refresh (15 R354). -/
structure PortReading where
  port : Nat
  locked : Bool
  eyeH : Nat
  eyeW : Nat
  berX : Nat
  temp : Nat
  deriving DecidableEq, Repr

/-- A joined entity with wildcards (15 R362, R364). -/
structure StopPattern where
  /-- the watch unit (core and number) whose match sets the stop off -/
  trigger : Option (Nat × Nat)
  /-- true: a system core; false: device threads -/
  side : Option Bool
  part : Option Nat
  /-- OS process and thread -/
  pid : Option Nat := none
  tid : Option Nat := none
  regid : Option Nat
  block : Option (Nat × Nat × Nat)
  warp : Option Nat
  core : Option Nat
  deriving DecidableEq, Repr

/-- A write to a management register or table that has no row of its own (00 R6; the owning rule is named). -/
inductive MgmtWrite where
  /-- 14 R326 -/
  | troot (die part pa : Nat)
  /-- 14 R332 -/
  | hintTable (die part pa count : Nat)
  /-- 14 R331: a command placed in the invalidation queue -/
  | invalidation (die : Nat) (cmd : BitVec 128)
  /-- 14 R338: an answer placed in the resume queue -/
  | resumeAnswer (die : Nat) (word : BitVec 64)
  /-- 13 R302: an RCB address placed in the root-launch queue by a partition's system software -/
  | rootQueue (die part pa : Nat)
  /-- 02 R48 -/
  | deviceNumber (dev : Nat)
  /-- 14 R343 -/
  | carveOut (part base len : Nat)
  | counterAllow (part : Nat) (allow : Bool)
  | snapshotArea (part pa : Nat)
  | spillArea (part pa : Nat)
  | channels (part : Nat) (links : List Nat)
  /-- 15 R350 -/
  | formLink (link : Nat) (ports : List Nat) (peer : Nat)
  /-- 21 R380 -/
  | route (die dev link : Nat)
  /-- 15 R354: 0 EYEH_MIN, 1 BERX_MIN, 2 TEMP_MAX -/
  | portThreshold (port which value : Nat)
  /-- 15 R355: an Ethernet port runs as 1, 2 or 4 ports -/
  | ethernetPort (port lines : Nat)
  /-- 15 R361 -/
  | powerCap (die watts : Nat)
  | boilingLimit (die flux percent : Nat)
  /-- 15 R363 -/
  | watch (die core unit base size kinds part regid : Nat)
  /-- 15 R356 -/
  | queuePair (qp part : Nat)
  | remoteKey (qp key base len : Nat)
  /-- a register whose map marks every field reserved: the write is ignored (00 R6) -/
  | reserved (value : Nat)
  deriving DecidableEq, Repr

end Sys2Proof.Machine
end

