-- ==== Sys2Proof/Syntax.lean ====
section
/-! DEFINITION. The instructions: one constructor for each row of spec/opcode_table.json: the rows without
bits, then the encoded rows that a sink group may hold (07 R177), then the other encoded rows.

An encoded row carries the fields the table gives its word, under the table's names (04 R82): `p` PRED, `d` D or
SD, `a` A or SA, `b` B or SB, `n` NW, `g` and `k` the combine and the predicate of D (04 R91), `i` an immediate,
`c` C or COND or COUNT or the conversion code, `r` RES, a rounding selection or a special register, `v` VIEW,
`t` T, `s` SA, `x` SB, `e` E or END, `l` LVL, `o` an offset, `f` FWD. A row without bits is an event of the part and
carries the operands of Machine/Payload.lean. -/

namespace Sys2Proof

/-- The rows of the table of operations and events. -/
inductive Instr where
  /-- LOAD_RESPONSE, 07 R165 -/
  | loadResponse (id : Nat)
  /-- UMBER_GROUP_EXECUTE, 07 R180 -/
  | umberGroupExecute (id : Nat)
  /-- SINK_GROUP_RESPONSE, 07 R178 -/
  | sinkGroupResponse (id : Nat)
  /-- STORE_ACKNOWLEDGE, 11 R255 -/
  | storeAcknowledge (id : Nat)
  /-- ATOMIC_COMPLETION, 07 R173 -/
  | atomicCompletion (id : Nat)
  /-- DIRECTORY_INVALIDATE, 11 R260 -/
  | directoryInvalidate (die line id : Nat)
  /-- LTIME_TICK, 11 R254 -/
  | ltimeTick (die : Nat)
  /-- LR_RESERVATION_EXPIRY, 07 R174 -/
  | lrReservationExpiry (blk warp lane stamp : Nat)
  /-- OWNER_TIMEOUT_EXPIRY, 08 R198 -/
  | ownerTimeoutExpiry (blk unit stamp : Nat)
  /-- ORPHAN_DETECTION, 05 R122 -/
  | orphanDetection (blk warp : Nat)
  /-- TRAILING_LAG_TIMEOUT, 12 R291 -/
  | trailingLagTimeout (blk warp stamp : Nat)
  /-- HANDLER_ENTRY, 14 R337 -/
  | handlerEntry (blk unit : Nat)
  /-- FAULT_RESUME_ANSWER, 14 R338 -/
  | faultResumeAnswer (die : Nat)
  /-- FAULT_KILL_ANSWER, 14 R338 -/
  | faultKillAnswer (die : Nat)
  /-- PAGE_WALK_DONE, 14 R330 -/
  | pageWalkDone (id page : Nat)
  /-- INVALIDATION_COMMAND, 14 R331 -/
  | invalidationCommand (die : Nat)
  /-- CODE_PAGE_HASH_DONE, 14 R347 -/
  | codePageHashDone (die region page : Nat)
  /-- ENGINE_UNIT, 08 R193 -/
  | engineUnit (cmd : Nat)
  /-- ENGINE_PAGE_ANSWER, 08 R195 -/
  | enginePageAnswer (req : Nat) (granted : Bool)
  /-- ENGINE_COMMAND_END, 08 R191 -/
  | engineCommandEnd (cmd : Nat)
  /-- MMLD_BANK_VALID, 08 R204 -/
  | mmldBankValid (cmd : Nat)
  /-- BIND_BLOCK, 13 R315 -/
  | bindBlock (die core : Nat)
  /-- BIND_RUNG_WARP, 13 R314 -/
  | bindRungWarp (die core : Nat)
  /-- BIND_RESUME_SNAPSHOT, 13 R315 -/
  | bindResumeSnapshot (die core : Nat)
  /-- BANK_SWITCH, 02 R56 -/
  | bankSwitch (die core : Nat)
  /-- DISPATCH_START, 13 R315 -/
  | dispatchStart (blk : Nat)
  /-- ROOT_LAUNCH, 13 R302 -/
  | rootLaunch (die : Nat)
  /-- VILLEK_PLACEMENT, 13 R310 -/
  | villekPlacement (die region core tile0 wslot0 snap : Nat)
  /-- PRIORITY_AGEING, 13 R310 -/
  | priorityAgeing (region : Nat)
  /-- LIMIT_CHECK, 13 R309 -/
  | limitCheck (die : Nat)
  /-- BLOCK_COMPLETION, 05 R114 -/
  | blockCompletion (blk : Nat)
  /-- LADDER_STARVATION, 09 R215 -/
  | ladderStarvation (ladder rung : Nat)
  /-- LADDER_WARP_LAUNCH, 09 R215 -/
  | ladderWarpLaunch (ladder rung core tile0 wslot0 : Nat)
  /-- LADDER_FRAME_TIMEOUT, 09 R216 -/
  | ladderFrameTimeout (blk lane stamp : Nat)
  /-- ASH_SPILL_DONE, 02 R58 -/
  | ashSpillDone (die core : Nat)
  /-- RESTORE_REQUEST, 14 R341 -/
  | restoreRequest (blk die core tile0 wslot0 step : Nat)
  /-- MIGRATION_STOP, 14 R349 -/
  | migrationStop (blk : Nat)
  /-- WORLD_SWITCH, 14 R344 -/
  | worldSwitch (die cluster part : Nat)
  /-- COUNTER_STEAL, 09 R230 -/
  | counterSteal (core bank : Nat)
  /-- COUNTER_RETURN, 14 R344 -/
  | counterReturn (core bank : Nat)
  /-- CALENDAR_WRITE, 13 R316 -/
  | calendarWrite (unit : Machine.CalUnit) (cal : List (BitVec 16))
  /-- CALENDAR_ADOPT, 13 R316 -/
  | calendarAdopt (unit : Machine.CalUnit)
  /-- PATROL_SCRUB, 12 R275 -/
  | patrolScrub (die line : Nat) (found : Machine.ScrubResult)
  /-- DEVICE_RESET, 02 R59 -/
  | deviceReset
  /-- DIE_RESET, 02 R59 -/
  | dieReset (die : Nat)
  /-- HEARTBEAT_SEND, 12 R297 -/
  | heartbeatSend
  /-- HEARTBEAT_MISS, 12 R297 -/
  | heartbeatMiss (pair : Machine.Peering) (path : Nat)
  /-- FENCE_DIRECTORY_SCRUB, 12 R299 -/
  | fenceDirectoryScrub (pair : Machine.Peering)
  /-- FABRIC_PACKET_RECEIVE, 15 R352 -/
  | fabricPacketReceive (link seq : Nat) (crcOk : Bool) (body : Machine.FabricBody)
  /-- FABRIC_ACK_RECEIVE, 15 R351 -/
  | fabricAckReceive (link seq : Nat)
  /-- FABRIC_COMPLETION_RECEIVE, 21 R380 -/
  | fabricCompletionReceive (cmd unit dev : Nat)
  /-- PORT_FAIL, 15 R353 -/
  | portFail (port : Nat)
  /-- LINK_RETRAIN_DONE, 15 R353 -/
  | linkRetrainDone (link : Nat)
  /-- LINK_RETRAIN_REQUEST, 15 R353 -/
  | linkRetrainRequest (link : Nat) (broken : List Nat)
  /-- PORT_STATUS_REFRESH, 15 R354 -/
  | portStatusRefresh (readings : List Machine.PortReading)
  /-- PORT_WARN_CLEAR, 15 R354 -/
  | portWarnClear (port : Nat) (mask : BitVec 3)
  /-- RDMA_SEND, 15 R356 -/
  | rdmaSend (dst : Machine.RdmaTarget) (data : List Byte)
  /-- RDMA_SEND_IMMEDIATE, 15 R356 -/
  | rdmaSendImmediate (dst : Machine.RdmaTarget) (data : List Byte) (imm : BitVec 32)
  /-- RDMA_WRITE, 15 R356 -/
  | rdmaWrite (dst : Machine.RdmaTarget) (data : List Byte)
  /-- RDMA_WRITE_IMMEDIATE, 15 R356 -/
  | rdmaWriteImmediate (dst : Machine.RdmaTarget) (data : List Byte) (imm : BitVec 32)
  /-- RDMA_READ, 15 R356 -/
  | rdmaRead (dst : Machine.RdmaTarget) (bytes : Nat)
  /-- RDMA_COMPARE_SWAP, 15 R356 -/
  | rdmaCompareSwap (dst : Machine.RdmaTarget) (old new : BitVec 64)
  /-- RDMA_FETCH_ADD, 15 R356 -/
  | rdmaFetchAdd (dst : Machine.RdmaTarget) (x : BitVec 64)
  /-- ECN_MARK, 15 R355 -/
  | ecnMark (qp : Nat)
  /-- POWER_ON, 15 R357 -/
  | powerOn (fails : Option (Nat × Bool)) (version : Nat)
  /-- BOOT_RETRY, 15 R357 -/
  | bootRetry (run : Machine.BootRun)
  /-- ATTESTATION_QUOTE, 15 R359 -/
  | attestationQuote (nonce : BitVec 256)
  /-- MEASUREMENT_EXTEND, 15 R359 -/
  | measurementExtend (reg : Nat) (digest : BitVec 384)
  /-- TELEMETRY_REPORT, 15 R360 -/
  | telemetryReport (die : Nat) (record : BitVec 256)
  /-- CLOCK_GOVERN, 15 R361 -/
  | clockGovern (die : Nat)
  /-- STOP_REQUEST, 15 R364 -/
  | stopRequest (pat : Machine.StopPattern)
  /-- STOP_RESUME, 15 R364 -/
  | stopResume
  /-- ENERGY_WEIGHT_WRITE, 15 R366 -/
  | energyWeightWrite (die cls : Nat) (weight : BitVec 16)
  /-- REGISTER_WRITE, 00 R6 -/
  | registerWrite (write : Machine.MgmtWrite)
  /-- SYSTEM_CORE_MEMORY_ACCESS, 11 R253 -/
  | systemCoreMemoryAccess (core : Nat) (op : Machine.CoreOp)
  /-- PCIE_DMA_ACCESS, 11 R252 -/
  | pcieDmaAccess (op : Machine.DmaOp)
  /-- HEARTBEAT_RECEIVE, 12 R297 -/
  | heartbeatReceive (pair : Machine.Peering) (path : Nat)
  /-- PEER_READMISSION, 12 R300 -/
  | peerReadmission (pair : Machine.Peering)
  /-- RESIDENCE_ENERGY_CHARGE, 15 R366 -/
  | residenceEnergyCharge (blk : Nat)
  /-- EXEC_TIME_CHARGE, 13 R321 -/
  | execTimeCharge (region : Nat)
  /-- IADD, 06 R138 -/
  | iadd (p : BitVec 4) (d a b : BitVec 6) (n : BitVec 1)
  /-- ISUB, 06 R138 -/
  | isub (p : BitVec 4) (d a b : BitVec 6) (n : BitVec 1)
  /-- IMUL, 06 R138 -/
  | imul (p : BitVec 4) (d a b : BitVec 6) (n : BitVec 1)
  /-- IMAD, 06 R138 -/
  | imad (p : BitVec 4) (d a b : BitVec 6) (n : BitVec 1)
  /-- IMULH_I32, 06 R138 -/
  | imulhI32 (p : BitVec 4) (d a b : BitVec 6) (n : BitVec 1)
  /-- IMULH_N32, 06 R138 -/
  | imulhN32 (p : BitVec 4) (d a b : BitVec 6) (n : BitVec 1)
  /-- IADDS_I32, 06 R138 -/
  | iaddsI32 (p : BitVec 4) (d a b : BitVec 6) (n : BitVec 1)
  /-- ISUBS_I32, 06 R138 -/
  | isubsI32 (p : BitVec 4) (d a b : BitVec 6) (n : BitVec 1)
  /-- IMIN_I32, 06 R138 -/
  | iminI32 (p : BitVec 4) (d a b : BitVec 6) (n : BitVec 1)
  /-- IMIN_N32, 06 R138 -/
  | iminN32 (p : BitVec 4) (d a b : BitVec 6) (n : BitVec 1)
  /-- IMAX_I32, 06 R138 -/
  | imaxI32 (p : BitVec 4) (d a b : BitVec 6) (n : BitVec 1)
  /-- IMAX_N32, 06 R138 -/
  | imaxN32 (p : BitVec 4) (d a b : BitVec 6) (n : BitVec 1)
  /-- IABS_I32, 06 R138 -/
  | iabsI32 (p : BitVec 4) (d a : BitVec 6) (n : BitVec 1)
  /-- IDIFF_N32, 06 R138 -/
  | idiffN32 (p : BitVec 4) (d a b : BitVec 6) (n : BitVec 1)
  /-- IADD64, 06 R139 -/
  | iadd64 (p : BitVec 4) (d a b : BitVec 6)
  /-- ISUB64, 06 R139 -/
  | isub64 (p : BitVec 4) (d a b : BitVec 6)
  /-- AND, 06 R138 -/
  | andV (p : BitVec 4) (d a b : BitVec 6) (n : BitVec 1)
  /-- OR, 06 R138 -/
  | orV (p : BitVec 4) (d a b : BitVec 6) (n : BitVec 1)
  /-- XOR, 06 R138 -/
  | xorV (p : BitVec 4) (d a b : BitVec 6) (n : BitVec 1)
  /-- ANDN, 06 R138 -/
  | andn (p : BitVec 4) (d a b : BitVec 6) (n : BitVec 1)
  /-- SHL, 06 R138 -/
  | shl (p : BitVec 4) (d a b : BitVec 6) (n : BitVec 1)
  /-- SHR, 06 R138 -/
  | shr (p : BitVec 4) (d a b : BitVec 6) (n : BitVec 1)
  /-- SAR, 06 R138 -/
  | sar (p : BitVec 4) (d a b : BitVec 6) (n : BitVec 1)
  /-- ROT, 06 R138 -/
  | rot (p : BitVec 4) (d a b : BitVec 6) (n : BitVec 1)
  /-- POPC, 06 R138 -/
  | popc (p : BitVec 4) (d a : BitVec 6) (n : BitVec 1)
  /-- CLZ, 06 R138 -/
  | clz (p : BitVec 4) (d a : BitVec 6) (n : BitVec 1)
  /-- BREV, 06 R138 -/
  | brev (p : BitVec 4) (d a : BitVec 6) (n : BitVec 1)
  /-- BFE_I32, 06 R140 -/
  | bfeI32 (p : BitVec 4) (d a b : BitVec 6) (n : BitVec 1)
  /-- BFE_N32, 06 R140 -/
  | bfeN32 (p : BitVec 4) (d a b : BitVec 6) (n : BitVec 1)
  /-- BFI, 06 R140 -/
  | bfi (p : BitVec 4) (d a b : BitVec 6) (n : BitVec 1)
  /-- LOP3, 06 R141 -/
  | lop3 (p : BitVec 4) (d a b : BitVec 6) (n : BitVec 1)
  /-- PRMT, 06 R141 -/
  | prmt (p : BitVec 4) (d a b : BitVec 6) (n : BitVec 1)
  /-- ISET_EQ, 06 R143 -/
  | isetEq (p : BitVec 4) (g : BitVec 2) (k : BitVec 3) (a b : BitVec 6)
  /-- ISET_NE, 06 R143 -/
  | isetNe (p : BitVec 4) (g : BitVec 2) (k : BitVec 3) (a b : BitVec 6)
  /-- ISET_LT_I32, 06 R143 -/
  | isetLtI32 (p : BitVec 4) (g : BitVec 2) (k : BitVec 3) (a b : BitVec 6)
  /-- ISET_LE_I32, 06 R143 -/
  | isetLeI32 (p : BitVec 4) (g : BitVec 2) (k : BitVec 3) (a b : BitVec 6)
  /-- ISET_LT_N32, 06 R143 -/
  | isetLtN32 (p : BitVec 4) (g : BitVec 2) (k : BitVec 3) (a b : BitVec 6)
  /-- ISET_LE_N32, 06 R143 -/
  | isetLeN32 (p : BitVec 4) (g : BitVec 2) (k : BitVec 3) (a b : BitVec 6)
  /-- ISET_TST, 06 R143 -/
  | isetTst (p : BitVec 4) (g : BitVec 2) (k : BitVec 3) (a b : BitVec 6)
  /-- ISET_NTST, 06 R143 -/
  | isetNtst (p : BitVec 4) (g : BitVec 2) (k : BitVec 3) (a b : BitVec 6)
  /-- SEL, 06 R144 -/
  | sel (p : BitVec 4) (d a b : BitVec 6) (n : BitVec 1) (k : BitVec 3)
  /-- IADDI, 06 R142 -/
  | iaddi (p : BitVec 4) (d a : BitVec 6) (i : BitVec 10)
  /-- SHLI, 06 R142 -/
  | shli (p : BitVec 4) (d a : BitVec 6) (i : BitVec 5)
  /-- SHRI, 06 R142 -/
  | shri (p : BitVec 4) (d a : BitVec 6) (i : BitVec 5)
  /-- SARI, 06 R142 -/
  | sari (p : BitVec 4) (d a : BitVec 6) (i : BitVec 5)
  /-- ROTI, 06 R142 -/
  | roti (p : BitVec 4) (d a : BitVec 6) (i : BitVec 5)
  /-- ANDI, 06 R142 -/
  | andi (p : BitVec 4) (d a : BitVec 6) (i : BitVec 7)
  /-- ORI, 06 R142 -/
  | ori (p : BitVec 4) (d a : BitVec 6) (i : BitVec 7)
  /-- XORI, 06 R142 -/
  | xori (p : BitVec 4) (d a : BitVec 6) (i : BitVec 7)
  /-- FADD, 06 R145 -/
  | fadd (p : BitVec 4) (d a b : BitVec 6) (n : BitVec 1)
  /-- FSUB, 06 R145 -/
  | fsub (p : BitVec 4) (d a b : BitVec 6) (n : BitVec 1)
  /-- FMUL, 06 R145 -/
  | fmul (p : BitVec 4) (d a b : BitVec 6) (n : BitVec 1)
  /-- FFMA, 06 R145 -/
  | ffma (p : BitVec 4) (d a b : BitVec 6) (n : BitVec 1)
  /-- FMIN, 06 R145 -/
  | fmin (p : BitVec 4) (d a b : BitVec 6) (n : BitVec 1)
  /-- FMAX, 06 R145 -/
  | fmax (p : BitVec 4) (d a b : BitVec 6) (n : BitVec 1)
  /-- FMNA, 06 R145 -/
  | fmna (p : BitVec 4) (d a b : BitVec 6) (n : BitVec 1)
  /-- FCOPYS, 06 R145 -/
  | fcopys (p : BitVec 4) (d a b : BitVec 6) (n : BitVec 1)
  /-- LD_B8_I, 07 R165 -/
  | ldB8I (p : BitVec 4) (d c : BitVec 6) (v : BitVec 7)
  /-- LD_B8_N, 07 R165 -/
  | ldB8N (p : BitVec 4) (d c : BitVec 6) (v : BitVec 7)
  /-- LD_B16_I, 07 R165 -/
  | ldB16I (p : BitVec 4) (d c : BitVec 6) (v : BitVec 7)
  /-- LD_B16_N, 07 R165 -/
  | ldB16N (p : BitVec 4) (d c : BitVec 6) (v : BitVec 7)
  /-- LD_B32, 07 R165 -/
  | ldB32 (p : BitVec 4) (d c : BitVec 6) (v : BitVec 7)
  /-- LD_B64, 07 R165 -/
  | ldB64 (p : BitVec 4) (d c : BitVec 6) (v : BitVec 7)
  /-- LD_B128, 07 R165 -/
  | ldB128 (p : BitVec 4) (d c : BitVec 6) (v : BitVec 7)
  /-- LDC_B32, 07 R167 -/
  | ldcB32 (p : BitVec 4) (d c : BitVec 6) (v : BitVec 7)
  /-- ST_B8, 07 R165 -/
  | stB8 (p : BitVec 4) (d c : BitVec 6) (v : BitVec 7)
  /-- ST_B16, 07 R165 -/
  | stB16 (p : BitVec 4) (d c : BitVec 6) (v : BitVec 7)
  /-- ST_B32, 07 R165 -/
  | stB32 (p : BitVec 4) (d c : BitVec 6) (v : BitVec 7)
  /-- ST_B64, 07 R165 -/
  | stB64 (p : BitVec 4) (d c : BitVec 6) (v : BitVec 7)
  /-- ST_B128, 07 R165 -/
  | stB128 (p : BitVec 4) (d c : BitVec 6) (v : BitVec 7)
  /-- RED_ADD_I32, 07 R172 -/
  | redAddI32 (p : BitVec 4) (d c : BitVec 6) (v : BitVec 7)
  /-- RED_MIN_I32, 07 R172 -/
  | redMinI32 (p : BitVec 4) (d c : BitVec 6) (v : BitVec 7)
  /-- RED_MAX_I32, 07 R172 -/
  | redMaxI32 (p : BitVec 4) (d c : BitVec 6) (v : BitVec 7)
  /-- RED_AND, 07 R172 -/
  | redAnd (p : BitVec 4) (d c : BitVec 6) (v : BitVec 7)
  /-- RED_OR, 07 R172 -/
  | redOr (p : BitVec 4) (d c : BitVec 6) (v : BitVec 7)
  /-- RED_XOR, 07 R172 -/
  | redXor (p : BitVec 4) (d c : BitVec 6) (v : BitVec 7)
  /-- RED_ADD_F32, 07 R172 -/
  | redAddF32 (p : BitVec 4) (d c : BitVec 6) (v : BitVec 7)
  /-- RED_ADD_F16X2, 07 R172 -/
  | redAddF16x2 (p : BitVec 4) (d c : BitVec 6) (v : BitVec 7)
  /-- FSET_EQ, 06 R143 -/
  | fsetEq (p : BitVec 4) (g : BitVec 2) (k : BitVec 3) (a b : BitVec 6)
  /-- FSET_NE, 06 R143 -/
  | fsetNe (p : BitVec 4) (g : BitVec 2) (k : BitVec 3) (a b : BitVec 6)
  /-- FSET_LT, 06 R143 -/
  | fsetLt (p : BitVec 4) (g : BitVec 2) (k : BitVec 3) (a b : BitVec 6)
  /-- FSET_LE, 06 R143 -/
  | fsetLe (p : BitVec 4) (g : BitVec 2) (k : BitVec 3) (a b : BitVec 6)
  /-- FSET_ORD, 06 R143 -/
  | fsetOrd (p : BitVec 4) (g : BitVec 2) (k : BitVec 3) (a b : BitVec 6)
  /-- FSET_UNORD, 06 R143 -/
  | fsetUnord (p : BitVec 4) (g : BitVec 2) (k : BitVec 3) (a b : BitVec 6)
  /-- FSET_EQU, 06 R143 -/
  | fsetEqu (p : BitVec 4) (g : BitVec 2) (k : BitVec 3) (a b : BitVec 6)
  /-- FSET_LTU, 06 R143 -/
  | fsetLtu (p : BitVec 4) (g : BitVec 2) (k : BitVec 3) (a b : BitVec 6)
  /-- FRCP, 06 R146 -/
  | frcp (p : BitVec 4) (d a : BitVec 6) (n : BitVec 1)
  /-- FRSQ, 06 R146 -/
  | frsq (p : BitVec 4) (d a : BitVec 6) (n : BitVec 1)
  /-- FSQRT, 06 R146 -/
  | fsqrt (p : BitVec 4) (d a : BitVec 6) (n : BitVec 1)
  /-- FEX2, 06 R146 -/
  | fex2 (p : BitVec 4) (d a : BitVec 6) (n : BitVec 1)
  /-- FLG2, 06 R146 -/
  | flg2 (p : BitVec 4) (d a : BitVec 6) (n : BitVec 1)
  /-- FSIN, 06 R146 -/
  | fsin (p : BitVec 4) (d a : BitVec 6) (n : BitVec 1)
  /-- FCOS, 06 R146 -/
  | fcos (p : BitVec 4) (d a : BitVec 6) (n : BitVec 1)
  /-- FTANH, 06 R146 -/
  | ftanh (p : BitVec 4) (d a : BitVec 6) (n : BitVec 1)
  /-- HADD2_F16, 06 R147 -/
  | hadd2F16 (p : BitVec 4) (d a b : BitVec 6) (n : BitVec 1)
  /-- HSUB2_F16, 06 R147 -/
  | hsub2F16 (p : BitVec 4) (d a b : BitVec 6) (n : BitVec 1)
  /-- HMUL2_F16, 06 R147 -/
  | hmul2F16 (p : BitVec 4) (d a b : BitVec 6) (n : BitVec 1)
  /-- HFMA2_F16, 06 R147 -/
  | hfma2F16 (p : BitVec 4) (d a b : BitVec 6) (n : BitVec 1)
  /-- HMIN2_F16, 06 R147 -/
  | hmin2F16 (p : BitVec 4) (d a b : BitVec 6) (n : BitVec 1)
  /-- HMAX2_F16, 06 R147 -/
  | hmax2F16 (p : BitVec 4) (d a b : BitVec 6) (n : BitVec 1)
  /-- HDOT2_F16, 06 R147 -/
  | hdot2F16 (p : BitVec 4) (d a b : BitVec 6) (n : BitVec 1)
  /-- HADD2_BF16, 06 R147 -/
  | hadd2Bf16 (p : BitVec 4) (d a b : BitVec 6) (n : BitVec 1)
  /-- HSUB2_BF16, 06 R147 -/
  | hsub2Bf16 (p : BitVec 4) (d a b : BitVec 6) (n : BitVec 1)
  /-- HMUL2_BF16, 06 R147 -/
  | hmul2Bf16 (p : BitVec 4) (d a b : BitVec 6) (n : BitVec 1)
  /-- HFMA2_BF16, 06 R147 -/
  | hfma2Bf16 (p : BitVec 4) (d a b : BitVec 6) (n : BitVec 1)
  /-- HMIN2_BF16, 06 R147 -/
  | hmin2Bf16 (p : BitVec 4) (d a b : BitVec 6) (n : BitVec 1)
  /-- HMAX2_BF16, 06 R147 -/
  | hmax2Bf16 (p : BitVec 4) (d a b : BitVec 6) (n : BitVec 1)
  /-- HDOT2_BF16, 06 R147 -/
  | hdot2Bf16 (p : BitVec 4) (d a b : BitVec 6) (n : BitVec 1)
  /-- CVT, 06 R148 -/
  | cvt (p : BitVec 4) (d a c : BitVec 6) (n : BitVec 1) (r : BitVec 3)
  /-- FRND_RN, 06 R149 -/
  | frndRn (p : BitVec 4) (d a : BitVec 6) (n : BitVec 1)
  /-- FRND_RZ, 06 R149 -/
  | frndRz (p : BitVec 4) (d a : BitVec 6) (n : BitVec 1)
  /-- FRND_RD, 06 R149 -/
  | frndRd (p : BitVec 4) (d a : BitVec 6) (n : BitVec 1)
  /-- FRND_RU, 06 R149 -/
  | frndRu (p : BitVec 4) (d a : BitVec 6) (n : BitVec 1)
  /-- FFRAC, 06 R149 -/
  | ffrac (p : BitVec 4) (d a : BitVec 6) (n : BitVec 1)
  /-- FEXP, 06 R149 -/
  | fexp (p : BitVec 4) (d a : BitVec 6) (n : BitVec 1)
  /-- FSCALE, 06 R149 -/
  | fscale (p : BitVec 4) (d a b : BitVec 6) (n : BitVec 1)
  /-- FCLASS, 06 R149 -/
  | fclass (p : BitVec 4) (d a : BitVec 6) (n : BitVec 1)
  /-- SHFL_IDX, 06 R150 -/
  | shflIdx (p : BitVec 4) (d a b : BitVec 6) (n : BitVec 1)
  /-- SHFL_XOR, 06 R150 -/
  | shflXor (p : BitVec 4) (d a b : BitVec 6) (n : BitVec 1)
  /-- SHFL_UP, 06 R150 -/
  | shflUp (p : BitVec 4) (d a b : BitVec 6) (n : BitVec 1)
  /-- SHFL_DOWN, 06 R150 -/
  | shflDown (p : BitVec 4) (d a b : BitVec 6) (n : BitVec 1)
  /-- VOTE_ANY, 06 R150 -/
  | voteAny (p : BitVec 4) (g : BitVec 2) (k : BitVec 3) (a : BitVec 6)
  /-- VOTE_ALL, 06 R150 -/
  | voteAll (p : BitVec 4) (g : BitVec 2) (k : BitVec 3) (a : BitVec 6)
  /-- BALLOT, 06 R150 -/
  | ballot (p : BitVec 4) (d a : BitVec 6) (n : BitVec 1)
  /-- MATCH, 06 R150 -/
  | matchLanes (p : BitVec 4) (d a : BitVec 6) (n : BitVec 1)
  /-- REDUX_ADD_I32, 06 R151 -/
  | reduxAddI32 (p : BitVec 4) (d a : BitVec 6) (n : BitVec 1)
  /-- REDUX_MIN_I32, 06 R151 -/
  | reduxMinI32 (p : BitVec 4) (d a : BitVec 6) (n : BitVec 1)
  /-- REDUX_MAX_I32, 06 R151 -/
  | reduxMaxI32 (p : BitVec 4) (d a : BitVec 6) (n : BitVec 1)
  /-- REDUX_ADD_F32, 06 R151 -/
  | reduxAddF32 (p : BitVec 4) (d a : BitVec 6) (n : BitVec 1)
  /-- ELECT, 06 R151 -/
  | elect (p : BitVec 4) (g : BitVec 2) (k : BitVec 3)
  /-- S2V, 06 R151 -/
  | s2v (p : BitVec 4) (d : BitVec 6) (s : BitVec 5) (n : BitVec 1)
  /-- V2S, 06 R151 -/
  | v2s (p : BitVec 4) (d : BitVec 5) (a : BitVec 6)
  /-- SADD, 06 R152 -/
  | sadd (d a b : BitVec 5)
  /-- SSUB, 06 R152 -/
  | ssub (d a b : BitVec 5)
  /-- SMUL, 06 R152 -/
  | smul (d a b : BitVec 5)
  /-- SAND, 06 R152 -/
  | sand (d a b : BitVec 5)
  /-- SOR, 06 R152 -/
  | sor (d a b : BitVec 5)
  /-- SXOR, 06 R152 -/
  | sxor (d a b : BitVec 5)
  /-- SSHL, 06 R152 -/
  | sshl (d a b : BitVec 5)
  /-- SSHR, 06 R152 -/
  | sshr (d a b : BitVec 5)
  /-- SADDI, 06 R152 -/
  | saddi (d a : BitVec 5) (i : BitVec 12)
  /-- SMIN_I32, 06 R152 -/
  | sminI32 (d a b : BitVec 5)
  /-- SMAX_I32, 06 R152 -/
  | smaxI32 (d a b : BitVec 5)
  /-- SMIN_N32, 06 R152 -/
  | sminN32 (d a b : BitVec 5)
  /-- SMAX_N32, 06 R152 -/
  | smaxN32 (d a b : BitVec 5)
  /-- SSAR, 06 R152 -/
  | ssar (d a b : BitVec 5)
  /-- SPOPC, 06 R152 -/
  | spopc (d a : BitVec 5)
  /-- SCLZ, 06 R152 -/
  | sclz (d a : BitVec 5)
  /-- SBR, 05 R111 -/
  | sbr (c : BitVec 4) (a b : BitVec 5) (o : BitVec 12)
  /-- SMOVI, 06 R152 -/
  | smovi (d : BitVec 5) (i : BitVec 12)
  /-- BRA, 05 R110 -/
  | bra (p : BitVec 4) (o : BitVec 22)
  /-- CALL, 05 R110 -/
  | call (p : BitVec 4) (o : BitVec 22)
  /-- BRX, 05 R110 -/
  | brx (p : BitVec 4) (a : BitVec 6)
  /-- CALLX, 05 R110 -/
  | callx (p : BitVec 4) (a : BitVec 6)
  /-- RET, 05 R110 -/
  | ret (p : BitVec 4)
  /-- EXIT, 05 R113 -/
  | exit (p : BitVec 4) (a : BitVec 6)
  /-- YIELD, 05 R115 -/
  | yield (p : BitVec 4)
  /-- NOP, 05 R115 -/
  | nop (p : BitVec 4)
  /-- NEXT, 05 R116 -/
  | nextSeg (p : BitVec 4) (a : BitVec 6)
  /-- BRK, 05 R115 -/
  | brk (p : BitVec 4)
  /-- JENTER, 05 R119 -/
  | jenter (p e : BitVec 4)
  /-- JQUIT, 05 R119 -/
  | jquit (p e : BitVec 4)
  /-- JWAIT, 05 R119 -/
  | jwait (p e : BitVec 4)
  /-- JMOVF, 05 R119 -/
  | jmovf (p : BitVec 4) (s x : BitVec 5) (e : BitVec 4)
  /-- JMOVT, 05 R119 -/
  | jmovt (p : BitVec 4) (s x : BitVec 5) (e : BitVec 4)
  /-- JCLR, 05 R119 -/
  | jclr (p e : BitVec 4)
  /-- LOOP, 05 R124 -/
  | loop (l : BitVec 1) (s : BitVec 5) (e : BitVec 12)
  /-- LOOPI, 05 R124 -/
  | loopi (l : BitVec 1) (c : BitVec 10) (e : BitVec 11)
  /-- BAR_SYNC, 05 R131 -/
  | barSync (p e : BitVec 4)
  /-- BAR_ARV, 05 R131 -/
  | barArv (p e : BitVec 4)
  /-- BAR_WAIT, 05 R131 -/
  | barWait (p e : BitVec 4)
  /-- BAR_CNT, 05 R130 -/
  | barCnt (p : BitVec 4) (s : BitVec 5) (e : BitVec 4)
  /-- LDS_B32_ROW, 07 R168 -/
  | ldsB32Row (p : BitVec 4) (d c : BitVec 6) (v : BitVec 7)
  /-- LDS_B32_COL, 07 R168 -/
  | ldsB32Col (p : BitVec 4) (d c : BitVec 6) (v : BitVec 7)
  /-- LDS_B64_ROW, 07 R168 -/
  | ldsB64Row (p : BitVec 4) (d c : BitVec 6) (v : BitVec 7)
  /-- LDS_B64_COL, 07 R168 -/
  | ldsB64Col (p : BitVec 4) (d c : BitVec 6) (v : BitVec 7)
  /-- LDS_B16_ROW, 07 R168 -/
  | ldsB16Row (p : BitVec 4) (d c : BitVec 6) (v : BitVec 7)
  /-- LDS_B16_COL, 07 R168 -/
  | ldsB16Col (p : BitVec 4) (d c : BitVec 6) (v : BitVec 7)
  /-- LDS_B8_ROW, 07 R168 -/
  | ldsB8Row (p : BitVec 4) (d c : BitVec 6) (v : BitVec 7)
  /-- LDS_B128_ROW, 07 R168 -/
  | ldsB128Row (p : BitVec 4) (d c : BitVec 6) (v : BitVec 7)
  /-- STS_B32_ROW, 07 R168 -/
  | stsB32Row (p : BitVec 4) (d c : BitVec 6) (v : BitVec 7)
  /-- STS_B32_COL, 07 R168 -/
  | stsB32Col (p : BitVec 4) (d c : BitVec 6) (v : BitVec 7)
  /-- STS_B64_ROW, 07 R168 -/
  | stsB64Row (p : BitVec 4) (d c : BitVec 6) (v : BitVec 7)
  /-- STS_B64_COL, 07 R168 -/
  | stsB64Col (p : BitVec 4) (d c : BitVec 6) (v : BitVec 7)
  /-- STS_B16_ROW, 07 R168 -/
  | stsB16Row (p : BitVec 4) (d c : BitVec 6) (v : BitVec 7)
  /-- STS_B16_COL, 07 R168 -/
  | stsB16Col (p : BitVec 4) (d c : BitVec 6) (v : BitVec 7)
  /-- STS_B8_ROW, 07 R168 -/
  | stsB8Row (p : BitVec 4) (d c : BitVec 6) (v : BitVec 7)
  /-- STS_B128_ROW, 07 R168 -/
  | stsB128Row (p : BitVec 4) (d c : BitVec 6) (v : BitVec 7)
  /-- ATOM_ADD, 07 R172 -/
  | atomAdd (p : BitVec 4) (d c : BitVec 6) (v : BitVec 7)
  /-- ATOM_MIN_I32, 07 R172 -/
  | atomMinI32 (p : BitVec 4) (d c : BitVec 6) (v : BitVec 7)
  /-- ATOM_MAX_I32, 07 R172 -/
  | atomMaxI32 (p : BitVec 4) (d c : BitVec 6) (v : BitVec 7)
  /-- ATOM_MIN_N32, 07 R172 -/
  | atomMinN32 (p : BitVec 4) (d c : BitVec 6) (v : BitVec 7)
  /-- ATOM_MAX_N32, 07 R172 -/
  | atomMaxN32 (p : BitVec 4) (d c : BitVec 6) (v : BitVec 7)
  /-- ATOM_AND, 07 R172 -/
  | atomAnd (p : BitVec 4) (d c : BitVec 6) (v : BitVec 7)
  /-- ATOM_OR, 07 R172 -/
  | atomOr (p : BitVec 4) (d c : BitVec 6) (v : BitVec 7)
  /-- ATOM_XOR, 07 R172 -/
  | atomXor (p : BitVec 4) (d c : BitVec 6) (v : BitVec 7)
  /-- ATOM_EXCH, 07 R172 -/
  | atomExch (p : BitVec 4) (d c : BitVec 6) (v : BitVec 7)
  /-- ATOM_CAS, 07 R172 -/
  | atomCas (p : BitVec 4) (d c : BitVec 6) (v : BitVec 7)
  /-- ATOM_ADD_F32, 07 R172 -/
  | atomAddF32 (p : BitVec 4) (d c : BitVec 6) (v : BitVec 7)
  /-- LR_B32, 07 R174 -/
  | lrB32 (p : BitVec 4) (d c : BitVec 6) (v : BitVec 7)
  /-- SC_B32, 07 R174 -/
  | scB32 (p : BitVec 4) (d c : BitVec 6) (v : BitVec 7)
  /-- ATOMS_ADD, 07 R172 -/
  | atomsAdd (p : BitVec 4) (d c : BitVec 6) (v : BitVec 7)
  /-- ATOMS_MIN_I32, 07 R172 -/
  | atomsMinI32 (p : BitVec 4) (d c : BitVec 6) (v : BitVec 7)
  /-- ATOMS_MAX_I32, 07 R172 -/
  | atomsMaxI32 (p : BitVec 4) (d c : BitVec 6) (v : BitVec 7)
  /-- ATOMS_EXCH, 07 R172 -/
  | atomsExch (p : BitVec 4) (d c : BitVec 6) (v : BitVec 7)
  /-- ATOMS_CAS, 07 R172 -/
  | atomsCas (p : BitVec 4) (d c : BitVec 6) (v : BitVec 7)
  /-- ATOMS_ADD_F32, 07 R172 -/
  | atomsAddF32 (p : BitVec 4) (d c : BitVec 6) (v : BitVec 7)
  /-- ATOMS_OR, 07 R172 -/
  | atomsOr (p : BitVec 4) (d c : BitVec 6) (v : BitVec 7)
  /-- ATOMS_AND, 07 R172 -/
  | atomsAnd (p : BitVec 4) (d c : BitVec 6) (v : BitVec 7)
  /-- FENCE_ACQ, 07 R175 -/
  | fenceAcq (p e : BitVec 4)
  /-- FENCE_REL, 07 R175 -/
  | fenceRel (p e : BitVec 4)
  /-- FENCE_AR, 07 R175 -/
  | fenceAr (p e : BitVec 4)
  /-- FENCE_SC, 11 R258 -/
  | fenceSc (p e : BitVec 4)
  /-- PREF, 07 R170 -/
  | pref (p : BitVec 4) (c : BitVec 6) (v : BitVec 7)
  /-- PREF_LLC, 07 R170 -/
  | prefLlc (p : BitVec 4) (c : BitVec 6) (v : BitVec 7)
  /-- CWB, 07 R170 -/
  | cwb (p : BitVec 4) (c : BitVec 6) (v : BitVec 7)
  /-- CINV, 07 R170 -/
  | cinv (p : BitVec 4) (c : BitVec 6) (v : BitVec 7)
  /-- CWBI, 07 R170 -/
  | cwbi (p : BitVec 4) (c : BitVec 6) (v : BitVec 7)
  /-- LDNT_B32, 07 R166 -/
  | ldntB32 (p : BitVec 4) (d c : BitVec 6) (v : BitVec 7)
  /-- STNT_B32, 07 R166 -/
  | stntB32 (p : BitVec 4) (d c : BitVec 6) (v : BitVec 7)
  /-- GBEGIN, 07 R176 -/
  | gbegin (p : BitVec 4) (x : BitVec 5) (e : BitVec 4)
  /-- GEND, 07 R177 -/
  | gend (p : BitVec 4)
  /-- VIEWF, 07 R163 -/
  | viewf (p : BitVec 4) (s : BitVec 5) (e : BitVec 4)
  /-- VIEWP, 07 R163 -/
  | viewp (p : BitVec 4) (t s x : BitVec 5) (e : BitVec 4)
  /-- VIEWQ, 07 R163 -/
  | viewq (p : BitVec 4) (t s : BitVec 5) (e : BitVec 4)
  /-- CPY, 08 R200 -/
  | cpy (p : BitVec 4) (t s x : BitVec 5) (r : BitVec 1)
  /-- CPYA_F32, 08 R200 -/
  | cpyaF32 (p : BitVec 4) (t s x : BitVec 5) (r : BitVec 1)
  /-- CPYA_F16, 08 R200 -/
  | cpyaF16 (p : BitVec 4) (t s x : BitVec 5) (r : BitVec 1)
  /-- CPYG, 08 R200 -/
  | cpyg (p : BitVec 4) (t s x : BitVec 5) (r : BitVec 1)
  /-- OWN_E, 08 R197 -/
  | ownE (p : BitVec 4) (s x : BitVec 5)
  /-- OWN_T, 08 R197 -/
  | ownT (p : BitVec 4) (s x : BitVec 5)
  /-- OWNQ, 08 R197 -/
  | ownq (p : BitVec 4) (t s : BitVec 5)
  /-- CSLD, 08 R203 -/
  | csld (p : BitVec 4) (t s x : BitVec 5) (r : BitVec 1)
  /-- MMLD, 08 R204 -/
  | mmld (p : BitVec 4) (t s : BitVec 5)
  /-- MMRUN, 08 R205 -/
  | mmrun (p : BitVec 4) (t s x : BitVec 5) (r : BitVec 1)
  /-- MMDRAIN, 08 R206 -/
  | mmdrain (p : BitVec 4) (t s x : BitVec 5) (r : BitVec 1)
  /-- REDE, 08 R209 -/
  | rede (p : BitVec 4) (t s x : BitVec 5) (r : BitVec 1)
  /-- MMA_F16, 06 R153 -/
  | mmaF16 (p : BitVec 4) (d a b : BitVec 6)
  /-- MMA_BF16, 06 R153 -/
  | mmaBf16 (p : BitVec 4) (d a b : BitVec 6)
  /-- MMA_F8E4, 06 R153 -/
  | mmaF8e4 (p : BitVec 4) (d a b : BitVec 6)
  /-- MMA_F8E5, 06 R153 -/
  | mmaF8e5 (p : BitVec 4) (d a b : BitVec 6)
  /-- MMA_I8, 06 R153 -/
  | mmaI8 (p : BitVec 4) (d a b : BitVec 6)
  /-- LADR_LANE, 09 R214 -/
  | ladrLane (p : BitVec 4) (t s : BitVec 5)
  /-- LADR_RANGE, 09 R214 -/
  | ladrRange (p : BitVec 4) (t s x : BitVec 5)
  /-- LESC, 09 R216 -/
  | lesc (p : BitVec 4) (t : BitVec 5) (e : BitVec 4)
  /-- LRET, 09 R216 -/
  | lret (p : BitVec 4) (t : BitVec 5)
  /-- LFRM, 09 R216 -/
  | lfrm (p : BitVec 4) (t : BitVec 5)
  /-- LINFO, 09 R219 -/
  | linfo (p : BitVec 4) (t s : BitVec 5) (e : BitVec 4)
  /-- RLAUNCH, 09 R221 -/
  | rlaunch (p : BitVec 4) (t s x : BitVec 5) (e : BitVec 1)
  /-- RQUERY, 09 R222 -/
  | rquery (p : BitVec 4) (t s x : BitVec 5) (e : BitVec 4)
  /-- COMMIT, 09 R223 -/
  | commit (p : BitVec 4)
  /-- DQPUSH, 09 R224 -/
  | dqpush (p : BitVec 4) (s x : BitVec 5)
  /-- DQPOP, 09 R224 -/
  | dqpop (p : BitVec 4) (t : BitVec 5)
  /-- SRD, 09 R225 -/
  | srd (p : BitVec 4) (t r : BitVec 5)
  /-- SWR, 09 R225 -/
  | swr (p : BitVec 4) (r x : BitVec 5)
  /-- TRAP, 09 R227 -/
  | trap (p e : BitVec 4)
  /-- RTE, 09 R227 -/
  | rte (p : BitVec 4) (f : BitVec 1)
  /-- XLR, 09 R227 -/
  | xlr (p : BitVec 4) (t s x : BitVec 5)
  /-- XLW, 09 R227 -/
  | xlw (p : BitVec 4) (t s x : BitVec 5)
  /-- KILL, 09 R228 -/
  | kill (p : BitVec 4) (s : BitVec 5)
  /-- PARKQ, 09 R227 -/
  | parkq (p : BitVec 4) (t s : BitVec 5)
  /-- UNPARK, 09 R227 -/
  | unpark (p : BitVec 4) (s : BitVec 5)
  /-- CTRCLM, 09 R230 -/
  | ctrclm (p : BitVec 4) (t s : BitVec 5)
  /-- CTRREL, 09 R230 -/
  | ctrrel (p : BitVec 4) (s : BitVec 5)
  /-- CTRCFG, 09 R231 -/
  | ctrcfg (p : BitVec 4) (s x : BitVec 5)
  /-- CTRRD_LO, 09 R232 -/
  | ctrrdLo (p : BitVec 4) (t s : BitVec 5)
  /-- CTRRD_HI, 09 R232 -/
  | ctrrdHi (p : BitVec 4) (t : BitVec 5)
  /-- ENRD, 09 R233 -/
  | enrd (p : BitVec 4) (t : BitVec 5)
  /-- HIMM, 04 R97 -/
  | himm (i : BitVec 22)
  /-- HSTALL, 04 R100 -/
  | hstall (g : BitVec 10) (w s : BitVec 6)
  /-- HMOD, 04 R98 -/
  | hmod (o : BitVec 2) (c s v : BitVec 1) (m : BitVec 2)
  /-- HCOORD, 04 R99 -/
  | hcoord (w z y x : BitVec 5)
  deriving DecidableEq, Repr

end Sys2Proof
end

