-- ==== Sys2Proof/Machine/Legal.lean ====
section
/-! DEFINITION. The encodings that raise ILLEGAL when a lane is active (04 R102), as far as the word alone decides:
register codes, register groups, NW, predicate fields and the small operands. What depends on hint words, on the unit
or on the region is checked at issue (Machine/Issue.lean). -/

namespace Sys2Proof.Machine

/-- A vector register code (04 R89). -/
def vreg (c : BitVec 6) : Bool := decide (c.toNat < 56)

/-- A source code: vector register, ZERO, LANE or latch (04 R89). -/
def src (a : BitVec 6) : Bool := a != 58 && a != 59

/-- A vector destination. -/
def dst (d : BitVec 6) : Bool := vreg d

/-- A destination that NW may send to the latches alone (04 R90). -/
def dstNw (d : BitVec 6) (n : BitVec 1) : Bool := if n == 1 then d == 56 else vreg d

/-- A predicate destination (04 R91). -/
def dstPred (g : BitVec 2) (k : BitVec 3) : Bool := g != 3 && k != 7

/-- `n` registers from `d` on lie within v55 (04 R89). -/
def run (d : BitVec 6) (n : Nat) : Bool := decide (d.toNat + n ≤ 56)

/-- A register pair as a 64-bit source, or ZERO (06 R139). -/
def pair64 (a : BitVec 6) : Bool := run a 2 || a == 56

/-- Data of a store of `n` registers (07 R164): any source code for one, a register group or ZERO for more. -/
def data (d : BitVec 6) (n : Nat) : Bool := if n = 1 then src d else run d n || d == 56

/-- A conversion code of 03 R72. -/
def cvtCode (c : BitVec 6) : Bool :=
  !(c == 0x0E || c == 0x0F || (decide (0x1C ≤ c.toNat) && decide (c.toNat ≤ 0x1F))
    || (decide (0x2C ≤ c.toNat) && decide (c.toNat ≤ 0x2F)) || decide (0x3A ≤ c.toNat))

/-- The word alone gives no ground for ILLEGAL. -/
def legalForm : Instr → Bool
  | .iadd _ d a b n => dstNw d n && src a && src b
  | .isub _ d a b n => dstNw d n && src a && src b
  | .imul _ d a b n => dstNw d n && src a && src b
  | .imad _ d a b n => dstNw d n && src a && src b
  | .imulhI32 _ d a b n => dstNw d n && src a && src b
  | .imulhN32 _ d a b n => dstNw d n && src a && src b
  | .iaddsI32 _ d a b n => dstNw d n && src a && src b
  | .isubsI32 _ d a b n => dstNw d n && src a && src b
  | .iminI32 _ d a b n => dstNw d n && src a && src b
  | .iminN32 _ d a b n => dstNw d n && src a && src b
  | .imaxI32 _ d a b n => dstNw d n && src a && src b
  | .imaxN32 _ d a b n => dstNw d n && src a && src b
  | .iabsI32 _ d a n => dstNw d n && src a
  | .idiffN32 _ d a b n => dstNw d n && src a && src b
  | .iadd64 _ d a b => run d 2 && pair64 a && pair64 b
  | .isub64 _ d a b => run d 2 && pair64 a && pair64 b
  | .andV _ d a b n => dstNw d n && src a && src b
  | .orV _ d a b n => dstNw d n && src a && src b
  | .xorV _ d a b n => dstNw d n && src a && src b
  | .andn _ d a b n => dstNw d n && src a && src b
  | .shl _ d a b n => dstNw d n && src a && src b
  | .shr _ d a b n => dstNw d n && src a && src b
  | .sar _ d a b n => dstNw d n && src a && src b
  | .rot _ d a b n => dstNw d n && src a && src b
  | .popc _ d a n => dstNw d n && src a
  | .clz _ d a n => dstNw d n && src a
  | .brev _ d a n => dstNw d n && src a
  | .bfeI32 _ d a b n => dstNw d n && src a && src b
  | .bfeN32 _ d a b n => dstNw d n && src a && src b
  | .bfi _ d a b n => dstNw d n && src a && src b
  | .lop3 _ d a b n => dstNw d n && src a && src b
  | .prmt _ d a b n => dstNw d n && src a && src b
  | .isetEq _ g k a b => dstPred g k && src a && src b
  | .isetNe _ g k a b => dstPred g k && src a && src b
  | .isetLtI32 _ g k a b => dstPred g k && src a && src b
  | .isetLeI32 _ g k a b => dstPred g k && src a && src b
  | .isetLtN32 _ g k a b => dstPred g k && src a && src b
  | .isetLeN32 _ g k a b => dstPred g k && src a && src b
  | .isetTst _ g k a b => dstPred g k && src a && src b
  | .isetNtst _ g k a b => dstPred g k && src a && src b
  | .sel _ d a b n _ => dstNw d n && src a && src b
  | .iaddi _ d a _ => dst d && src a
  | .shli _ d a _ => dst d && src a
  | .shri _ d a _ => dst d && src a
  | .sari _ d a _ => dst d && src a
  | .roti _ d a _ => dst d && src a
  | .andi _ d a _ => dst d && src a
  | .ori _ d a _ => dst d && src a
  | .xori _ d a _ => dst d && src a
  | .fadd _ d a b n => dstNw d n && src a && src b
  | .fsub _ d a b n => dstNw d n && src a && src b
  | .fmul _ d a b n => dstNw d n && src a && src b
  | .ffma _ d a b n => dstNw d n && src a && src b
  | .fmin _ d a b n => dstNw d n && src a && src b
  | .fmax _ d a b n => dstNw d n && src a && src b
  | .fmna _ d a b n => dstNw d n && src a && src b
  | .fcopys _ d a b n => dstNw d n && src a && src b
  | .fsetEq _ g k a b => dstPred g k && src a && src b
  | .fsetNe _ g k a b => dstPred g k && src a && src b
  | .fsetLt _ g k a b => dstPred g k && src a && src b
  | .fsetLe _ g k a b => dstPred g k && src a && src b
  | .fsetOrd _ g k a b => dstPred g k && src a && src b
  | .fsetUnord _ g k a b => dstPred g k && src a && src b
  | .fsetEqu _ g k a b => dstPred g k && src a && src b
  | .fsetLtu _ g k a b => dstPred g k && src a && src b
  | .frcp _ d a n => dstNw d n && src a
  | .frsq _ d a n => dstNw d n && src a
  | .fsqrt _ d a n => dstNw d n && src a
  | .fex2 _ d a n => dstNw d n && src a
  | .flg2 _ d a n => dstNw d n && src a
  | .fsin _ d a n => dstNw d n && src a
  | .fcos _ d a n => dstNw d n && src a
  | .ftanh _ d a n => dstNw d n && src a
  | .hadd2F16 _ d a b n => dstNw d n && src a && src b
  | .hsub2F16 _ d a b n => dstNw d n && src a && src b
  | .hmul2F16 _ d a b n => dstNw d n && src a && src b
  | .hfma2F16 _ d a b n => dstNw d n && src a && src b
  | .hmin2F16 _ d a b n => dstNw d n && src a && src b
  | .hmax2F16 _ d a b n => dstNw d n && src a && src b
  | .hdot2F16 _ d a b n => dstNw d n && src a && src b
  | .hadd2Bf16 _ d a b n => dstNw d n && src a && src b
  | .hsub2Bf16 _ d a b n => dstNw d n && src a && src b
  | .hmul2Bf16 _ d a b n => dstNw d n && src a && src b
  | .hfma2Bf16 _ d a b n => dstNw d n && src a && src b
  | .hmin2Bf16 _ d a b n => dstNw d n && src a && src b
  | .hmax2Bf16 _ d a b n => dstNw d n && src a && src b
  | .hdot2Bf16 _ d a b n => dstNw d n && src a && src b
  | .cvt _ d a c n r => dstNw d n && src a && cvtCode c && decide (r.toNat < 6)
  | .frndRn _ d a n => dstNw d n && src a
  | .frndRz _ d a n => dstNw d n && src a
  | .frndRd _ d a n => dstNw d n && src a
  | .frndRu _ d a n => dstNw d n && src a
  | .ffrac _ d a n => dstNw d n && src a
  | .fexp _ d a n => dstNw d n && src a
  | .fscale _ d a b n => dstNw d n && src a && src b
  | .fclass _ d a n => dstNw d n && src a
  | .shflIdx _ d a b n => dstNw d n && src a && src b
  | .shflXor _ d a b n => dstNw d n && src a && src b
  | .shflUp _ d a b n => dstNw d n && src a && src b
  | .shflDown _ d a b n => dstNw d n && src a && src b
  | .voteAny _ g k a => dstPred g k && src a
  | .voteAll _ g k a => dstPred g k && src a
  | .ballot _ d a n => dstNw d n && src a
  | .matchLanes _ d a n => dstNw d n && src a
  | .reduxAddI32 _ d a n => dstNw d n && src a
  | .reduxMinI32 _ d a n => dstNw d n && src a
  | .reduxMaxI32 _ d a n => dstNw d n && src a
  | .reduxAddF32 _ d a n => dstNw d n && src a
  | .elect _ g k => dstPred g k
  | .s2v _ d _ n => dstNw d n
  | .v2s _ _ a => src a
  | .sadd _ _ _ => true
  | .ssub _ _ _ => true
  | .smul _ _ _ => true
  | .sand _ _ _ => true
  | .sor _ _ _ => true
  | .sxor _ _ _ => true
  | .sshl _ _ _ => true
  | .sshr _ _ _ => true
  | .saddi _ _ _ => true
  | .sminI32 _ _ _ => true
  | .smaxI32 _ _ _ => true
  | .sminN32 _ _ _ => true
  | .smaxN32 _ _ _ => true
  | .ssar _ _ _ => true
  | .spopc _ _ => true
  | .sclz _ _ => true
  | .sbr c a b _ => decide (c.toNat < 6) || (c == 6 && a == 0 && b == 0)
  | .smovi _ _ => true
  | .bra _ _ => true
  | .call _ _ => true
  | .brx _ a => src a
  | .callx _ a => src a
  | .ret _ => true
  | .exit _ a => src a
  | .yield _ => true
  | .nop _ => true
  | .nextSeg _ a => src a
  | .brk _ => true
  | .jenter _ _ => true
  | .jquit _ _ => true
  | .jwait _ _ => true
  | .jmovf _ s x _ => s != x
  | .jmovt _ _ _ _ => true
  | .jclr _ _ => true
  | .loop _ _ e => e != 0
  | .loopi _ _ e => e != 0
  | .barSync _ _ => true
  | .barArv _ _ => true
  | .barWait _ _ => true
  | .barCnt _ _ _ => true
  | .ldB8I _ d c _ => run d 1 && vreg c
  | .ldB8N _ d c _ => run d 1 && vreg c
  | .ldB16I _ d c _ => run d 1 && vreg c
  | .ldB16N _ d c _ => run d 1 && vreg c
  | .ldB32 _ d c _ => run d 1 && vreg c
  | .ldB64 _ d c _ => run d 2 && vreg c
  | .ldB128 _ d c _ => run d 4 && vreg c
  | .ldcB32 _ d c _ => run d 1 && vreg c
  | .stB8 _ d c _ => data d 1 && vreg c
  | .stB16 _ d c _ => data d 1 && vreg c
  | .stB32 _ d c _ => data d 1 && vreg c
  | .stB64 _ d c _ => data d 2 && vreg c
  | .stB128 _ d c _ => data d 4 && vreg c
  | .ldsB32Row _ d c _ => run d 1 && vreg c
  | .ldsB32Col _ d c _ => run d 1 && vreg c
  | .ldsB64Row _ d c _ => run d 2 && vreg c
  | .ldsB64Col _ d c _ => run d 2 && vreg c
  | .ldsB16Row _ d c _ => run d 1 && vreg c
  | .ldsB16Col _ d c _ => run d 1 && vreg c
  | .ldsB8Row _ d c _ => run d 1 && vreg c
  | .ldsB128Row _ d c _ => run d 4 && vreg c
  | .stsB32Row _ d c _ => data d 1 && vreg c
  | .stsB32Col _ d c _ => data d 1 && vreg c
  | .stsB64Row _ d c _ => data d 2 && vreg c
  | .stsB64Col _ d c _ => data d 2 && vreg c
  | .stsB16Row _ d c _ => data d 1 && vreg c
  | .stsB16Col _ d c _ => data d 1 && vreg c
  | .stsB8Row _ d c _ => data d 1 && vreg c
  | .stsB128Row _ d c _ => data d 4 && vreg c
  | .atomAdd _ d c _ => run d 1 && vreg c
  | .atomMinI32 _ d c _ => run d 1 && vreg c
  | .atomMaxI32 _ d c _ => run d 1 && vreg c
  | .atomMinN32 _ d c _ => run d 1 && vreg c
  | .atomMaxN32 _ d c _ => run d 1 && vreg c
  | .atomAnd _ d c _ => run d 1 && vreg c
  | .atomOr _ d c _ => run d 1 && vreg c
  | .atomXor _ d c _ => run d 1 && vreg c
  | .atomExch _ d c _ => run d 1 && vreg c
  | .atomCas _ d c _ => run d 2 && vreg c
  | .atomAddF32 _ d c _ => run d 1 && vreg c
  | .lrB32 _ d c _ => run d 1 && vreg c
  | .scB32 _ d c _ => run d 1 && vreg c
  | .redAddI32 _ d c _ => data d 1 && vreg c
  | .redMinI32 _ d c _ => data d 1 && vreg c
  | .redMaxI32 _ d c _ => data d 1 && vreg c
  | .redAnd _ d c _ => data d 1 && vreg c
  | .redOr _ d c _ => data d 1 && vreg c
  | .redXor _ d c _ => data d 1 && vreg c
  | .redAddF32 _ d c _ => data d 1 && vreg c
  | .redAddF16x2 _ d c _ => data d 1 && vreg c
  | .atomsAdd _ d c _ => run d 1 && vreg c
  | .atomsMinI32 _ d c _ => run d 1 && vreg c
  | .atomsMaxI32 _ d c _ => run d 1 && vreg c
  | .atomsExch _ d c _ => run d 1 && vreg c
  | .atomsCas _ d c _ => run d 2 && vreg c
  | .atomsAddF32 _ d c _ => run d 1 && vreg c
  | .atomsOr _ d c _ => run d 1 && vreg c
  | .atomsAnd _ d c _ => run d 1 && vreg c
  | .fenceAcq _ e => decide (e.toNat < 6)
  | .fenceRel _ e => decide (e.toNat < 6)
  | .fenceAr _ e => decide (e.toNat < 6)
  | .fenceSc _ e => decide (e.toNat < 6)
  | .pref _ c _ => vreg c
  | .prefLlc _ c _ => vreg c
  | .cwb _ c _ => vreg c
  | .cinv _ c _ => vreg c
  | .cwbi _ c _ => vreg c
  | .ldntB32 _ d c _ => run d 1 && vreg c
  | .stntB32 _ d c _ => data d 1 && vreg c
  | .gbegin _ x e => decide (2 ≤ e.toNat) && decide (e.toNat ≤ 8) && decide (x.toNat ≤ 3)
  | .gend _ => true
  | .viewf _ s e => e == 0 || (e == 15 && s == 0)
  | .viewp _ _ _ _ e => e != 15
  | .viewq _ _ _ _ => true
  | .cpy _ _ _ x r => r == 1 || x == 0
  | .cpyaF32 _ _ _ x r => r == 1 || x == 0
  | .cpyaF16 _ _ _ x r => r == 1 || x == 0
  | .cpyg _ _ _ x r => r == 1 || x == 0
  | .ownE _ _ _ => true
  | .ownT _ _ _ => true
  | .ownq _ _ _ => true
  | .csld _ _ _ x r => r == 1 || x == 0
  | .mmld _ _ _ => true
  | .mmrun _ _ _ x r => r == 1 || x == 0
  | .mmdrain _ _ _ x r => r == 1 || x == 0
  | .rede _ _ _ x r => r == 1 || x == 0
  | .mmaF16 _ d a b => run d 4 && run a 4 && run b 2
  | .mmaBf16 _ d a b => run d 4 && run a 4 && run b 2
  | .mmaF8e4 _ d a b => run d 4 && run a 2 && run b 1
  | .mmaF8e5 _ d a b => run d 4 && run a 2 && run b 1
  | .mmaI8 _ d a b => run d 4 && run a 2 && run b 1
  | .ladrLane _ _ _ => true
  | .ladrRange _ _ _ _ => true
  | .lesc _ _ e => decide (e.toNat ≤ 8)
  | .lret _ _ => true
  | .lfrm _ _ => true
  | .linfo _ _ _ e => decide (e.toNat ≤ 6)
  | .rlaunch _ _ _ _ _ => true
  | .rquery _ _ _ _ e => decide (e.toNat ≤ 6)
  | .commit _ => true
  | .dqpush _ _ _ => true
  | .dqpop _ t => t != 31
  | .srd _ _ r => decide (r.toNat ≤ 0x16)
  | .swr _ r _ => r == 0x16
  | .trap _ _ => true
  | .rte _ _ => true
  | .xlr _ _ _ _ => true
  | .xlw _ _ _ _ => true
  | .kill _ _ => true
  | .parkq _ _ _ => true
  | .unpark _ _ => true
  | .ctrclm _ _ _ => true
  | .ctrrel _ _ => true
  | .ctrcfg _ _ _ => true
  | .ctrrdLo _ _ _ => true
  | .ctrrdHi _ _ => true
  | .enrd _ t => t != 31
  | .himm _ => true
  | .hstall _ _ _ => true
  | .hmod _ _ _ _ _ => true
  | .hcoord _ _ _ _ => true
  | .loadResponse _ => true
  | .umberGroupExecute _ => true
  | .sinkGroupResponse _ => true
  | .storeAcknowledge _ => true
  | .atomicCompletion _ => true
  | .directoryInvalidate _ _ _ => true
  | .ltimeTick _ => true
  | .lrReservationExpiry _ _ _ _ => true
  | .ownerTimeoutExpiry _ _ _ => true
  | .orphanDetection _ _ => true
  | .trailingLagTimeout _ _ _ => true
  | .handlerEntry _ _ => true
  | .faultResumeAnswer _ => true
  | .faultKillAnswer _ => true
  | .pageWalkDone _ _ => true
  | .invalidationCommand _ => true
  | .codePageHashDone _ _ _ => true
  | .engineUnit _ => true
  | .enginePageAnswer _ _ => true
  | .engineCommandEnd _ => true
  | .mmldBankValid _ => true
  | .bindBlock _ _ => true
  | .bindRungWarp _ _ => true
  | .bindResumeSnapshot _ _ => true
  | .bankSwitch _ _ => true
  | .dispatchStart _ => true
  | .rootLaunch _ => true
  | .villekPlacement _ _ _ _ _ _ => true
  | .priorityAgeing _ => true
  | .limitCheck _ => true
  | .blockCompletion _ => true
  | .ladderStarvation _ _ => true
  | .ladderWarpLaunch _ _ _ _ _ => true
  | .ladderFrameTimeout _ _ _ => true
  | .ashSpillDone _ _ => true
  | .restoreRequest _ _ _ _ _ _ => true
  | .migrationStop _ => true
  | .worldSwitch _ _ _ => true
  | .counterSteal _ _ => true
  | .counterReturn _ _ => true
  | .calendarWrite _ _ => true
  | .calendarAdopt _ => true
  | .patrolScrub _ _ _ => true
  | .deviceReset => true
  | .dieReset _ => true
  | .heartbeatSend => true
  | .heartbeatMiss _ _ => true
  | .fenceDirectoryScrub _ => true
  | .fabricPacketReceive _ _ _ _ => true
  | .fabricAckReceive _ _ => true
  | .fabricCompletionReceive _ _ _ => true
  | .portFail _ => true
  | .linkRetrainDone _ => true
  | .linkRetrainRequest _ _ => true
  | .portStatusRefresh _ => true
  | .portWarnClear _ _ => true
  | .rdmaSend _ _ => true
  | .rdmaSendImmediate _ _ _ => true
  | .rdmaWrite _ _ => true
  | .rdmaWriteImmediate _ _ _ => true
  | .rdmaRead _ _ => true
  | .rdmaCompareSwap _ _ _ => true
  | .rdmaFetchAdd _ _ => true
  | .ecnMark _ => true
  | .powerOn _ _ => true
  | .bootRetry _ => true
  | .attestationQuote _ => true
  | .measurementExtend _ _ => true
  | .telemetryReport _ _ => true
  | .clockGovern _ => true
  | .stopRequest _ => true
  | .stopResume => true
  | .energyWeightWrite _ _ _ => true
  | .registerWrite _ => true
  | .systemCoreMemoryAccess _ _ => true
  | .pcieDmaAccess _ => true
  | .heartbeatReceive _ _ => true
  | .peerReadmission _ => true
  | .residenceEnergyCharge _ => true
  | .execTimeCharge _ => true

end Sys2Proof.Machine
end

