-- ==== Sys2Proof/Machine/State.lean ====
section
/-! DEFINITION. The state of the part: every piece of state the spec names (INVENTORY.md, State), as plain data.
Sparse tables list only what differs from the value an unlisted key reads as. -/

namespace Sys2Proof.Machine

/-! ## Threads and warps (02 R30 to R42) -/

inductive LaneStatus where
  | running | parked | exited
  deriving DecidableEq, Repr

/-- Wait mark of a lane (05 R105). A loop-end mark says which level the lane waits for. Two more marks hold a lane
whose word has done its part: until writes are acknowledged (11 R256), and until a ladder unit has accepted every item
(09 R214); one more holds a lane at its LESC until a frame is free (09 R216). -/
inductive Wait where
  | none
  | set (n : Nat)
  | loopEnd (level : Nat)
  | barrier (k : Nat)
  /-- acknowledgements awaited, 0 among them where a commit point is due first; the scope of a FENCE.SC that completes then (11
  R258); `near`: by their homes alone, as at DIE scope (11 R256); `drop`: a VIEWF's view, or none for all of them, whose records go once
  its fence is over (07 R163) -/
  | fence (acks : List Nat) (sc : Option Nat) (near : Bool) (drop : Option (Option Nat))
  | submit (n : Nat)
  | frame
  deriving DecidableEq, Repr

/-- A translation as a TLB or a last-page register holds it (14 R328, R330). `page` is the virtual address of
the page's first byte, `base` its physical address, both for the leaf's size. -/
structure Leaf where
  part : Nat
  size : Nat
  page : Nat
  base : Nat
  r : Bool
  w : Bool
  x : Bool
  t : Bool
  d : Bool
  hdie : Nat
  hdev : Nat
  deriving DecidableEq, Repr

/-- What a parked lane keeps of its fault (14 R333, R337, R338). -/
structure Park where
  cause : Nat
  /-- %trappc of the fault -/
  pc : Nat
  resume : Nat
  view : Word
  coord : Word
  va : Nat := 0
  acc : Nat := 0
  /-- when the fault was taken -/
  stamp : Nat
  /-- the watch units that the access matches (15 R363, R364) -/
  watch : List Nat := []
  /-- the access that faulted, by its number: the order of its instruction -/
  issue : Option Nat := none
  /-- the operand-log entry that a resumption re-issues -/
  entry : Option Nat := none
  /-- the lane had completed the word before its resume PC: it arrives at the loop ends there when it resumes
  (05 R125) -/
  past : Bool := false
  /-- entered in a handler, or forwarded: it waits for no further delivery -/
  delivered : Bool := false
  deriving DecidableEq, Repr

/-- Registers that an instruction reads and writes: vector, scalar, predicate (04 R93 rule 6). -/
structure Touch where
  rv : BitVec 56 := 0
  rs : Word := 0
  rp : BitVec 8 := 0
  wv : BitVec 56 := 0
  ws : Word := 0
  wp : BitVec 8 := 0
  deriving DecidableEq, Repr

/-- One instruction of a lane's path, as the latches remember it (04 R92, R93). -/
structure Latch where
  /-- the pushed value; none is the "no value" mark -/
  val : Option Word
  taint : Bool
  /-- the major may stand inside a chain (R93 rule 1) -/
  inner : Bool
  /-- a hint word other than HIMM or HMOD belongs to it (R93 rule 4) -/
  hint : Bool
  /-- a loop end stepped back after it (R93 rule 3) -/
  back : Bool
  touch : Touch := {}
  deriving DecidableEq, Repr

/-- LR reservation (02 R30, 07 R174): the line and a stamp that tells one reservation from the next. -/
structure Resv where
  line : Nat
  stamp : Nat
  deriving DecidableEq, Repr

structure Lane where
  v : Table Word := []
  pc : Nat := 0
  taint : BitVec 56 := 0
  /-- registers whose stored word has an error beyond its code (12 R274) -/
  bad : BitVec 56 := 0
  status : LaneStatus := .running
  wait : Wait := .none
  latches : List Latch := []
  resv : Option Resv := none
  lastPage : Option Leaf := none
  park : Option Park := none
  /-- the record of the fault that its handler serves, while a fault of the handler is forwarded (14 R337) -/
  held : Option Park := none
  /-- item id and frame handle that the ladder unit keeps with the lane (09 R216) -/
  item : Option Nat := none
  frame : Option Nat := none
  /-- the trailing lane, or the lane that awaits a frame, stands at its timeout stamp -/
  stamp : Nat := 0
  deriving DecidableEq, Repr

/-- A loop level (02 R37). -/
structure Loop where
  active : Bool := false
  remaining : Nat := 0
  body : Nat := 0
  endPc : Nat := 0
  entry : Word := 0
  deriving DecidableEq, Repr

/-- An open latch chain (02 R38, 04 R94), and what its members have read (R93 rule 6). -/
structure Chain where
  head : Nat
  lanes : Word
  vregs : BitVec 56 := 0
  sregs : Word := 0
  preds : BitVec 8 := 0
  broken : Bool := false
  /-- the word being issued is the chain's last member -/
  last : Bool := false
  deriving DecidableEq, Repr

/-- Operations of atomics (07 R171, R172). -/
inductive AtomOp where
  | add | minS | maxS | minU | maxU | and | or | xor | exch | cas | addF32 | addF16x2
  deriving DecidableEq, Repr

/-- What a logged instruction does (07 R164 to R182). -/
inductive MemOp where
  /-- width in bytes, sign extension -/
  | load (w : Nat) (signed : Bool)
  | store (w : Nat)
  | lds (w : Nat)
  | sts (w : Nat)
  | atom (op : AtomOp)
  | red (op : AtomOp)
  | lr
  | sc
  | atoms (op : AtomOp)
  /-- FN of major 0x29: 2 CWB, 3 CINV, 4 CWBI -/
  | maint (fn : Nat)
  | sink
  deriving DecidableEq, Repr

/-- Engine commands (08 R185). -/
inductive CmdOp where
  | cpy | cpyaF32 | cpyaF16 | cpyg | csld | mmld | mmrun | mmdrain | rede
  deriving DecidableEq, Repr

/-- How a logged access stands in one lane. -/
inductive Phase where
  | walking | passed
  /-- it awaits room in the block store buffer: its block's commit point is due (12 R280) -/
  | held
  /-- a lane of a group awaits its earlier accesses to the lead line (10 R238, R242) -/
  | behind
  | faulted
  /-- the lane has resumed, and issues the access again before it issues a word (14 R334) -/
  | again
  /-- it awaits an earlier access of its lane that has faulted, and is performed after the lane's resumption (10 R240) -/
  | after
  deriving DecidableEq, Repr

/-- One lane of an operand-log entry (02 R39): coordinates and data as captured, the element addresses (none where
clip mode 1 skips), and the line and translation once it has them. -/
structure LaneAcc where
  lane : Nat
  coords : List Word
  data : List Word
  elems : List (Option Nat)
  leaf : Option Leaf := none
  phase : Phase := .walking
  /-- the taint of the result (06 R135; 07 R167) -/
  taint : Bool := false
  /-- the value at hand before the register is written: a response in flight (07 R173) -/
  value : Option (List Word) := none
  /-- the logical time that comes with the response (11 R255, R256) -/
  time : Nat := 0
  deriving DecidableEq, Repr

/-- An operand-log entry: one memory, atomic or sink-group instruction (02 R39). -/
structure Access where
  op : MemOp
  /-- data or result register code, and direction of a scratchpad access -/
  d : Nat
  dir : Nat := 0
  pc : Nat
  headPc : Nat
  view : Nat
  record : BitVec 512
  /-- first coordinate register, offsets of HCOORD, cache policy of HMOD -/
  c : Nat
  offs : List Int := []
  pol : Nat := 0
  lanes : List LaneAcc
  /-- the members of a sink group, each with its hint words, and the group's limit -/
  group : List (Instr × List Word) := []
  limit : Nat := 0
  /-- the access ends a latch chain: the chain's head (04 R95) -/
  chainHead : Option Nat := none
  deriving DecidableEq, Repr

/-- An access that stalls on ENGINE tiles (08 R198): since when, the word, the view where it names one, and for each
lane its first coordinate, or the parameter offset, and the tiles it touches; `entry`: the operand-log entry of one that has been issued
again (14 R334). -/
structure OwnerStall where
  since : Nat
  pc : Nat
  view : Option Nat
  lanes : List (Nat × Word × List Nat)
  entry : Option Nat := none
  deriving DecidableEq, Repr

/-- The word of an ended command in a scalar register (08 R210; 11 R264): the logical time that reading it acquires, whether a word has
read it, and the lanes for which it has been acquired. -/
structure TokenWord where
  time : Nat
  read : Bool := false
  lanes : Word := 0
  deriving DecidableEq, Repr

/-- A warp (02 R34). The front thread of a block is kept as a warp of one lane, which uses none of the vector state
(02 R42), and a trailing warp as a warp (02 R29). -/
structure Warp where
  lanes : List Lane := []
  s : Table Word := []
  /-- scalar registers, the handler bank's from 32 on, whose stored word has an error beyond its code (12 R274) -/
  sBad : List Nat := []
  preds : Table Word := []
  setM : Table Word := []
  setA : Table Word := []
  lc0 : Loop := {}
  lc1 : Loop := {}
  age : Table Nat := []
  chain : Option Chain := none
  log : Table Access := []
  sinkrec : BitVec 64 := 0
  fflags : BitVec 5 := 0
  ctrLatch : BitVec 16 := 0
  /-- the bank that the counter latch was filled from (09 R232) -/
  ctrBank : Nat := 0
  /-- the warp waits for a token, while its core has counters that may count it (09 R231) -/
  tokenWait : Bool := false
  clkLatch : Word := 0
  trapCause : BitVec 6 := 0
  trapPc : Word := 0
  trapMask : Word := 0
  trapView : Word := 0
  trapCoord : Word := 0
  /-- the trap taken last while a handler runs, with its mask: the trap registers show it after the handler (02 R49) -/
  lastTrap : Option (Park × Word) := none
  /-- scalar registers that hold a pending token, with the token's number (08 R190); 32 + n names register n of
  the handler bank -/
  pend : Table Nat := []
  /-- the lane in handler mode, and the handler bank (14 R337) -/
  handler : Option Nat := none
  bank : Table Word := []
  /-- scalar registers that hold the word of an ended command (08 R210) -/
  acq : Table TokenWord := []
  /-- hint words of the unit being issued, the PC of the first, and the path (04 R96) -/
  hints : List Word := []
  hintPc : Nat := 0
  unitLanes : Word := 0
  /-- a YIELD took the path of these lanes, and this warp, out of the next choice (05 R115) -/
  yieldLanes : Word := 0
  yielded : Bool := false
  lastIssue : Nat := 0
  /-- the accesses that stall on an owner bit (08 R198) -/
  owners : List OwnerStall := []
  /-- a word of the warp waits to be a commit point: the block's other threads issue nothing (12 R284) -/
  committing : Bool := false
  /-- the release that the word at a PC has made, and the acknowledgements that it awaits, 0 among them where the commit point
  is due (08 R187; 09 R214, R216, R221) -/
  rel : Option (Nat × List Nat) := none
  deriving DecidableEq, Repr

/-! ## Blocks (02 R46, 05 R130, 12 R279 to R292) -/

structure Barrier where
  expected : Nat := 0
  /-- BAR.CNT took effect for the next phase -/
  nextExpected : Option Nat := none
  arrived : Nat := 0
  phase : Bool := false
  /-- pending bits of units 0 to 15 (warps) and 16 (front thread) -/
  pending : BitVec 17 := 0
  deriving DecidableEq, Repr

/-- An entry of the decision queue (02 R46). -/
structure DqEntry where
  word : BitVec 64
  mask : BitVec 16
  /-- it has an error beyond its code (12 R277) -/
  bad : Bool := false
  deriving DecidableEq, Repr

/-- What a leading warp leaves for its trailing warp to follow (12 R288, R292). -/
inductive Issued where
  /-- it has issued a non-hint word for these lanes; the word was an item that has been compared -/
  | word (lanes : Word) (compared : Bool)
  /-- an event, and no word, has sent these lanes to a PC -/
  | move (lanes : Word) (pc : Nat)
  /-- a NEXT at a PC has sent these lanes to a PC: its trailing warp reads no entry (12 R289) -/
  | jump (lanes : Word) (src pc : Nat)
  /-- a handler has been entered by a lane, or has ended -/
  | handler (lane : Option Nat)
  deriving DecidableEq, Repr

/-- An item that the trailing check compares (12 R290). -/
structure CheckItem where
  /-- PC and path of the instruction, and its hint words -/
  pc : Nat
  lanes : Word
  hints : List Word
  /-- major and FN of the instruction -/
  kind : Nat
  operands : List Nat
  deriving DecidableEq, Repr

/-- An entry of a load-value queue: a value for each lane, and the logged access that it still awaits
(12 R289). -/
structure LvqEntry where
  vals : Table Word
  awaits : Option Nat := none
  deriving DecidableEq, Repr

/-- What the trailing check keeps of a pair of warps (12 R288 to R291): the words that the trailing warp has still to
issue, the load-value queue, and the leading warp's item that awaits its match. -/
structure Pair where
  stream : List Issued := []
  lvq : List LvqEntry := []
  item : Option CheckItem := none
  compared : Bool := false
  /-- since when the leading warp has been held back by its lag (12 R291) -/
  since : Option Nat := none
  deriving DecidableEq, Repr

/-- The banked context of a block (02 R56). -/
structure Ctx where
  warps : List Warp := []
  trailing : List Warp := []
  pairs : List Pair := []
  front : Warp := {}
  dq : List DqEntry := []
  bars : Table Barrier := []
  /-- interlocked mode, fixed at dispatch and decided afresh at a restore (04 R103) -/
  interlocked : Bool := false
  deriving DecidableEq, Repr

/-- A line of the block store buffer (12 R279): byte mask and data. -/
structure BufLine where
  mask : BitVec 128
  data : BitVec 1024
  tracked : Bool
  hdie : Nat
  /-- it has an error beyond its code (12 R274, R284) -/
  bad : Bool := false
  /-- the translations that its stores have used (14 R331) -/
  leaves : List Leaf := []
  deriving DecidableEq, Repr

/-- Where a block's context stands (02 R56, 14 R339). -/
inductive Loc where
  | filling | live | standby | spilling | spilled | moved
  /-- waits to be bound again (12 R282, R286) -/
  | unbound
  deriving DecidableEq, Repr

/-- A snapshot half (12 R283). -/
structure SnapHalf where
  seq : Nat
  ctx : Ctx
  window : Table Byte
  owners : BitVec 128
  status : BitVec 8 := 0
  /-- its error lies beyond the code (12 R286) -/
  bad : Bool := false
  deriving DecidableEq, Repr

/-- How a block ended, or that it has not (13 R323). -/
inductive Fate where
  | running | done | killed | lost | aborted
  deriving DecidableEq, Repr

structure Block where
  regid : Nat
  x : Nat := 0
  y : Nat := 0
  z : Nat := 0
  /-- global core number, 0 to 383 (02 R47) -/
  core : Nat
  tile0 : Nat := 0
  ntile : Nat := 0
  wslot0 : Nat := 0
  snapSlot : Nat := 0
  /-- ladder and rung of a rung warp (09 R215) -/
  rung : Option (Nat × Nat) := none
  loc : Loc := .live
  ctx : Ctx := {}
  buf : Table BufLine := []
  status : BitVec 8 := 0
  fate : Fate := .running
  committed : Bool := false
  /-- a write that cannot be undone has been performed since the last commit point of a protected block (12 R285) -/
  bypassed : Bool := false
  /-- a commit point of a protected block waits until the block is quiet, and no thread issues (12 R284, R285) -/
  commitDue : Bool := false
  /-- an error consumed, or a mismatch of the trailing check, not yet handled (12 R277, R291) -/
  consumed : Option Nat := none
  /-- where that error stood, as UNIT of its event names it (12 R278) -/
  errUnit : Nat := 6
  energy : BitVec 64 := 0
  /-- words that tokens have received since the snapshot, and what reading them acquires (08 R211) -/
  finals : Table (Word × Nat) := []
  /-- an arrival at a barrier has released stores that no commit point has since; the logical time that the block's later writes do
  not precede (10 R248; 11 R256) -/
  arrived : Bool := false
  relTime : Nat := 0
  relaunches : Nat := 0
  rollbacks : Nat := 0
  tStart : Nat := 0
  /-- a stop for migration or debug has been asked (14 R349, 15 R364) -/
  stopping : Bool := false
  /-- the window as a spill image carries it (14 R340) -/
  imgWindow : Table Byte := []
  imgOwners : BitVec 128 := 0
  /-- the spill image that holds it, or held it last: blocks of one image stand in one bank together (14 R340, R341) -/
  image : Option Nat := none
  /-- the commit point of its exit has been taken (05 R114; 12 R280) -/
  exiting : Bool := false
  /-- the commit point that is due has been taken, but for lines that no link carries to their home yet (12 R280; 15 R353) -/
  releasing : Bool := false
  deriving DecidableEq, Repr

/-! ## Cores -/

/-- An L1 copy (11 R254, R262; 12 R271, R276). -/
structure Copy where
  data : BitVec 1024
  tracked : Bool
  rts : Nat
  poison : Bool := false
  first : Bool := false
  /-- its parity fails (12 R274) -/
  bad : Bool := false
  deriving DecidableEq, Repr

/-- A performance counter (09 R229, R231). -/
structure Counter where
  config : Word := 0
  count : BitVec 48 := 0
  deriving DecidableEq, Repr

/-- A counter bank (09 R230). -/
structure CtrBank where
  holder : Option Nat := none
  /-- stolen: the counters are the frozen copy -/
  stolen : Bool := false
  ctrs : Table Counter := []
  deriving DecidableEq, Repr

/-- A watch unit (15 R363). -/
structure Watch where
  base : Nat
  size : Nat
  kinds : Nat
  part : Nat
  regid : Nat
  deriving DecidableEq, Repr

structure Core where
  /-- step count at the core's reset, from which its cycles count (02 R50) -/
  cycle0 : Nat := 0
  ltime : Nat := 0
  part : Nat := 0
  records : Table (BitVec 512) := []
  sp : Table Byte := []
  /-- 4-byte words of the scratchpad that have an error beyond their code (12 R274) -/
  spBad : List Nat := []
  engTiles : BitVec 128 := 0
  l1 : Table Copy := []
  tlb : List Leaf := []
  /-- code words that the core has fetched, at region × 2^32 + PC (14 R384) -/
  fetched : Table Word := []
  banks : Table CtrBank := []
  watches : Table Watch := []
  deriving DecidableEq, Repr

/-! ## Dies -/

/-- A line of an LLC slice (12 R271). `data` is that of a copy; the data of a home line is kept in memory. -/
structure LlcLine where
  home : Bool
  /-- the slice holds the data; the logical times outlive an eviction -/
  present : Bool := true
  dirty : Bool := false
  tracked : Bool
  wts : Nat := 0
  rts : Nat := 0
  poison : Bool := false
  data : BitVec 1024 := 0
  /-- its check fails: the parity of a clean line, or a dirty line beyond SECDED (12 R271, R274) -/
  bad : Bool := false
  deriving DecidableEq, Repr

/-- A directory entry (12 R272). -/
structure DirEntry where
  dies : BitVec 4 := 0
  devs : BitVec 64 := 0
  /-- it has an error beyond its code (12 R272) -/
  bad : Bool := false
  deriving DecidableEq, Repr

/-- A weight latch bank of an array (08 R204): the format, and the scales and weights of each
column as its slot held them. -/
structure LatchBank where
  valid : Bool := false
  fmt : Nat := 0
  /-- bytes of the slot as latched, at column × 1,536 + offset -/
  slot : Table Byte := []
  /-- the parity of a column fails (12 R274) -/
  bad : Bool := false
  deriving DecidableEq, Repr

structure ArrayUnit where
  banks : Table LatchBank := []
  /-- accumulator element at row × 512 + column -/
  acc : Table Word := []
  /-- elements that have an error beyond their code (12 R274) -/
  accBad : List Nat := []
  deriving DecidableEq, Repr

/-- An item of a ladder queue (09 R215). -/
structure Item where
  id : Nat
  frame : Option Nat
  since : Nat
  deriving DecidableEq, Repr

/-- What a LADR has still to submit: single items, then a range (09 R214). `mark` is that of the waiting lanes. -/
structure Submission where
  mark : Nat
  block : Nat
  unit : Nat
  ids : List Nat
  first : Nat
  count : Nat
  /-- the ladder view that its LADR names -/
  view : Nat
  deriving DecidableEq, Repr

/-- A rung warp that the ladder unit has launched, and dispatch has not yet bound: its record's core and first slot. -/
structure Launched where
  rung : Nat
  core : Nat
  wslot0 : Nat
  items : List Item
  deriving DecidableEq, Repr

/-- A ladder as its unit holds it (09 R213 to R218). -/
structure Ladder where
  die : Nat
  cluster : Nat
  part : Nat
  /-- the descriptor's place: its key in memory, home die and mapping -/
  key : Nat
  hdie : Nat
  tracked : Bool
  desc : BitVec 1024
  /-- warp slots and tiles that Villek has granted for its rung warps: core, first tile, first slot (13 R314) -/
  reserve : List (Nat × Nat × Nat) := []
  /-- the unit holds the descriptor: the ladder has held items ever since it was read -/
  held : Bool := true
  arrivals : List Submission := []
  queues : List (List Item) := [[], [], [], []]
  launched : List Launched := []
  /-- rung warps in flight, launched ones included -/
  flight : List Nat := [0, 0, 0, 0]
  freeFrames : List Nat := []
  /-- ids retired ahead of RELTHRU -/
  retired : List Nat := []
  relThru : Nat := 0
  /-- RELTHRU as it was last written to the descriptor, and the writes that the next one releases: item and acknowledgement
  (09 R218; 11 R264) -/
  written : Nat := 0
  owed : List (Nat × Nat) := []
  lost : Nat := 0
  deriving DecidableEq, Repr

/-- A pending repair (12 R295). -/
structure Repair where
  word : BitVec 128
  /-- the entry has an error beyond its code (12 R274) -/
  bad : Bool := false
  deriving DecidableEq, Repr

structure Die where
  llc : Table LlcLine := []
  dir : Table DirEntry := []
  floor : Nat := 0
  maxWts : Nat := 0
  scTime : Nat := 0
  tlb : List Leaf := []
  troot : Table Nat := []
  hintTable : Table (Nat × Nat) := []
  invalQ : List (BitVec 128) := []
  resumeQ : List (BitVec 64) := []
  seq : Nat := 0
  colStore : Table Byte := []
  /-- 8-byte words of the column store that have an error beyond their code (12 R274) -/
  colBad : List Nat := []
  /-- those of them that a scrub has found and poisoned (12 R275) -/
  colPoison : List Nat := []
  /-- lines of the die's DRAM whose location has an error: one confined to a DQ pin, or one beyond the code (12 R274, R293) -/
  dram : Table (Option Nat) := []
  arrays : Table ArrayUnit := []
  /-- the rings of the slot table, oldest record first (13 R312), and records written back with ERR -/
  rings : Table (List (BitVec 128)) := []
  rejected : List (BitVec 128) := []
  /-- ready regions, in order of acceptance (13 R310) -/
  ready : List Nat := []
  /-- root-launch queue: partition of the writer, RCB address (13 R302) -/
  rootQ : List (Nat × Nat) := []
  /-- poisoned objects: partition, code base, bytes of native code (14 R347) -/
  poisonedObj : List (Nat × Nat × Nat) := []
  /-- pages whose hash check runs: region, page -/
  hashing : List (Nat × Nat) := []
  weights : List Nat := Config.energyWeights
  telemetry : BitVec 256 := 0
  fstep : Nat := 20
  /-- the part of a cycle, in twentieths, that the lowered clock is behind the full one; the cycles that it has lost; the die's 940-MHz
  clock does not tick in this cycle of the full one (15 R361) -/
  lag : Nat := 0
  lost : Nat := 0
  idle : Bool := false
  /-- limits in W and W/cm², 0 while none is set (15 R361) -/
  powerCap : Nat := 0
  boilFlux : Nat := 0
  boilPercent : Nat := 0
  calmSince : Option Nat := none
  /-- repair table rows steered to spares, and the pending-repair list (12 R294, R295) -/
  repairs : List Repair := []
  pendingRepairs : List Repair := []
  /-- corrected errors, each with its pass, line and DQ pin, and whether the patrol scrub corrected it (12 R293) -/
  corrections : List (Nat × Nat × Nat × Bool) := []
  spareRows : Table Nat := []
  spareLanes : Table Nat := []
  deriving DecidableEq, Repr

/-! ## Engines and tokens -/

/-- A scalar register that awaits a token: block, unit (0 to 15 leading warps, 16 front thread), register key. -/
structure TokenDest where
  block : Nat
  unit : Nat
  reg : Nat
  deriving DecidableEq, Repr

/-- The queue a command stands in (08 R187). -/
inductive Engine where
  | copy (die cluster : Nat)
  | array (die n : Nat)
  | reduce (die : Nat)
  deriving DecidableEq, Repr

inductive CmdState where
  | queued | running | waitPage (req : Nat) | ending
  deriving DecidableEq, Repr

/-- An engine command from capture to DONE (08 R187 to R195, 10 R236). -/
structure Cmd where
  /-- its number among the commands -/
  id : Nat
  op : CmdOp
  engine : Engine
  dest : TokenDest
  core : Nat
  regid : Nat
  poff : Nat
  params : BitVec 512
  /-- the shape records of its views, as captured: view number and record -/
  records : Table (BitVec 512) := []
  /-- a record's page has an outstanding request, which the capture of its views waits for (08 R188, R195) -/
  uncaptured : Option Nat := none
  resume : Nat
  prog : Nat
  total : Nat := 0
  state : CmdState := .queued
  clipped : Bool := false
  /-- STATUS 1 or 3 with DETAIL, OPND and SRCN, once known -/
  status : Nat := 0
  detail : Nat := 0
  opnd : Nat := 0
  srcn : Nat := 0
  aborted : Bool := false
  /-- largest wts written on each die (11 R264) -/
  wts : Table Nat := []
  /-- packets of each unit whose completions are awaited from a far home, by unit × 64 + device (21 R380) -/
  far : Table Nat := []
  /-- the state of a REDE flag: written -/
  flagged : Bool := false
  /-- lines of other devices that the unit under way has asked for (15 R366) -/
  fetched : List Nat := []
  deriving DecidableEq, Repr

/-- A page request of an engine awaiting its answer (08 R195). -/
structure PageReq where
  die : Nat
  part : Nat
  page : Nat
  seq : Nat
  deriving DecidableEq, Repr

/-! ## Regions (13 R303 to R325) -/

structure Region where
  part : Nat
  parent : Option Nat := none
  /-- RCB: virtual address (a root's: physical), and the die on which it was accepted -/
  rcb : Nat := 0
  rcbPhys : Bool := false
  die : Nat := 0
  cls : Nat := 3
  prot : Bool := false
  check : Bool := false
  setLim : Nat := 16
  ilock : Bool := false
  brecen : Bool := false
  amax : Nat := 16
  prio : Nat := 0
  eprio : Nat := 0
  fdom : Nat := 0
  param : Word := 0
  codeBase : Nat := 0
  wentry : Nat := 0
  fentry : Nat := 0xFFFFFFFF
  trapv : Nat := 0xFFFFFFFF
  viewTab : Nat := 0
  segBase : Nat := 0
  segCnt : Nat := 0
  nwarp : Nat := 1
  ntile : Nat := 0
  gx : Nat := 1
  gy : Nat := 1
  gz : Nat := 1
  /-- package time at which TLIMIT elapses, its own or inherited -/
  deadline : Option Nat := none
  elimit : Nat := 0
  ownLimits : Bool := false
  maxBlk : Nat := 0
  dieMask : BitVec 4 := 0xF
  arrMask : BitVec 4 := 0
  agrant : List Nat := [0, 0, 0, 0]
  lrec : Nat := 0
  crec : Nat := 0
  state : Nat := 1
  nextBlock : Nat := 0
  /-- blocks that wait to be bound again (12 R282, R286) -/
  relaunch : List Nat := []
  ndone : Nat := 0
  nrelaunch : Nat := 0
  nlost : Nat := 0
  nkilled : Nat := 0
  maxStat : Nat := 0
  energy : BitVec 64 := 0
  /-- energy charged by itself and its descendants, in 0.25 pJ, against ELIMIT -/
  charged : Nat := 0
  tAccept : Nat := 0
  tLastBind : Nat := 0
  tEnd : Nat := 0
  /-- cycles that EXEC and FAULT were the part to charge, and ns added to the launch record so far (15 R365) -/
  execCycles : Nat := 0
  faultCycles : Nat := 0
  execNs : Nat := 0
  faultNs : Nat := 0
  token : Option TokenDest := none
  detach : Bool := false
  /-- an abort has begun (13 R309) -/
  aborting : Bool := false
  deriving DecidableEq, Repr

/-! ## The package and what surrounds it -/

structure Partition where
  carveOuts : Table (Nat × Nat) := []
  counters : Bool := true
  snapArea : Nat := 0
  spillArea : Nat := 0
  /-- the links that carry its virtual channel; none: every link does (R343; 15 R350) -/
  channels : Option (List Nat) := none
  deriving DecidableEq, Repr

/-- A forwarded fault that awaits its answer (14 R338). `unit` as in TokenDest; an engine's has no block. -/
structure Waiting where
  die : Nat
  seq : Nat
  block : Nat
  unit : Nat
  lanes : Word
  double : Bool
  request : Option Nat := none
  since : Nat
  /-- answered for a context that stood in an image: resume at its restore (14 R342) -/
  answered : Bool := false
  deriving DecidableEq, Repr

/-- A write that has been performed and not yet acknowledged (11 R255, R260). -/
structure Ack where
  core : Nat
  block : Nat
  die : Nat
  line : Nat
  wts : Nat
  /-- sharers whose acknowledgement is awaited -/
  dies : BitVec 4 := 0
  devs : BitVec 64 := 0
  /-- the home has acknowledged it to its core -/
  acked : Bool := false
  /-- bytes written -/
  mask : BitVec 128 := 0
  /-- cores, and 512 + a die for its LLC copy, that have received the bytes -/
  places : List Nat := []
  /-- blocks and commands that have read them: the write is in their set C (10 R245) -/
  readers : List Nat := []
  /-- cores to whose threads a release at CORE or CLUS scope has passed it on (10 R245) -/
  shared : List Nat := []
  deriving DecidableEq, Repr

/-- A sink group below level 0 (07 R179 to R182): its log entry's block, unit and lane, its line and level. -/
structure Sunk where
  block : Nat
  unit : Nat
  entry : Nat
  lane : Nat
  line : Nat
  core : Nat
  level : Nat
  /-- results to write, once executed: destination register and value -/
  result : Option (List (Nat × Word)) := none
  /-- a demoted store: offsets in the line and bytes; a demoted RED: offset, operation, operand (07 R183) -/
  parts : List (Nat × List Byte) := []
  red : Option (Nat × AtomOp × Word) := none
  /-- its unit has accepted it (12 R270) -/
  accepted : Bool := true
  /-- registers whose results are tainted, and flags raised -/
  taints : List Nat := []
  flags : BitVec 5 := 0
  wts : Nat := 0
  deriving DecidableEq, Repr

/-- A port's status record (15 R354). -/
structure Port where
  link : Nat := 0x7F
  memb : Nat := 0
  up : Bool := false
  fail : Bool := false
  warn : BitVec 3 := 0
  eyeH : Nat := 0
  eyeW : Nat := 0
  berX : Nat := 0
  temp : Nat := 0
  eyeHMin : Nat := 24
  berXMin : Nat := 40
  tempMax : Nat := 85
  mval : Bool := false
  /-- when its CRC failures of the last millisecond came (15 R353) -/
  crc : List Nat := []
  deriving DecidableEq, Repr

/-- A link (15 R350 to R353). -/
structure Link where
  formed : List Nat
  members : List Nat
  peer : Nat
  down : Bool := false
  retraining : Bool := false
  nextSend : Nat := 0
  nextRecv : Nat := 0
  /-- sequence numbers sent and not acknowledged, with the flits of each -/
  replay : List (Nat × Nat) := []
  /-- answers to accesses of the peer: flits, and the writes that each awaits (11 R260) -/
  owed : List (Nat × List Nat) := []
  /-- the partition on whose virtual channel a packet that is not yet acknowledged has gone, by sequence number (15 R350) -/
  chan : Table Nat := []
  /-- flits sent and received since the dealing to members began afresh (15 R351, R353) -/
  dealt : Nat := 0
  heard : Nat := 0
  /-- the cumulative acknowledgement that it has returned last (15 R351) -/
  ackSent : Option Nat := none
  deriving DecidableEq, Repr

/-- A queue pair (15 R355, R356). -/
structure QueuePair where
  part : Nat
  /-- remote keys: the range of the partition's virtual space that each names -/
  keys : Table (Nat × Nat) := []
  rate : Nat := 800
  received : List (List Byte × Option Word) := []
  reply : List Byte := []
  /-- completions of RDMA WRITE messages delivered -/
  completed : Nat := 0
  error : Bool := false
  deriving DecidableEq, Repr

structure Boot where
  stage : Nat := 0
  err : Nat := 0
  fused : Nat := 0
  pend : Nat := 0
  version : Nat := 0
  /-- the fused anti-rollback counter (15 R357) -/
  minVersion : Nat := 0
  /-- enabled clusters, 12 bits for each die, arrays, 4 for each, DRAM layers, 8 for each, and fabric ports (00 R4; 15 R358) -/
  clus : BitVec 48 := BitVec.allOnes 48
  arr : BitVec 16 := BitVec.allOnes 16
  dlay : BitVec 32 := BitVec.allOnes 32
  fport : BitVec 72 := BitVec.allOnes 72
  deriving DecidableEq, Repr

/-- A peer that a die of the package has fenced (12 R297 to R300): dies are peers 0 to 3, devices 4 + their number; `reset`: a
die of the package has been reset since. -/
structure Fenced where
  die : Nat
  peer : Nat
  reset : Bool := false
  deriving DecidableEq, Repr

/-- A stop request (15 R364); `reported`: its report has been made. -/
structure Stop where
  pat : StopPattern
  reported : Bool := false
  deriving DecidableEq, Repr

structure Cal where
  live : List (BitVec 16) := []
  staged : Option (List (BitVec 16)) := none
  deriving DecidableEq, Repr

/-- Which unit of a block acts, and with which lanes of its path. -/
inductive UnitRef where
  | warp (n : Nat)
  | trail (n : Nat)
  | front
  deriving DecidableEq, Repr

structure Agent where
  block : Nat
  unit : UnitRef
  lanes : Word
  deriving DecidableEq, Repr

structure State where
  /-- bytes of every device of the domain, at device × 2^52 + physical address -/
  mem : Table Byte := []
  poison : List Nat := []
  /-- wts and rts of lines homed on other devices, as their home slices hold them (11 R254, R255) -/
  far : Table (Nat × Nat) := []
  blocks : Table Block := []
  cores : Table Core := []
  dies : Table Die := []
  regions : Table Region := []
  parts : Table Partition := []
  cmds : Table Cmd := []
  pageReqs : Table PageReq := []
  ladders : Table Ladder := []
  snaps : Table (List SnapHalf) := []
  acks : Table Ack := []
  sunk : Table Sunk := []
  waiting : Table Waiting := []
  faultQ : Table (List (BitVec 256)) := []
  eventQ : List (BitVec 128) := []
  ports : Table Port := []
  links : Table Link := []
  route : Table Nat := []
  /-- heartbeats that a die has missed in a row, by (die × 68 + peer) × 2 + path, and the peers that dies have fenced -/
  missed : Table Nat := []
  fenced : List Fenced := []
  qps : Table QueuePair := []
  /-- how many ports of 800, 400 or 200 Gb/s an Ethernet port runs as: 1, 2 or 4 (15 R355) -/
  eth : Table Nat := []
  boot : Boot := {}
  meas : Table (BitVec 384) := []
  /-- the last quote: nonce, the eight measurement registers, signature (15 R359) -/
  quote : Option (BitVec 256 × List (BitVec 384) × BitVec 768) := none
  devNum : Nat := 0
  /-- reservations of the system cores (11 R253) -/
  sysResv : Table Nat := []
  sysRead : Table (List Byte) := []
  /-- what a system core has still to do after one that waits, that one first (11 R253) -/
  sysQueue : Table (List CoreOp) := []
  pcieRead : List Byte := []
  interrupts : List Nat := []
  cals : List (CalUnit × Cal) := []
  /-- the partition that each issue quadrant served last in a slot that no partition's calendar entry took (13 R317) -/
  served : Table Nat := []
  stops : List Stop := []
  /-- the joined entities of what stops have named, in order (15 R362, R364) -/
  reports : List (BitVec 192) := []
  /-- answers to restore requests: block, and 0 or the cause RESTORE_CAPACITY (14 R341) -/
  restores : List (Nat × Nat) := []
  powered : Bool := false
  /-- The model's own fields: the issuing agent of `exec`; pending steps; what comes due at a time; step and
  numbering counters. -/
  cur : Option Agent := none
  /-- the word that has just been tried was held: its path is not ready (05 R105) -/
  stalled : Bool := false
  agenda : List Instr := []
  timers : List (Nat × Instr) := []
  now : Nat := 0
  next : Nat := 1
  drawn : Nat := 0
  deriving DecidableEq, Repr

/-- Right after reset (02 R59): no block is bound, caches are empty, times stand at 0; what the spec gives no reset
value holds what notes/assumptions/6 names. -/
def State.reset : State := {}

/-! ## Stops -/

/-- Why the machine stops. -/
inductive Fault where
  /-- raised by an outside access (SYSTEM_CORE_MEMORY_ACCESS, PCIE_DMA_ACCESS, FABRIC_PACKET_RECEIVE) to a physical
  address at or above 2^52, which no device has (14 R326). Safe: the machine stops. -/
  | noSuchAddress (pa : Nat)
  deriving DecidableEq, Repr

/-- Why a step has no meaning. -/
inductive Refusal where
  /-- raised by exec for an instruction that has no meaning yet. Safe: the machine stops. -/
  | notModelled (mnemonic : String)
  /-- raised by exec for an encoded instruction when no thread issues it (no agent, or one of no bound block):
  instructions act for a thread (02 R29). Safe: the machine stops. -/
  | noIssuer
  deriving DecidableEq, Repr

end Sys2Proof.Machine
end

