-- ==== Sys2Proof/Machine/Ops.lean ====
section
/-! DEFINITION. The named operations over the state: where each piece of state is read and written, memory, time,
energy, taking a fault (parking, forwarding, handler entry) and the return from it. -/

namespace Sys2Proof.Machine

/-! ## Words and masks -/

/-- Whether lane `l` is in a mask. -/
def inMask (m : Word) (l : Nat) : Bool := natBit m.toNat l

/-- The mask of one lane. -/
def laneBit (l : Nat) : Word := BitVec.ofNat 32 (2 ^ l)

/-- The lanes of a mask, ascending. -/
def lanesOf (m : Word) : List Nat := (List.range 32).filter (inMask m)

/-- The mask of a list of lanes. -/
def maskOf (l : List Nat) : Word := l.foldl (fun m i => m ||| laneBit i) 0

/-- The lowest lane of a mask (0 where it is empty). -/
def lowest (m : Word) : Nat := ((lanesOf m).head?).getD 0

/-- Little-endian value of bytes (00 R5). -/
def leNat : List Byte → Nat
  | [] => 0
  | b :: l => b.toNat + 256 * leNat l

/-- `n` little-endian bytes of a value. -/
def leBytes : Nat → Nat → List Byte
  | 0, _ => []
  | n + 1, x => BitVec.ofNat 8 x :: leBytes n (x / 256)

/-- Field `lo`, `n` bits wide, of a record. -/
def field {w : Nat} (r : BitVec w) (lo n : Nat) : Nat := (r.toNat / 2 ^ lo) % 2 ^ n

/-- A signed field. -/
def fieldS {w : Nat} (r : BitVec w) (lo n : Nat) : Int := sextNat (field r lo n) n

/-- A record with the field at `lo`, `n` bits wide, replaced. -/
def setField {w : Nat} (r : BitVec w) (lo n x : Nat) : BitVec w :=
  BitVec.ofNat w (r.toNat - field r lo n * 2 ^ lo + (x % 2 ^ n) * 2 ^ lo)

/-! ## Access to the tables of the state -/

def State.core (s : State) (c : Nat) : Core := s.cores.getD {} c
def State.setCore (s : State) (c : Nat) (x : Core) : State := { s with cores := s.cores.putD {} c x }
def State.modCore (s : State) (c : Nat) (f : Core → Core) : State := s.setCore c (f (s.core c))

def State.die (s : State) (d : Nat) : Die := s.dies.getD {} d
def State.setDie (s : State) (d : Nat) (x : Die) : State := { s with dies := s.dies.putD {} d x }
def State.modDie (s : State) (d : Nat) (f : Die → Die) : State := s.setDie d (f (s.die d))

def State.block? (s : State) (b : Nat) : Option Block := s.blocks.get? b
def State.setBlock (s : State) (b : Nat) (x : Block) : State := { s with blocks := s.blocks.put b x }
def State.modBlock (s : State) (b : Nat) (f : Block → Block) : State := { s with blocks := s.blocks.modify b f }

def State.region? (s : State) (r : Nat) : Option Region := s.regions.get? r
def State.modRegion (s : State) (r : Nat) (f : Region → Region) : State :=
  { s with regions := s.regions.modify r f }

def State.part (s : State) (p : Nat) : Partition := s.parts.getD {} p
def State.modCmd (s : State) (c : Nat) (f : Cmd → Cmd) : State := { s with cmds := s.cmds.modify c f }
def State.modLadder (s : State) (l : Nat) (f : Ladder → Ladder) : State :=
  { s with ladders := s.ladders.modify l f }

/-- A number not used before, and the state that has used it. -/
def State.fresh (s : State) : Nat × State := (s.next, { s with next := s.next + 1 })

/-- Draw the next replacement choice. -/
def State.draw (s : State) : Nat × State := (Config.victim s.drawn, { s with drawn := s.drawn + 1 })

/-- Put a pending step in the agenda. -/
def State.push (s : State) (i : Instr) : State := { s with agenda := s.agenda ++ [i] }

/-- Put a step on the agenda, unless it is there. -/
def State.pushOnce (s : State) (i : Instr) : State := if s.agenda.contains i then s else s.push i

/-- Put a step that comes due at a time. -/
def State.at (s : State) (t : Nat) (i : Instr) : State := { s with timers := s.timers ++ [(t, i)] }

/-- Take one occurrence of a pending step out of the agenda. -/
def State.drop (s : State) (i : Instr) : State := { s with agenda := s.agenda.erase i }

/-- The die and the partition of a core. -/
def dieOf (core : Nat) : Nat := core / Config.coresPerDie
def clusterOf (core : Nat) : Nat := core / Config.coresPerCluster

/-! ## Units of a block -/

/-- The unit's number in a token, a wait or a record: warps 0 to 15, the front thread 16. -/
def UnitRef.num : UnitRef → Nat
  | .warp n => n
  | .trail n => n
  | .front => 16

def UnitRef.isTrail : UnitRef → Bool
  | .trail _ => true
  | _ => false

def UnitRef.ofNum (n : Nat) : UnitRef := if n = 16 then .front else .warp n

def Block.unit? (b : Block) : UnitRef → Option Warp
  | .warp n => b.ctx.warps[n]?
  | .trail n => b.ctx.trailing[n]?
  | .front => some b.ctx.front

def listMod {α : Type} (l : List α) (n : Nat) (f : α → α) : List α :=
  mapFrom 0 (fun i a => if i = n then f a else a) l

def Ctx.modUnit (c : Ctx) (u : UnitRef) (f : Warp → Warp) : Ctx :=
  match u with
  | .warp n => { c with warps := listMod c.warps n f }
  | .trail n => { c with trailing := listMod c.trailing n f }
  | .front => { c with front := f c.front }

def State.unit? (s : State) (b : Nat) (u : UnitRef) : Option Warp :=
  match s.block? b with
  | some x => x.unit? u
  | none => none

def State.modUnit (s : State) (b : Nat) (u : UnitRef) (f : Warp → Warp) : State :=
  s.modBlock b (fun x => { x with ctx := x.ctx.modUnit u f })

def Warp.lane (w : Warp) (l : Nat) : Lane := (w.lanes[l]?).getD { status := .exited }
def Warp.modLane (w : Warp) (l : Nat) (f : Lane → Lane) : Warp := { w with lanes := listMod w.lanes l f }
def Warp.modLanes (w : Warp) (m : Word) (f : Nat → Lane → Lane) : Warp :=
  { w with lanes := mapFrom 0 (fun i a => if inMask m i then f i a else a) w.lanes }

/-- The lanes of a warp that satisfy a test. -/
def Warp.lanesWhere (w : Warp) (p : Lane → Bool) : Word :=
  maskOf ((List.range w.lanes.length).filter (fun i => p (w.lane i)))

def Warp.exited (w : Warp) : Word := w.lanesWhere (fun l => l.status == .exited)
def Warp.parked (w : Warp) : Word := w.lanesWhere (fun l => l.status == .parked)

/-- Eligible lanes (05 R105). -/
def Lane.eligible (l : Lane) : Bool := l.status == .running && l.wait == .none
def Warp.eligible (w : Warp) : Word := w.lanesWhere Lane.eligible

/-- Lanes of the path at a PC. -/
def Warp.pathAt (w : Warp) (pc : Nat) : Word := w.lanesWhere (fun l => l.eligible && l.pc == pc)

/-! ## Registers -/

/-- A vector register of a lane. -/
def Lane.reg (l : Lane) (n : Nat) : Word := l.v.getD 0 n

/-- Write a vector register of a lane; the taint bit takes the value given (02 R32). -/
def Lane.setReg (l : Lane) (n : Nat) (x : Word) (taint : Bool := false) : Lane :=
  { l with
    v := l.v.putD 0 n x
    bad := l.bad &&& ~~~(BitVec.ofNat 56 (2 ^ n))
    taint := if taint then l.taint ||| BitVec.ofNat 56 (2 ^ n) else l.taint &&& ~~~(BitVec.ofNat 56 (2 ^ n)) }

def Lane.tainted (l : Lane) (n : Nat) : Bool := natBit l.taint.toNat n

/-- Where scalar register `n` of a unit stands for lanes `m`: the handler bank replaces s24 to s31 for the handler
lane (14 R337). -/
def Warp.sKey (w : Warp) (m : Word) (n : Nat) : Nat :=
  match w.handler with
  | some h => if 24 ≤ n ∧ inMask m h then 32 + n else n
  | none => n

/-- The scalar register that stands at a key. -/
def Warp.sAt (w : Warp) (k : Nat) : Word := if 32 ≤ k then w.bank.getD 0 k else w.s.getD 0 k

def Warp.sRead (w : Warp) (m : Word) (n : Nat) : Word := w.sAt (w.sKey m n)

/-- Write the scalar register that stands at a key. -/
def Warp.sPut (w : Warp) (k : Nat) (x : Word) : Warp :=
  let w := { w with sBad := w.sBad.filter (· != k) }
  if 32 ≤ k then { w with bank := w.bank.putD 0 k x } else { w with s := w.s.putD 0 k x }

def Warp.sWrite (w : Warp) (m : Word) (n : Nat) (x : Word) : Warp := w.sPut (w.sKey m n) x

/-- A predicate over the lanes: p7 is constant 1 (02 R34). -/
def Warp.pred (w : Warp) (k : Nat) : Word := if k = 7 then 0xFFFFFFFF else w.preds.getD 0 k

def Warp.setPred (w : Warp) (k l : Nat) (c : Bool) : Warp :=
  let old := w.pred k
  { w with preds := w.preds.putD 0 k (if c then old ||| laneBit l else old &&& ~~~(laneBit l)) }

/-- Sets of a warp (02 R36). -/
def Warp.mOf (w : Warp) (n : Nat) : Word := w.setM.getD 0 n
def Warp.aOf (w : Warp) (n : Nat) : Word := w.setA.getD 0 n
def Warp.putSet (w : Warp) (n : Nat) (m a : Word) : Warp :=
  { w with setM := w.setM.putD 0 n m, setA := w.setA.putD 0 n a }

/-! ## Memory: bytes of every device of the domain -/

/-- What a byte that nothing has written reads as (notes/assumptions/2). -/
def unlisted : Byte := 0

/-- The canonical form of memory: addresses strictly rising, and no entry equal to what an unlisted address reads
as. -/
def Memory.wf (m : Table Byte) : Bool := m.sorted && m.all (fun e => e.2 != unlisted)

/-- Key of a physical address of a device (notes/assumptions/8). -/
def memKey (dev pa : Nat) : Nat := dev * Config.addrSpace + pa

def Memory.get (m : Table Byte) (k : Nat) : Byte := m.getD unlisted k
def Memory.put (m : Table Byte) (k : Nat) (b : Byte) : Table Byte := m.putD unlisted k b

def Memory.read (m : Table Byte) (k : Nat) : Nat → List Byte
  | 0 => []
  | n + 1 => Memory.get m k :: Memory.read m (k + 1) n

def Memory.write (m : Table Byte) (k : Nat) : List Byte → Table Byte
  | [] => m
  | b :: l => Memory.write (Memory.put m k b) (k + 1) l

def State.rdBytes (s : State) (k n : Nat) : List Byte := Memory.read s.mem k n
def State.rdNat (s : State) (k n : Nat) : Nat := leNat (s.rdBytes k n)
def State.wrBytes (s : State) (k : Nat) (l : List Byte) : State := { s with mem := Memory.write s.mem k l }
def State.wrNat (s : State) (k n x : Nat) : State := s.wrBytes k (leBytes n x)

/-- The line of a key: 128 bytes. -/
def lineOf (k : Nat) : Nat := k / Config.lineBytes

/-- Data of a home line. -/
def State.lineData (s : State) (line : Nat) : BitVec 1024 :=
  BitVec.ofNat 1024 (s.rdNat (line * Config.lineBytes) Config.lineBytes)

/-- Bytes `o` to `o + n` of a line held as one value. -/
def bytesOfLine (d : BitVec 1024) (o n : Nat) : List Byte := leBytes n (d.toNat / 2 ^ (8 * o))

/-- A line with bytes replaced where the mask, from byte `o`, has a bit. -/
def lineWith (d : BitVec 1024) (o : Nat) : List Byte → BitVec 1024
  | [] => d
  | b :: l => lineWith (setField d (8 * o) 8 b.toNat) (o + 1) l

/-! ## Scratchpad (02 R54) -/

def Core.spRead (c : Core) (a n : Nat) : List Byte := Memory.read c.sp a n
def Core.spWrite (c : Core) (a : Nat) (l : List Byte) : Core :=
  { c with
    sp := Memory.write c.sp a l
    spBad := c.spBad.filter (fun w => !(decide (a ≤ 4 * w) && decide (4 * w + 4 ≤ a + l.length))) }

/-- A word among those of a range has an error beyond its code (12 R274). -/
def Core.spFlawed (c : Core) (a n : Nat) : Bool := c.spBad.any (fun w => decide (a < 4 * w + 4) && decide (4 * w < a + n))

/-- Whether a tile of the core is owned by engines. -/
def Core.engTile (c : Core) (t : Nat) : Bool := natBit c.engTiles.toNat t
def Core.setTile (c : Core) (t : Nat) (eng : Bool) : Core :=
  { c with engTiles :=
      if eng then c.engTiles ||| BitVec.ofNat 128 (2 ^ t) else c.engTiles &&& ~~~(BitVec.ofNat 128 (2 ^ t)) }

/-! ## Time (02 R50; 11 R254; notes/assumptions/3) -/

/-- Cycles of a die's clock, at the clock in force (15 R361). -/
def State.dieCycles (s : State) (die : Nat) : Nat := s.now - (s.die die).lost

/-- Core cycles since the core's reset. -/
def State.cycles (s : State) (c : Nat) : Nat := (s.dieCycles (dieOf c) - (s.core c).cycle0) % 2 ^ 64

/-- Package time in ns: core cycles at 940 MHz. -/
def State.ns (s : State) : Nat := s.now * 50 / 47

/-- Cycles of a time in ns. -/
def cyclesOfNs (t : Nat) : Nat := (t * 47 + 49) / 50

/-- Logical times have 48 bits (11 R254; 12 R271, R273). -/
def time48 (t : Nat) : Nat := t % 2 ^ 48

/-- Raise a core's logical time (11 R255). -/
def State.raiseLtime (s : State) (c t : Nat) : State :=
  s.modCore c (fun x => { x with ltime := max x.ltime (time48 t) })

/-! ## Energy and the launch's charges (15 R366) -/

/-- Charge energy to every ancestor's limit (13 R304); `fuel` bounds the depth. -/
def State.chargeUp (s : State) (n : Nat) : Nat → Option Nat → State
  | 0, _ => s
  | _, none => s
  | fuel + 1, some r =>
    match s.region? r with
    | some x => (s.modRegion r (fun y => { y with charged := y.charged + n })).chargeUp n fuel x.parent
    | none => s

def State.addEnergy (s : State) (b cls times : Nat) : State :=
  match s.block? b with
  | none => s
  | some x =>
    let w := (((s.die (dieOf x.core)).weights[cls]?).getD 0) * times
    let s := s.modBlock b (fun y => { y with energy := y.energy + BitVec.ofNat 64 w })
    let s := s.modRegion x.regid (fun r => { r with energy := r.energy + BitVec.ofNat 64 w })
    s.chargeUp w (s.regions.length + 1) (some x.regid)

/-! ## Performance counters (09 R229 to R232) -/

def Counter.counts (c : Counter) (ev : Nat) : Bool := field c.config 0 8 == ev && natBit c.config.toNat 10

/-- A counter of a holder counts what a block does, by its filter. -/
def State.countsFor (s : State) (holder blk filter : Nat) : Bool :=
  let part := fun (b : Block) => (s.region? b.regid).map Region.part
  match s.block? holder, s.block? blk with
  | some h, some b => match filter with
    | 0 => holder == blk
    | 1 => h.regid == b.regid
    | 2 => part h == part b
    | _ => false
  | _, _ => false

/-- Count an event that a block causes on a core; a stolen bank counts nothing. -/
def State.count (s : State) (core blk ev n : Nat) : State :=
  if (s.core core).banks.isEmpty then s
  else
    let one := fun (h : Nat) (c : Counter) =>
      if c.counts ev && s.countsFor h blk (field c.config 8 2) then { c with count := c.count + BitVec.ofNat 48 n } else c
    s.modCore core (fun k => { k with banks := k.banks.mapVals (fun b => match b.holder with
      | some h => if b.stolen then b else { b with ctrs := b.ctrs.mapVals (one h) }
      | none => b) })

/-! ## Events for the hypervisor (12 R278) -/

/-- A die of the package has fenced a peer (12 R298). -/
def State.fencedBy (s : State) (die peer : Nat) : Bool := s.fenced.any (fun f => f.die == die && f.peer == peer)

def eventWord (kind unit die dev regid loc : Nat) : BitVec 128 :=
  BitVec.ofNat 128 (kind + unit * 2 ^ 8 + die * 2 ^ 16 + dev * 2 ^ 18 + regid * 2 ^ 32 + loc * 2 ^ 64)

def State.post (s : State) (kind unit die regid loc : Nat) : State :=
  { s with eventQ := s.eventQ ++ [eventWord kind unit die s.devNum regid loc] }

/-- The PC of the word after one: a PC is a 32-bit offset (02 R31). -/
def nextPc (pc : Nat) : Nat := (pc + 4) % 2 ^ 32

/-- The PC of the word before one. -/
def prevPc (pc : Nat) : Nat := (pc + 2 ^ 32 - 4) % 2 ^ 32

/-! ## Faults (14 R333 to R338) -/

namespace Cause
def ILLEGAL : Nat := 0x01
def GROUP_FORM : Nat := 0x02
def NOT_MEMBER : Nat := 0x03
def ORPHAN_SET : Nat := 0x04
def LOOP_FORM : Nat := 0x05
def VIEW_BOUNDS : Nat := 0x06
def VIEW_BAD : Nat := 0x07
def PAGE : Nat := 0x08
def PROT : Nat := 0x09
def ALIGN : Nat := 0x0A
def OWNER_TIMEOUT : Nat := 0x0B
def LATCH_FORM : Nat := 0x0C
def LADDER_TOP : Nat := 0x0D
def LADDER_FRAME : Nat := 0x0E
def RESTORE_CAPACITY : Nat := 0x0F
def CODE_INTEGRITY : Nat := 0x10
def TRANSLATE_PENDING : Nat := 0x11
def UNCORRECTABLE : Nat := 0x12
def CHECK_MISMATCH : Nat := 0x13
def TRAP : Nat := 0x14
def BRK : Nat := 0x15
def WATCH : Nat := 0x16
def COUNTER_BUSY : Nat := 0x17
end Cause

/-- Causes that are always forwarded (R335). -/
def forwardOnly (cause : Nat) : Bool :=
  cause == Cause.PAGE || cause == Cause.TRANSLATE_PENDING || cause == Cause.CODE_INTEGRITY

/-- Index of the range hint record that covers an address, 0xFF where none does (R332). -/
def hintIndex (s : State) (pa va : Nat) : Nat → Nat → Nat
  | 0, _ => 0xFF
  | n + 1, i =>
    let r := s.rdNat (memKey s.devNum (pa + 32 * i)) 32
    let base := r % 2 ^ 52
    let len := r / 2 ^ 64 % 2 ^ 64
    if base ≤ va ∧ va < base + len then i else hintIndex s pa va n (i + 1)

def State.hintOf (s : State) (die part va : Nat) : Nat :=
  match (s.die die).hintTable.get? part with
  | some (pa, n) => hintIndex s pa va (min n 256) 0
  | none => 0xFF

/-- The fault record of R338. -/
def faultRecord (cause : Nat) (double eng : Bool) (acc part hint regid va : Nat) (lanes : Word)
    (pc core warp seq : Nat) : BitVec 256 :=
  BitVec.ofNat 256 (cause + double.toNat * 2 ^ 6 + eng.toNat * 2 ^ 7 + acc * 2 ^ 8 + part * 2 ^ 11 + hint * 2 ^ 16
    + regid * 2 ^ 32 + va % 2 ^ 52 * 2 ^ 64 + lanes.toNat * 2 ^ 128 + pc * 2 ^ 160 + core * 2 ^ 192
    + warp * 2 ^ 201 + seq * 2 ^ 224)

/-- Post a record in a partition's fault queue, and remember what waits for the answer. -/
def State.postFault (s : State) (die part : Nat) (rec : Nat → BitVec 256) (wait : Nat → Waiting) : State :=
  let seq := (s.die die).seq
  let s := s.modDie die (fun d => { d with seq := (seq + 1) % 2 ^ 32 })
  let (id, s) := s.fresh
  { s with
    faultQ := s.faultQ.put part (s.faultQ.getD [] part ++ [rec seq])
    waiting := s.waiting.put id (wait seq) }

/-- Forward the trap of parked lanes to the system cores (R335, R338). The front thread has no lanes: LANES of its record, to which
R338 gives no value, is 0 (DESIGN CHOICE, notes/assumptions/86). -/
def State.forward (s : State) (b : Nat) (u : UnitRef) (lanes : Word) (p : Park) (double : Bool) : State :=
  match s.block? b with
  | none => s
  | some x =>
    let part := ((s.region? x.regid).map Region.part).getD 0
    let die := dieOf x.core
    let hint := if p.cause = Cause.PAGE then s.hintOf die part p.va else 0xFF
    let front := u == .front
    let s := s.modUnit b u (fun w => w.modLanes lanes (fun _ l =>
      { l with park := l.park.map (fun q => { q with delivered := true }) }))
    s.postFault die part
      (fun seq => faultRecord p.cause double false p.acc part hint x.regid p.va (if front then 0 else lanes) p.pc
        x.core u.num seq)
      (fun seq => { die := die, seq := seq, block := b, unit := u.num, lanes := lanes, double := double,
                    since := s.now })

/-- The trap registers of a unit (02 R47); the front thread's mask reads 0 (02 R45). -/
def Warp.setTrap (w : Warp) (front : Bool) (p : Park) (mask : Word) : Warp :=
  { w with
    trapCause := BitVec.ofNat 6 p.cause
    trapPc := BitVec.ofNat 32 p.pc
    trapMask := if front then 0 else mask
    trapView := p.view
    trapCoord := p.coord }

/-- A half-issued unit of hint words is given up: its lanes stand at its first word again (04 R96). -/
def Warp.standBack (w : Warp) : Warp :=
  if w.hints.isEmpty then w
  else { (w.modLanes w.unitLanes (fun _ l => if l.status == .running then { l with pc := w.hintPc } else l)) with
         hints := [], hintPc := 0, unitLanes := 0 }

/-- The path that stands in the middle of a chain or of an issue unit, and where its lanes go back to when one of them
parks (02 R38; 04 R95, R96): the chain's head, or the unit's first hint word. -/
def Warp.backTo (w : Warp) (mask : Word) : Option (Word × Nat) :=
  match w.chain with
  | some c => if c.lanes &&& mask = 0 then none else some (c.lanes, c.head)
  | none => if w.hints.isEmpty || w.unitLanes &&& mask == 0 then none else some (w.unitLanes, w.hintPc)

/-- The word being issued is the last member of the open chain: the lanes that complete it go on (04 R95). -/
def Warp.atLast (w : Warp) : Bool := w.chain.any Chain.last

/-- Park lanes for a fault (R333): each leaves the arrivals of its sets (05 R121), loses its reservation (07 R174)
and its latches (04 R95). In the middle of a chain or an issue unit every lane of the path goes back to its start, and it
ends; a lane whose fault is that of an earlier chain's access goes back to that chain's head (14 R333). A path that is left without a lane gives up its ageing counter (02 R35). -/
def Warp.park (w : Warp) (mask : Word) (p : Nat → Park) : Warp :=
  let back := w.backTo mask
  let others : Word := match back with
    | some (m, _) => if w.atLast then 0 else m &&& ~~~mask
    | none => 0
  let start := (back.map Prod.snd).getD 0
  let v := w.modLanes mask (fun i l =>
    { l with status := .parked, wait := .none, resv := none, latches := [],
             held := if l.status == .running && l.park.isSome then l.park else l.held,
             park := some { p i with
               past := (p i).past || (match l.wait with
                 | .loopEnd _ => true
                 | _ => false)
               resume := match back with
                 | some (m, pc) => if inMask m i && !((p i).issue.isSome && (p i).entry.isNone) then pc else (p i).resume
                 | none => (p i).resume } })
  let v := v.modLanes others (fun _ l => if l.status == .running then { l with pc := start, latches := [] } else l)
  let v := { v with
    setA := v.setA.mapVals (fun a => a &&& ~~~mask)
    chain := if back.isSome then none else v.chain
    hints := if v.unitLanes &&& mask = 0 then v.hints else []
    committing := false, rel := none }
  { v with age := v.age.filter (fun e => v.pathAt e.1 != 0) }

/-- A CONSUMED ERROR: the block stops issuing at once, and is handled by its mode (12 R277); a mismatch of the trailing check
likewise (R291). `unit` is where the error stood, as UNIT of R278 names it: a line of memory, where nothing else is said. -/
def State.consume (s : State) (blk cause : Nat) (unit : Nat := 6) : State :=
  s.modBlock blk (fun b =>
    { b with consumed := some (b.consumed.getD cause), errUnit := if b.consumed.isSome then b.errUnit else unit })

/-- A fault of watch units: the lowest is the one that %trapcoord names (15 R363). -/
def Park.watching (p : Park) (units : List Nat) : Park :=
  { p with cause := Cause.WATCH, coord := BitVec.ofNat 32 (units.headD 0), watch := units }

/-- Watch units that match set off the stops that name one as their trigger (15 R364). -/
def State.fireStops (s : State) (core : Nat) (units : List Nat) : State :=
  { s with stops := s.stops.map (fun p =>
      if p.pat.trigger.any (fun x => x.1 == core && units.contains x.2) then { p with pat := { p.pat with trigger := none } } else p) }

def State.modPair (s : State) (blk n : Nat) (f : Pair → Pair) : State :=
  s.modBlock blk (fun b => { b with ctx := { b.ctx with pairs := listMod b.ctx.pairs n f } })

/-- What a leading warp of a checked block leaves for its trailing warp (12 R288). -/
def State.leave (s : State) (blk : Nat) (u : UnitRef) (x : Issued) : State :=
  match u with
  | .warp n => s.modPair blk n (fun p => { p with stream := p.stream ++ [x] })
  | _ => s

/-- Lanes of a leading warp stand at a PC by an event, and no word: their trailing lanes follow. -/
def State.leaveMove (s : State) (blk : Nat) (u : UnitRef) (m : Word) (pc : Nat) : State :=
  if m = 0 then s else s.leave blk u (.move m pc)

/-- Lanes of a leading warp park: those that waited in a set, and those that a chain or a unit sends back with them, go to
where they resume in the trailing warp too; an item of theirs that awaits its match is withdrawn (12 R290, R292). -/
def State.leaveParked (s : State) (blk : Nat) (u : UnitRef) (mask : Word) (old new : Warp) : State :=
  match u with
  | .warp n =>
    let s := s.modPair blk n (fun p => if p.item.any (fun x => x.lanes &&& mask != 0) then
      { p with item := none, compared := false } else p)
    let moved := (List.range 32).filter (fun l =>
      let a := old.lane l
      let b := new.lane l
      if inMask mask l then (match a.wait with
        | .set _ => true
        | _ => false)
      else a.pc != b.pc)
    moved.foldl (fun (s : State) l => s.leaveMove blk u (laneBit l) (match (new.lane l).park with
      | some p => p.resume
      | none => (new.lane l).pc)) s
  | _ => s

/-- TAKING A FAULT, the one shared operation (R333 to R337): lanes `mask` of a unit park, each with the record
`p` gives it; a lane outside a handler waits for its handler, or is forwarded where its cause is always forwarded or
the region has no handler; a fault in handler mode is forwarded with DOUBLE, by itself where other lanes fault with it. While a
handler runs the trap registers keep its trap (R337); what is forwarded meanwhile is what they show after it (02 R49). A trailing
warp takes no fault: its leading warp does (12 R292). -/
def State.takeFault (s : State) (b : Nat) (u : UnitRef) (mask : Word) (p : Nat → Park) : State :=
  match s.block? b, s.unit? b u with
  | some x, some w =>
    if mask = 0 || u.isTrail then s
    else
      let (stamp, s) := s.fresh
      let p' := fun i => { p i with stamp := stamp }
      let first := p' (lowest mask)
      let s := s.fireStops x.core ((lanesOf mask).flatMap (fun i => (p i).watch))
      let v := w.park mask p'
      let s := if w.chain.any (fun c => c.lanes &&& mask != 0) && !w.atLast then s.count x.core b 11 1 else s
      let s := (s.modUnit b u (fun _ => v)).leaveParked b u mask w v
      let trapv := ((s.region? x.regid).map Region.trapv).getD 0xFFFFFFFF
      let mine : Word := match w.handler with
        | some h => mask &&& laneBit h
        | none => 0
      let rest := mask &&& ~~~mine
      let out := forwardOnly first.cause || trapv == 0xFFFFFFFF
      let s := if mine != 0 || out then s.modUnit b u (fun w =>
          if w.handler.isSome then { w with lastTrap := some (first, if u == .front then 0 else mask) }
          else w.setTrap (u == .front) first mask)
        else s
      let s := if mine = 0 then s else s.forward b u mine (p' (lowest mine)) true
      if rest = 0 then s
      else if out then s.forward b u rest (p' (lowest rest)) false
      else s.push (.handlerEntry b u.num)
  | _, _ => s

/-- The order of a fault's instruction, and whether two parked lanes faulted at one instruction with one cause (R337). -/
def Park.age (p : Park) : Nat := p.issue.getD p.stamp
def Park.sameFault (p q : Park) : Bool := p.age == q.age && p.cause == q.cause

/-- HANDLER ENTRY (R337): the oldest undelivered faulting instruction of the unit; its lowest lane runs alone from
TRAPV in handler mode, with a zeroed handler bank. -/
def State.enterHandler (s : State) (b : Nat) (u : UnitRef) : State :=
  match s.block? b, s.unit? b u with
  | some x, some w =>
    let trapv := ((s.region? x.regid).map Region.trapv).getD 0xFFFFFFFF
    let open' := fun (l : Lane) => match l.park with
      | some p => l.status == .parked && !p.delivered && !forwardOnly p.cause
      | none => false
    let cands := lanesOf (w.lanesWhere open')
    let ageOf := fun i => ((w.lane i).park.map Park.age).getD 0
    match w.handler, cands with
    | none, c :: _ =>
      let oldest := cands.foldl (fun m i => min m (ageOf i)) (ageOf c)
      let h := (cands.find? (fun i => ageOf i == oldest)).getD c
      match (w.lane h).park with
      | some p =>
        let mask := maskOf (cands.filter (fun i => (w.lane i).park.any p.sameFault))
        ((s.modUnit b u (fun w =>
          let w := w.modLanes mask (fun _ l => { l with park := l.park.map (fun q => { q with delivered := true }) })
          let w := w.modLane h (fun l => { l with status := .running, pc := trapv, wait := .none })
          { (w.setTrap (u == .front) p mask) with handler := some h, bank := [] })).leave b u (.handler (some h))).leaveMove b u
            (laneBit h) trapv
      | none => s
    | _, _ => s
  | _, _ => s

/-- Ask for handler entry where a lane still waits for one. -/
def State.askHandler (s : State) (b : Nat) (u : UnitRef) : State :=
  match s.unit? b u with
  | some w =>
    if w.lanes.any (fun l => match l.park with
        | some p => l.status == .parked && !p.delivered
        | none => false)
    then s.push (.handlerEntry b u.num) else s
  | none => s

/-- Virtual page number of a logged access in one lane: 0 where it has no address yet. -/
def LaneAcc.page (a : LaneAcc) : Nat :=
  match a.elems.filterMap id with
  | e :: _ => e / 2 ^ 16
  | [] => 0

/-- End of the handler of a unit, its bank with it (R337); the trap registers hold the trap taken last (02 R49). -/
def Warp.endHandler (w : Warp) : Warp :=
  let v := { w with handler := none, bank := [], acq := w.acq.filter (fun e => decide (e.1 < 32)), lastTrap := none }
  match w.lastTrap with
  | some (p, m) => v.setTrap false p m
  | none => v

end Sys2Proof.Machine
end

