-- ==== Sys2Proof/Machine/Cache.lean ====
section
/-! DEFINITION. Lines, leases and homes: L1, LLC slices, directory, block store buffer, commit points and snapshots
(07 R166, R173; 11 R254 to R263; 12 R271 to R286). Home data is kept once, in memory (notes/assumptions/9). -/

namespace Sys2Proof.Machine

/-- The pseudo-channel of a line, and the memory-side sink unit that serves it (12 R269). -/
def pchOf (line : Nat) : Nat :=
  let pa := line * Config.lineBytes
  bitsOf pa 13 8 ^^^ bitsOf pa 21 16
def umberOf (line : Nat) : Nat := pchOf line / 4

/-- Home slice of a line (12 R269). -/
def sliceOf (line : Nat) : Nat := (line % 64) ^^^ (line / 64 % 64) ^^^ (line / 4096 % 64)

/-! ## DRAM repair (12 R293 to R295) -/

/-- Layer, bank, row and column of a line in its pseudo-channel: one of the die's enabled layers (00 R4). -/
def State.cellOf (s : State) (die line : Nat) : Nat :=
  let cell := (Config.dramCell line).toNat
  let layers := (List.range 8).filter (fun k => natBit s.boot.dlay.toNat (8 * die + k))
  cell / 8 * 8 + layers.getD (cell % 8 % layers.length) 0

/-- Bits 47:3 of the entry of a repair at a line: die, pseudo-channel and place; a pin stands in place of the column (R295). -/
def State.repairPlace (s : State) (die line : Nat) (pin : Option Nat) : Nat :=
  let cell := s.cellOf die line
  let cell := match pin with
    | some p => cell % 2 ^ 27 + p % 2 ^ 10 * 2 ^ 27
    | none => cell
  die % 4 + pchOf line * 2 ^ 2 + cell * 2 ^ 8

/-- Layer, bank and row of a line in its pseudo-channel. -/
def State.rowOf (s : State) (die line : Nat) : Nat × Nat := (pchOf line, s.cellOf die line % 2 ^ 27)

/-- Entries of the pending-repair list (R295). -/
def repairEntries : Nat := 2 ^ 20

/-- A repair steers a row to its spare, or for a pin the pin of a pseudo-channel to a spare lane (R294): two entries that name the
same one. -/
def sameRepair (x y : BitVec 128) : Bool :=
  field x 1 2 == field y 1 2 && field x 3 8 == field y 3 8
    && (if field x 1 2 = 2 then field x 38 10 == field y 38 10 else field x 11 27 == field y 11 27)

/-- Repair a failing location: a spare row, or for a pin a spare lane; the entry of the pending list (R294, R295). The row goes to its
spare corrected, what is beyond correction with its poison, and a pin's data past the pin: no error of theirs is met again. An entry of a
remapped row has KIND 0: where R295's 0, 1 and 3 apply, the spec does not say (DESIGN CHOICE, notes/assumptions/87). -/
def State.repair (s : State) (die line : Nat) (pin : Option Nat) : State :=
  let d := s.die die
  let pch := pchOf line
  let pa := line * Config.lineBytes % Config.addrSpace
  let used := if pin.isSome then d.spareLanes.getD 0 pch else d.spareRows.getD 0 pch
  let word : BitVec 128 :=
    BitVec.ofNat 128 (1 + (if pin.isSome then 2 else 0) * 2 + s.repairPlace die line pin * 2 ^ 3 + s.now % 2 ^ 64 * 2 ^ 64)
  if d.repairs.any (fun e => sameRepair e.word word) then s
  else if (if pin.isSome then 2 else 512) ≤ used then s.post 0x06 6 die 0xFFFFFFFF pa
  else
    let lost := (d.dram.filter (fun e => pin.isNone && e.2.isNone && s.rowOf die e.1 == s.rowOf die line)).map Prod.fst
    let s := { s with poison := s.poison ++ lost.filter (fun l => !s.poison.contains l) }
    let s := s.modDie die (fun d =>
      { d with
        dram := d.dram.filter (fun e => match pin with
          | some p => !(e.2 == some p && pchOf e.1 == pch)
          | none => s.rowOf die e.1 != s.rowOf die line)
        repairs := d.repairs ++ [{ word := word }]
        pendingRepairs := if d.pendingRepairs.length < repairEntries then d.pendingRepairs ++ [{ word := word }] else d.pendingRepairs
        spareLanes := if pin.isSome then d.spareLanes.putD 0 pch (used + 1) else d.spareLanes
        spareRows := if pin.isSome then d.spareRows else d.spareRows.putD 0 pch (used + 1) })
    s.post (if pin.isSome then 0x05 else 0x04) 6 die 0xFFFFFFFF pa

/-- Cycles of one pass of the patrol scrub: 8 hours (R275). -/
def scrubPass : Nat := 8 * 3600 * 940000000

/-- A corrected error, of the patrol scrub or of a demand access: counted, and repaired where the scrub has corrected the line in
its previous pass, or where its pin fails in more than 16 rows (R293). -/
def State.correct (s : State) (die line pin : Nat) (scrub : Bool) : State :=
  let pass := s.now / scrubPass
  let l := (s.die die).corrections.filter (fun e => decide (pass ≤ e.1 + 1))
  let s := s.post 0x01 6 die 0xFFFFFFFF (line * Config.lineBytes % Config.addrSpace)
  let s := s.modDie die (fun d => { d with corrections := l ++ [(pass, line, pin, scrub)] })
  let s := if scrub && l.any (fun e => e.1 + 1 == pass && e.2.1 == line && e.2.2.2) then s.repair die line none else s
  let rows := ((l ++ [(pass, line, pin, scrub)]).filter (fun e => e.1 == pass && e.2.2.1 == pin && pchOf e.2.1 == pchOf line)).map
    (fun e => s.rowOf die e.2.1)
  if 16 < rows.eraseDups.length then s.repair die line (some pin) else s

/-- An access finds the DRAM location of a line of a die: an error that one pin confines is corrected, one beyond the code poisons
the line, and the location is failing (R274, R293). -/
def State.demand (s : State) (die line : Nat) : State :=
  match (s.die die).dram.get? line with
  | none => s
  | some e =>
    let s := s.modDie die (fun d => { d with dram := d.dram.erase line })
    match e with
    | some pin => s.correct die line pin false
    | none => ({ s with poison := if s.poison.contains line then s.poison else s.poison ++ [line] }).repair die line none

/-! ## Links (15 R351, R353; 21 R380, R381) -/

/-- A link carries packets. -/
def Link.up (l : Link) : Bool := !l.down && !l.retraining

/-- Flits in the replay buffer. -/
def Link.flits (l : Link) : Nat := l.replay.foldl (fun n e => n + e.2) 0

/-- Flits that a replay buffer holds (R351). -/
def replayFlits : Nat := 4096

/-- Flits of a partition's virtual channel that await their acknowledgement. -/
def Link.chanFlits (l : Link) (part : Nat) : Nat :=
  (l.replay.filter (fun e => l.chan.get? e.1 == some part)).foldl (fun n e => n + e.2) 0

/-- The member that a flit of a link's stream goes to (R351). -/
def Link.member (l : Link) (flit : Nat) : Option Nat := l.members[flit % l.members.length]?

/-- The partition of a block. -/
def State.partOf (s : State) (blk : Nat) : Option Nat := ((s.block? blk).bind (fun b => s.region? b.regid)).map Region.part

/-- A link carries the virtual channel of a partition (R350). -/
def State.carries (s : State) (link : Nat) (part : Option Nat) : Bool :=
  part.all (fun p => ((s.parts.get? p).bind Partition.channels).all (fun (l : List Nat) => l.contains link))

/-- The link to a device: the one that the die's route names, or where that is not up another that reaches the device. -/
def State.linkTo (s : State) (die dev : Nat) (part : Option Nat := none) : Option (Nat × Link) :=
  let l := s.links.filter (fun e => e.2.peer == dev && e.2.up && s.carries e.1 part)
  match l.find? (fun e => s.route.get? (die * 64 + dev) == some e.1) with
  | some e => some e
  | none => l.head?

/-- A virtual channel has credits for so many flits more (R350): how many it has in all, at least those of one command's unit, the
implementation decides (notes/assumptions/102). -/
def Link.credit (l : Link) (flits : Nat) (part : Option Nat) : Bool :=
  part.all (fun p => decide (l.chanFlits p + flits ≤ Config.channelCredits + 384))

/-- Packets of so many flits for a device wait: no link carries them now, and the device is not lost. -/
def State.cutOff (s : State) (die dev flits : Nat) (part : Option Nat := none) : Bool :=
  dev != s.devNum && !s.fencedBy die (4 + dev) && (match s.linkTo die dev part with
    | some e => decide (replayFlits < e.2.flits + flits) || !e.2.credit flits part
    | none => true)

/-- A packet takes the link's next number, is dealt to the members, and stays in the replay buffer; the peer acknowledges it. -/
def State.sendPacket (s : State) (link flits : Nat) (part : Option Nat := none) : State :=
  match s.links.get? link with
  | none => s
  | some l =>
    let x : Link :=
      { l with
        nextSend := (l.nextSend + 1) % 2 ^ 16, replay := l.replay ++ [(l.nextSend, flits)], dealt := l.dealt + flits
        chan := match part with
          | some p => l.chan.put l.nextSend p
          | none => l.chan.erase l.nextSend }
    { s with links := s.links.put link x }.push (.fabricAckReceive link l.nextSend)

/-- The answers to accesses of peers whose writes are complete go out (11 R260), as far as the links take them (R351, R353). -/
def State.answerOwed (s : State) : State :=
  s.links.foldl (fun (s : State) e => e.2.owed.foldl (fun (s : State) x =>
    match s.links.get? e.1 with
    | some l =>
      if l.up && decide (l.flits + x.1 ≤ replayFlits) && !x.2.any (fun id => (s.acks.get? id).isSome) then
        { s with links := s.links.put e.1 { l with owed := l.owed.erase x } }.sendPacket e.1 x.1
      else s
    | none => s) s) s

/-- A block's packet for a device goes out, and its flits are charged (15 R366). -/
def State.sendTo (s : State) (blk die dev flits : Nat) : State :=
  if dev = s.devNum then s
  else
    let s := s.addEnergy blk 14 flits
    match s.linkTo die dev (s.partOf blk) with
    | some e => s.sendPacket e.1 flits (s.partOf blk)
    | none => s

/-- The device that a line belongs to. -/
def devOfLine (line : Nat) : Nat := line * Config.lineBytes / Config.addrSpace

/-- Where a line is homed, and how the mapping of the access holds it. -/
structure Home where
  line : Nat
  hdie : Nat
  hdev : Nat
  tracked : Bool
  deriving DecidableEq, Repr

/-- Physical address of a virtual one under a leaf that covers it, and its key. -/
def Leaf.pa (l : Leaf) (va : Nat) : Nat := l.base + (va - l.page)
def Leaf.key (l : Leaf) (va : Nat) : Nat := memKey l.hdev (l.pa va)

def Leaf.home (l : Leaf) (va : Nat) : Home :=
  { line := lineOf (l.key va), hdie := l.hdie, hdev := l.hdev, tracked := l.t }

/-- Packets of a die for a line's home wait: no link reaches its device, or its home die has fenced them, and the die has not
(12 R298). -/
def State.cutHome (s : State) (die : Nat) (h : Home) (flits : Nat) (part : Option Nat := none) : Bool :=
  if h.hdev = s.devNum then s.fencedBy h.hdie die && !s.fencedBy die h.hdie else s.cutOff die h.hdev flits part

/-- An L1 copy is valid (R254, R262); one whose parity fails is fetched again (12 R274). -/
def Copy.valid (c : Copy) (ltime : Nat) : Bool := !c.bad && (!c.tracked || decide (ltime ≤ c.rts))

/-- The copy that serves a core's access of a line: a tracked one takes no copy without a lease (R257, R263). -/
def State.l1Copy (s : State) (core : Nat) (h : Home) : Option Copy :=
  match (s.core core).l1.get? h.line with
  | some c => if c.valid (s.core core).ltime && (c.tracked || !h.tracked) then some c else none
  | none => none

/-- A copy in an L1 whose parity fails goes, and the error counts as corrected (12 R274, R278). -/
def State.l1Parity (s : State) (core line : Nat) : State :=
  if ((s.core core).l1.get? line).any Copy.bad then
    (s.modCore core (fun c => { c with l1 := c.l1.erase line })).post 0x01 0 (dieOf core) 0xFFFFFFFF (line * Config.lineBytes % Config.addrSpace)
  else s

/-- Take a copy out of an L1. -/
def State.l1Drop (s : State) (core line : Nat) : State :=
  s.modCore core (fun c => { c with l1 := c.l1.erase line })

/-- Sets of an L1 of 256 KiB, and of an LLC slice of 2 MiB (12 R268). -/
def l1Sets : Nat := 256 * 2 ^ 10 / (Config.ways * Config.lineBytes)
def llcSets : Nat := 2 * 2 ^ 20 / (Config.ways * Config.lineBytes)

/-- Of the lines that a cache holds beside one, those that stand in its set; fewer than 16 leave room in any case. -/
def setMates (index : Nat → Nat) (line : Nat) (l : List Nat) : List Nat :=
  if l.length < Config.ways then l else l.filter (fun k => index k == index line)

/-- Put a copy in an L1; a full set loses a line, one marked first before any other (R166; 12 R268). -/
def State.l1Fill (s : State) (core line : Nat) (x : Copy) : State :=
  let c := s.core core
  let mates := setMates (fun k => Config.l1Set k % l1Sets) line ((c.l1.map Prod.fst).filter (· != line))
  if mates.length < Config.ways ∨ (c.l1.get? line).isSome then
    s.modCore core (fun c => { c with l1 := c.l1.put line x })
  else
    let (n, s) := s.draw
    let marked := mates.filter (fun k => ((c.l1.get? k).map Copy.first).getD false)
    let pool := if marked.isEmpty then mates else marked
    s.modCore core (fun c => { c with l1 := (c.l1.erase (pool.getD (n % pool.length) 0)).put line x })

/-- The peer that a line is homed on, to the other dies of the package. -/
def State.peerOf (s : State) (h : Home) : Nat := if h.hdev = s.devNum then h.hdie else 4 + h.hdev

/-- A slice can serve a line: it is there, and where it is clean its parity holds (12 R274). -/
def LlcLine.serves (x : LlcLine) : Bool := x.present && (x.dirty || !x.bad)

/-- A line is poisoned at home: its DRAM, a dirty line of the home slice that is beyond its code, or a DRAM location that is, and
that the slice does not stand before (12 R274, R276). -/
def State.homePoison (s : State) (h : Home) : Bool :=
  s.poison.contains h.line || (h.hdev == s.devNum && (match (s.die h.hdie).llc.get? h.line with
    | some x => x.home && x.dirty && x.bad
    | none => false)
    || (h.hdev == s.devNum && (s.die h.hdie).dram.get? h.line == some none
      && !(((s.die h.hdie).llc.get? h.line).map LlcLine.serves).getD false))

/-- A line is poison to the accesses of a die: at home, or because the die has fenced its home (12 R276, R300). -/
def State.isPoisoned (s : State) (die : Nat) (h : Home) : Bool := s.homePoison h || s.fencedBy die (s.peerOf h)

/-- The LLC line of a die, as the home holds it when the die is its home. -/
def State.llcLine (s : State) (die : Nat) (h : Home) : LlcLine :=
  ((s.die die).llc.get? h.line).getD
    { home := h.hdie == die && h.hdev == s.devNum, tracked := h.tracked }

/-- A line that the slice takes in: T is as the mapping of the fill gives it (12 R271). -/
def LlcLine.fill (x : LlcLine) (h : Home) : LlcLine :=
  if x.serves then x else { x with present := true, tracked := h.tracked, bad := false }

def State.setLlc (s : State) (die line : Nat) (x : LlcLine) : State :=
  s.modDie die (fun d => { d with llc := d.llc.put line x })

/-- The slice of a die holds a valid copy of a line. -/
def State.llcHolds (s : State) (die line : Nat) : Bool := (((s.die die).llc.get? line).map LlcLine.serves).getD false

/-- A home slice writes a dirty line back to DRAM: one beyond its code is poisoned there (R274). `keep`: the slice holds it on. -/
def State.writeBack (s : State) (h : Home) (keep : Bool) : State :=
  match (s.die h.hdie).llc.get? h.line with
  | none => s
  | some x =>
    if h.hdev ≠ s.devNum then s
    else
      let lost := x.home && x.dirty && x.bad
      let s := if lost then { s with poison := h.line :: s.poison.erase h.line } else s
      s.setLlc h.hdie h.line { x with dirty := false, bad := x.bad && !x.dirty, present := keep && x.present }

/-- A line takes its place in a die's slice: a full set loses another line, written back where it is dirty, which the
block pays for (12 R268, R271; 15 R366). The times of a lost line stand on. -/
def State.llcFill (s : State) (blk die line : Nat) (x : LlcLine) : State :=
  let x := { x with wts := time48 x.wts, rts := time48 x.rts }
  let held := (s.die die).llc.filter (fun e => e.2.present && e.1 != line && sliceOf e.1 == sliceOf line)
  let mates := setMates (fun k => Config.llcSet k % llcSets) line (held.map Prod.fst)
  if mates.length < Config.ways then s.setLlc die line x
  else
    let (n, s) := s.draw
    let k := mates.getD (n % mates.length) 0
    let dirty := (((s.die die).llc.get? k).map LlcLine.dirty).getD false
    let lost := (((s.die die).llc.get? k).map (fun y => y.home && y.dirty && y.bad)).getD false
    let s := if lost then { s with poison := k :: s.poison.erase k } else s
    let s := s.modDie die (fun d =>
      { d with llc := d.llc.modify k (fun y => { y with present := false, dirty := false, bad := false }) })
    (if dirty then s.addEnergy blk 9 2 else s).setLlc die line x

/-- A clean line of a slice whose parity fails is read no more, and the error counts as corrected (12 R274, R278). -/
def State.llcParity (s : State) (die line : Nat) : State :=
  if ((s.die die).llc.get? line).any (fun x => x.present && x.bad && !x.dirty) then
    (s.modDie die (fun d => { d with llc := d.llc.modify line (fun x => { x with present := false, bad := false }) })).post 0x01 1 die
      0xFFFFFFFF (line * Config.lineBytes % Config.addrSpace)
  else s

/-- A fill from the home's DRAM finds its errors. -/
def State.demandAt (s : State) (h : Home) : State :=
  if h.hdev = s.devNum ∧ s.llcHolds h.hdie h.line = false then (s.llcParity h.hdie h.line).demand h.hdie h.line else s

/-- A read at a home that finds no copy in its slice moves the line from DRAM. -/
def State.dramRead (s : State) (blk : Nat) (h : Home) : State :=
  if h.hdev = s.devNum ∧ s.llcHolds h.hdie h.line = false then
    ((s.llcParity h.hdie h.line).addEnergy blk 9 2).demand h.hdie h.line
  else s

/-- wts and rts of a line, as its home slice holds them (R254). -/
def State.homeTimes (s : State) (h : Home) : Nat × Nat :=
  if h.hdev = s.devNum then ((s.llcLine h.hdie h).wts, (s.llcLine h.hdie h).rts) else s.far.getD (0, 0) h.line

/-- The latest logical time of any write on the package. -/
def State.topTime (s : State) : Nat :=
  s.far.foldl (fun n e => max n e.2.1) (s.dies.foldl (fun n e => max n (max e.2.maxWts e.2.floor)) 0)

/-- The number that stands for no core in an acknowledgement. -/
def noCore : Nat := 384

/-! ### The directory's room (12 R272) -/

/-- The core number of an acknowledgement that an eviction from a directory awaits. -/
def evictor : Nat := 385

/-- Lines that have directory entries in the slice of a line. -/
def State.dirMates (s : State) (die line : Nat) : List Nat :=
  ((s.die die).dir.filter (fun e => sliceOf e.1 == sliceOf line)).map Prod.fst

/-- A slice's eviction is under way: of this line where it has an entry, of any where it needs one. -/
def State.evicting (s : State) (die line : Nat) : Bool :=
  let has := ((s.die die).dir.get? line).isSome
  s.acks.any (fun e => e.2.core == evictor && e.2.die == die
    && (if has then e.2.line == line else sliceOf e.2.line == sliceOf line))

/-- A line has an entry in its home's directory, or may have one. -/
def State.dirRoom (s : State) (die line : Nat) : Bool :=
  !s.evicting die line && (((s.die die).dir.get? line).isSome
    || (match s.dirMates die line with
        | [] => true
        | l => decide (l.length < Config.dirEntries) && !Config.dirFull line l))

/-- The sharers that a directory entry names: where it has an error beyond its code, every die and every device that the fabric
reaches and that the die has not fenced (R272; R299). -/
def State.dirNames (s : State) (die line : Nat) : DirEntry :=
  let e := (s.die die).dir.getD {} line
  if e.bad then
    { dies := BitVec.ofNat 4 (((List.range 4).filter (fun d => d != die && !s.fencedBy die d)).foldl (fun n d => n + 2 ^ d) 0)
      devs := s.links.foldl (fun (m : BitVec 64) l =>
        if s.fencedBy die (4 + l.2.peer) then m else m ||| BitVec.ofNat 64 (2 ^ l.2.peer)) 0 }
  else e

/-- Make room for a line's entry: a victim's sharers are sent invalidations, once. -/
def State.dirEvict (s : State) (die line : Nat) : State :=
  if s.evicting die line then s
  else
    let (n, s) := s.draw
    let l := s.dirMates die line
    let k := l.getD (n % l.length) 0
    let e := s.dirNames die k
    let (id, s) := s.fresh
    let ack : Ack := { core := evictor, block := 0, die := die, line := k, wts := 0, dies := e.dies, devs := e.devs }
    let s := { s with acks := s.acks.put id ack }.modDie die (fun d => { d with dir := d.dir.modify k (fun _ => e) })
    let s := ((List.range 4).filter (natBit e.dies.toNat)).foldl (fun (s : State) d => s.push (.directoryInvalidate d k id)) s
    ((List.range 64).filter (natBit e.devs.toNat)).foldl (fun (s : State) d => s.push (.directoryInvalidate (4 + d) k id)) s

/-- A die may keep a copy of a line: the line is its own, it holds one already, or the home's directory can name it. -/
def State.mayKeep (s : State) (die : Nat) (h : Home) : Bool :=
  h.hdev != s.devNum || h.hdie == die || s.llcHolds die h.line || s.dirRoom h.hdie h.line

/-- The place of a die's LLC copy among those that hold bytes written. -/
def farPlace (die : Nat) : Nat := 512 + die

/-- A line's data go to a place: the open writes that they hold are there too (10 R237). `src`: the place they come from; none is
the home, which holds every write performed. -/
def State.carry (s : State) (line : Nat) (src : Option Nat) (dst : Nat) : State :=
  { s with acks := s.acks.mapVals (fun a =>
      if a.line = line ∧ src.all a.places.contains then { a with places := dst :: a.places.erase dst } else a) }

/-- A block, or an engine's command, reads bytes of a line from a place: the open writes that it reads are in its set C
(10 R245). -/
def State.readsFrom (s : State) (who line : Nat) (mask : BitVec 128) (src : Option Nat) : State :=
  { s with acks := s.acks.mapVals (fun a =>
      if a.line = line ∧ src.all a.places.contains ∧ (a.mask &&& mask) ≠ 0 then { a with readers := who :: a.readers.erase who }
      else a) }

/-- Name a die in the directory entry of a line at its home die (R259). -/
def State.addSharer (s : State) (home line die : Nat) : State :=
  s.modDie home (fun d =>
    let e := d.dir.getD {} line
    { d with dir := d.dir.put line { e with dies := e.dies ||| BitVec.ofNat 4 (2 ^ die) } })

/-- The line at the LLC level of a die, for a tracked read: the home line, the die's copy, or a copy fetched from the
home, its wts raised to the die's remote floor (R259, R260; 12 R271). -/
def State.llcRead (s : State) (blk die : Nat) (h : Home) : BitVec 1024 × Bool × LlcLine × State :=
  if h.hdie = die ∧ h.hdev = s.devNum then
    (s.lineData h.line, s.isPoisoned die h, (s.llcLine die h).fill h, s.demandAt h)
  else
    let held := (s.die die).llc.get? h.line
    match held.filter LlcLine.serves with
    | some x => (x.data, x.poison, x, s)
    | none =>
      let s := s.llcParity die h.line
      let own := h.hdev = s.devNum
      let data := s.lineData h.line
      let src : LlcLine := if own then (s.llcLine h.hdie h).fill h
        else { home := true, tracked := true, wts := (s.homeTimes h).1, rts := (s.homeTimes h).2 }
      let bad := s.isPoisoned die h
      let s := if own then (s.demandAt h).llcFill blk h.hdie h.line src else s
      let wts := max src.wts (s.die die).floor
      let x : LlcLine :=
        { home := false, tracked := true, wts := wts, rts := max (max src.rts wts) ((held.map LlcLine.rts).getD 0)
          poison := bad, data := data }
      let s := if own then s.addSharer h.hdie h.line die else s
      (data, x.poison, x, s.carry h.line none (farPlace die))

/-- The line as a die reads it that keeps no copy: no lease is taken (R259; 12 R272). -/
def State.readUnkept (s : State) (core : Nat) (h : Home) : BitVec 1024 × Bool × State :=
  (s.lineData h.line, s.isPoisoned (dieOf core) h,
    (s.carry h.line none core).raiseLtime core (max (s.homeTimes h).1 (s.die (dieOf core)).floor))

/-- What a core's read of a line finds: the data, whether it is poisoned, whether L1 served it. Misses take a lease
(R255) or read the home without one (R262), and fill L1 unless the policy keeps them out (R166). -/
def State.loadLine (s : State) (blk core : Nat) (h : Home) (pol : Nat) : BitVec 1024 × Bool × Bool × State :=
  let s := s.l1Parity core h.line
  match s.l1Copy core h with
  | some c =>
    let s := if pol = 1 then s.modCore core (fun x => { x with l1 := x.l1.put h.line { c with first := true } }) else s
    (c.data, c.poison, true, s)
  | none =>
    let die := dieOf core
    if h.tracked then
      if s.mayKeep die h = false then
        let (data, bad, s) := s.readUnkept core h
        (data, bad, false, s)
      else
      let (data, bad, x, s) := s.llcRead blk die h
      let s := s.carry h.line (if x.home then none else some (farPlace die)) core
      let lt := (s.core core).ltime
      let rts := time48 (max x.rts (lt + 64))
      let s := s.llcFill blk die h.line { x with rts := rts }
      let s := s.raiseLtime core (max x.wts (rts - 64))
      let s := if pol < 2 then s.l1Fill core h.line { data := data, tracked := true, rts := rts, poison := bad, first := pol == 1 } else s
      (data, bad, false, s)
    else
      let data := s.lineData h.line
      let bad := s.isPoisoned (dieOf core) h
      let s := (s.demandAt h).carry h.line none core
      let s := if h.hdev = s.devNum then s.llcFill blk h.hdie h.line ((s.llcLine h.hdie h).fill h) else s
      let s := if pol < 2 then s.l1Fill core h.line { data := data, tracked := false, rts := 0, poison := bad, first := pol == 1 } else s
      (data, bad, false, s)

/-- A read of a tracked line at its home, for a core: its lease (R255). `fill`: the slice takes the line; it keeps the times of one that it
does not hold too. -/
def State.lease (s : State) (blk core : Nat) (h : Home) (fill : Bool := true) : State :=
  let rts := max (s.homeTimes h).2 ((s.core core).ltime + 64)
  if !h.tracked then s
  else if h.hdev = s.devNum then
    if fill then s.llcFill blk h.hdie h.line { (s.llcLine h.hdie h).fill h with rts := rts }
    else s.setLlc h.hdie h.line { s.llcLine h.hdie h with present := s.llcHolds h.hdie h.line, rts := time48 rts }
  else { s with far := s.far.put h.line ((s.homeTimes h).1, time48 rts) }

/-- What a response about a line comes no earlier than, on a die: its remote floor, where the line is homed elsewhere (R260;
notes/assumptions/73). -/
def State.floorFor (s : State) (die : Nat) (h : Home) : Nat :=
  if h.hdev = s.devNum ∧ h.hdie = die then 0 else (s.die die).floor

/-- The logical time that a response from a line's home brings to a core (R255), no lower than the floor of its die where the
line is homed elsewhere (R260). -/
def State.homeTime (s : State) (core : Nat) (h : Home) : Nat :=
  if h.tracked then max (max (s.homeTimes h).1 ((s.homeTimes h).2 - 64)) (s.floorFor (dieOf core) h) else 0

/-! ## Writes at the home point -/

/-- Clear the reservations on a line (07 R174; 10 R251), but for the lanes a test keeps; those of system cores too
where the write stands at the home point. -/
def State.clearResv (s : State) (line : Nat) (home : Bool) (keep : Nat → UnitRef → Nat → Bool) : State :=
  let clear (b : Nat) (v : UnitRef) (w : Warp) : Warp :=
    { w with lanes := mapFrom 0 (fun i (l : Lane) =>
        match l.resv with
        | some r => if r.line = line ∧ !keep b v i then { l with resv := none } else l
        | none => l) w.lanes }
  { s with
    blocks := s.blocks.map (fun e => (e.1, { e.2 with ctx := { e.2.ctx with
      warps := mapFrom 0 (fun n w => clear e.1 (.warp n) w) e.2.ctx.warps } }))
    sysResv := if home then s.sysResv.filter (fun e => e.2 != line) else s.sysResv }

/-- The one lane that a write of its own leaves its reservation (R251). -/
def onlyLane (blk : Nat) (u : UnitRef) (lane : Nat) (b : Nat) (v : UnitRef) (i : Nat) : Bool :=
  b == blk && v == u && i == lane

/-- A die's LLC holds a copy of a line homed elsewhere. -/
def State.holdsFar (s : State) (die line : Nat) : Bool :=
  (((s.die die).llc.get? line).map (fun (x : LlcLine) => !x.home)).getD false

/-- A die gives up its copy of a line homed elsewhere, and later copies of remote lines come no earlier than its lease
(R260). -/
def State.dropFarCopy (s : State) (die line : Nat) : State :=
  match (s.die die).llc.get? line with
  | some x => if x.home then s
      else s.modDie die (fun d => { d with llc := d.llc.erase line, floor := max d.floor (time48 (x.rts + 1)) })
  | none => s

/-- Sharers that a write must invalidate (R260, R272): as the home's directory names them; of a line of another device, the dies of
the package that hold a copy, which its home reaches by the device's bit. -/
def State.sharers (s : State) (h : Home) : DirEntry :=
  if h.hdev = s.devNum then s.dirNames h.hdie h.line
  else { dies := BitVec.ofNat 4 (((List.range 4).filter (fun d => s.holdsFar d h.line)).foldl (fun n d => n + 2 ^ d) 0) }

/-- Indices of the bits of a value below `n`. -/
def bitList (x n : Nat) : List Nat := (List.range n).filter (natBit x)

/-- The logical time and sharers of a tracked write at its home slice: wts passes every lease (R255); sharers are
sent invalidations (R260). Answers the write's number for its acknowledgement and its wts. `mask`: the bytes written;
`places`: where they stand at once; `who`: the block or the command whose write it is. `fill`: the slice takes the line; a write at
the memory side leaves one that does not hold it as it is (07 R179). -/
def State.stampWrite (s : State) (core blk ltime : Nat) (h : Home) (mask : BitVec 128) (places : List Nat)
    (fill : Bool := true) (who : Nat := blk) : Nat × Nat × State :=
  let (id, s) := s.fresh
  let own := h.hdev = s.devNum
  let x := s.llcLine h.hdie h
  let wts := if h.tracked then time48 (max ((s.homeTimes h).2 + 1) ltime) else 0
  let s := if own then
      let here := s.llcHolds h.hdie h.line
      let fill := fill || here
      let x := if fill then x.fill h else x
      let x := { x with bad := x.bad && x.dirty && mask != BitVec.allOnes 128 }
      let x := { x with home := true, present := fill || here, dirty := if fill then true else here && x.dirty }
      let x := if h.tracked then { x with tracked := true, wts := wts, rts := wts } else x
      let s := if fill then s.llcFill blk h.hdie h.line x else s.setLlc h.hdie h.line x
      s.modDie h.hdie (fun d => { d with maxWts := max d.maxWts wts })
    else if h.tracked then { s with far := s.far.put h.line (wts, wts) }
    else s
  let e := if h.tracked then s.sharers h else {}
  let s := if h.tracked ∧ own ∧ ((s.die h.hdie).dir.getD {} h.line).bad then
      s.modDie h.hdie (fun d => { d with dir := d.dir.put h.line e })
    else s
  let ack : Ack :=
    { core := core, block := who, die := h.hdie, line := h.line, wts := wts, dies := e.dies, devs := e.devs, mask := mask
      places := places }
  let s := { s with acks := s.acks.put id ack }
  let s := (bitList e.dies.toNat 4).foldl (fun s d => s.push (.directoryInvalidate d h.line id)) s
  let s := (bitList e.devs.toNat 64).foldl (fun s d => s.push (.directoryInvalidate (4 + d) h.line id)) s
  (id, wts, s.push (.storeAcknowledge id))

/-- A write of a whole line meets no error of its location any longer (12 R276). -/
def State.cleanse (s : State) (h : Home) : State :=
  if h.hdev = s.devNum ∧ ((s.die h.hdie).dram.get? h.line).isSome then s.modDie h.hdie (fun d => { d with dram := d.dram.erase h.line })
  else s

/-- Bytes of one line are written, where a mask has a bit. -/
def writeMasked (m : Table Byte) (base : Nat) (mask : BitVec 128) (data : BitVec 1024) : Table Byte :=
  (bitList mask.toNat 128).foldl (fun m i => Memory.put m (base + i) (BitVec.ofNat 8 (data.toNat / 2 ^ (8 * i)))) m

/-- A write of bytes of one line, performed at its home (R173, R255, R260): a write of the whole line clears poison (12 R276). -/
def State.homeWrite (s : State) (h : Home) (mask : BitVec 128) (data : BitVec 1024) : State :=
  { (if mask = BitVec.allOnes 128 then s.cleanse h else s) with
    mem := writeMasked s.mem (h.line * Config.lineBytes) mask data
    poison := if mask = BitVec.allOnes 128 then s.poison.erase h.line else s.poison }

/-- A store of a die does not reach a line's home: the one has fenced the other, and what is stored there is lost (12 R298, R301). -/
def State.cutStore (s : State) (die : Nat) (h : Home) : Bool :=
  s.fencedBy die (s.peerOf h) || (h.hdev == s.devNum && s.fencedBy h.hdie die)

/-- A store that is lost: it is acknowledged, once its agent has fenced the home, and changes nothing. -/
def State.lostStore (s : State) (core who : Nat) (h : Home) : Nat × State :=
  let (id, s) := s.fresh
  let ack : Ack := { core := core, block := who, die := h.hdie, line := h.line, wts := 0 }
  (id, { s with acks := s.acks.put id ack }.push (.storeAcknowledge id))

/-- Mask and data of `n` bytes from offset `o` of a line. -/
def maskAt (o n : Nat) : BitVec 128 := BitVec.ofNat 128 ((2 ^ n - 1) * 2 ^ o)
def dataAt (o : Nat) (l : List Byte) : BitVec 1024 := BitVec.ofNat 1024 (leNat l * 2 ^ (8 * o))

/-- The logical time that a block's write does not precede: its core's, and that of what a barrier phase has released (R256; 10
R248). -/
def State.writerTime (s : State) (core blk : Nat) : Nat := max (s.core core).ltime (((s.block? blk).map Block.relTime).getD 0)

/-- The acknowledgement of a tracked write of a line homed elsewhere: a copy leaves the writer's die at once, since its next read returns
what it wrote (10 R238), and it brings no time below the die's floor then (R260). Answers that time. -/
def State.leaveDie (s : State) (core id wts : Nat) (h : Home) : Nat × State :=
  if !h.tracked then (wts, s)
  else
    let s := s.dropFarCopy (dieOf core) h.line
    let t := max wts (s.floorFor (dieOf core) h)
    (t, { s with acks := s.acks.modify id (fun a => { a with wts := t }) })

/-- A write at the home by an agent of a core; the writing core's own present copy is updated (R255). -/
def State.write (s : State) (core blk : Nat) (h : Home) (mask : BitVec 128) (data : BitVec 1024) : Nat × State :=
  if s.cutStore (dieOf core) h then s.lostStore core blk h
  else
  let (id, wts, s) := s.stampWrite core blk (s.writerTime core blk) h mask [core]
  let (_, s) := (s.homeWrite h mask data).leaveDie core id wts h
  let s := match (s.core core).l1.get? h.line with
    | some c =>
      let d := (bitList mask.toNat 128).foldl (fun d i => setField d (8 * i) 8 (data.toNat / 2 ^ (8 * i))) c.data
      let bad := c.poison && mask != BitVec.allOnes 128
      s.modCore core (fun x => { x with l1 := x.l1.put h.line { c with data := d, poison := bad } })
    | none => s
  (id, s)

/-- A sunk write, at the level where it runs: its wts; a copy in the issuing core's L1 is left as it is (07 R180; 10 R250). -/
def State.writeBelow (s : State) (core blk : Nat) (h : Home) (fill : Bool) (mask : BitVec 128) (data : BitVec 1024) : Nat × State :=
  if s.cutStore (dieOf core) h then (0, (s.lostStore core blk h).2)
  else
  let (id, wts, s) := s.stampWrite core blk (s.writerTime core blk) h mask [] fill
  (s.homeWrite h mask data).leaveDie core id wts h

/-- Combine of 07 R172, on words. -/
def combine (op : AtomOp) (old x y : Word) : Word :=
  match op with
  | .add => old + x
  | .minS => if old.toInt < x.toInt then old else x
  | .maxS => if old.toInt < x.toInt then x else old
  | .minU => if old.toNat < x.toNat then old else x
  | .maxU => if old.toNat < x.toNat then x else old
  | .and => old &&& x
  | .or => old ||| x
  | .xor => old ^^^ x
  | .exch => x
  | .cas => if old = x then y else old
  | .addF32 => BitVec.ofNat 32 (fadd .f32 {} old.toNat x.toNat).1
  | .addF16x2 => BitVec.ofNat 32 (packed (fun a b _ => fadd .f16 {} a b) old.toNat x.toNat 0).1

/-- A read-modify-write of a word at the home point (R172, R173): the old word, unless the line is poisoned (12
R276); the issuing core's L1 copy goes. -/
def State.rmw (s : State) (core blk : Nat) (keep : Nat → UnitRef → Nat → Bool) (h : Home) (off : Nat)
    (f : Word → Option Word) : Option Word × State :=
  if s.isPoisoned (dieOf core) h then (none, s)
  else
    let old : Word := BitVec.ofNat 32 (s.rdNat (h.line * Config.lineBytes + off) 4)
    let s := (s.dramRead blk h).readsFrom blk h.line (maskAt off 4) none
    match f old with
    | none => (some old, s.l1Drop core h.line)
    | some new =>
      let s := s.l1Drop core h.line
      let (_, s) := s.write core blk h (maskAt off 4) (dataAt off (leBytes 4 new.toNat))
      (some old, s.clearResv h.line true keep)

/-! ## The block store buffer (12 R279, R280) -/

def BufLine.put (l : BufLine) (o : Nat) (bytes : List Byte) : BufLine :=
  { l with mask := l.mask ||| maskAt o bytes.length, data := lineWith l.data o bytes }

/-- Where a buffered line is homed. -/
def BufLine.home (l : BufLine) (line : Nat) : Home := { line := line, hdie := l.hdie, hdev := devOfLine line, tracked := l.tracked }

/-- No link carries a block's buffered line to its home now: its release waits (15 R351, R353). -/
def State.lineWaits (s : State) (blk : Nat) (b : Block) (line : Nat) (l : BufLine) : Bool :=
  s.cutHome (dieOf b.core) (l.home line) 3 (s.partOf blk)

/-- Release the buffered line of one address through the core's L1 to its home (R173; 07 R170). An entry whose error lies beyond its
code is consumed instead, and a block that has consumed an error releases nothing (R277). What a commit point (`point`) releases is
committed work (R281). -/
def State.releaseLine (s : State) (blk line : Nat) (point : Bool := false) : State :=
  match s.block? blk with
  | none => s
  | some b =>
    match b.buf.get? line with
    | none => s
    | some e =>
      if b.consumed.isSome then s
      else if e.bad then s.consume blk Cause.UNCORRECTABLE 4
      else
        let h := e.home line
        let (_, s) := s.write b.core blk h e.mask e.data
        (((s.clearResv line true (fun x _ _ => x == blk)).addEnergy blk 8 1).sendTo blk (dieOf b.core) h.hdev 3).modBlock blk
          (fun x => { x with buf := x.buf.erase line, committed := x.committed || point })

/-- The block has consumed an error: it does nothing more (12 R277). -/
def State.hasConsumed (s : State) (blk : Nat) : Bool := (s.block? blk).any (fun b => b.consumed.isSome)

/-- The logical time that none of a block's buffered lines goes out before, where an arrival at a barrier has ordered what the block has
stored before it (10 R248; 11 R256): all of them carry one time, and later writes none below it (notes/assumptions/88). -/
def State.releaseTime (s : State) (b : Block) : Nat :=
  b.buf.foldl (fun n e =>
    max n ((s.homeTimes (e.2.home e.1)).2 + 1)) (s.core b.core).ltime

/-- Release every buffered line that goes out: a commit point. One that no link carries stays. -/
def State.release (s : State) (blk : Nat) : State :=
  match s.block? blk with
  | none => s
  | some b =>
    let s := if b.arrived then s.modBlock blk (fun x => { x with arrived := false, relTime := max x.relTime (s.releaseTime b) }) else s
    b.buf.foldl (fun (s : State) e => if s.lineWaits blk b e.1 e.2 then s else s.releaseLine blk e.1 true) s

/-- Acknowledgements of a block's own writes. -/
def State.acksOf (s : State) (blk : Nat) : List Nat := (s.acks.filter (fun e => e.2.block == blk)).map Prod.fst

/-- The open writes of a block's set C (10 R245): its own, and those that it has read. -/
def State.setC (s : State) (blk : Nat) : List Nat :=
  (s.acks.filter (fun e => e.2.block == blk || e.2.readers.contains blk)).map Prod.fst

/-- A block goes on at another core: it reads nothing there that is older than what it has read or written (10 R237, R238). Copies
of remote lines with open writes of its set C leave the die, and the core's logical time passes all that the block has seen
(notes/assumptions/73). -/
def State.enterCore (s : State) (blk old core : Nat) : State :=
  let mine := (s.setC blk).filterMap s.acks.get?
  let s := mine.foldl (fun (s : State) a => s.dropFarCopy (dieOf core) a.line) s
  s.raiseLtime core (mine.foldl (fun n a => max n a.wts) (max (s.core old).ltime (s.die (dieOf core)).floor))

/-- The snapshot slot of a block: partition and slot index (12 R283). -/
def snapKey (part slot : Nat) : Nat := part * 4096 + slot

/-- Contents and owners of a block's window. -/
def State.window (s : State) (b : Block) : Table Byte × BitVec 128 :=
  let c := s.core b.core
  let lo := b.tile0 * Config.tileBytes
  let hi := lo + b.ntile * Config.tileBytes
  ((c.sp.filter (fun e => decide (lo ≤ e.1) && decide (e.1 < hi))).map (fun e => (e.1 - lo, e.2)),
   BitVec.ofNat 128 (bitsOf c.engTiles.toNat (b.tile0 + b.ntile - 1) b.tile0 * (if b.ntile = 0 then 0 else 1)))

/-- A running lane stands at a PC again. -/
def Lane.standAt (pc : Nat) (fresh : Bool) (l : Lane) : Lane :=
  match l.status with
  | .running => { l with pc := pc, latches := if fresh then [] else l.latches }
  | _ => l

/-- Warp state as a snapshot holds it (12 R283), or as a switch leaves it: no reservations, and no chain or hint sequence half
issued: their lanes stand at the chain's head, or at the first hint word. Waits of a word begin afresh (08 R198). -/
def Warp.forSnap (w : Warp) : Warp :=
  let w := w.modLanes (if w.hints.isEmpty then 0 else w.unitLanes) (fun _ => Lane.standAt w.hintPc false)
  let w := match w.chain with
    | some c => w.modLanes c.lanes (fun _ => Lane.standAt c.head true)
    | none => w
  let lanes := w.lanes.map (fun (l : Lane) => { l with resv := none, lastPage := none })
  { w with
    chain := none, hints := [], hintPc := 0, unitLanes := 0, lanes := lanes, owners := [], committing := false, rel := none
    tokenWait := false }

/-- The access of a lane goes on after the lane's resumption: it has faulted, or follows one that has. -/
def LaneAcc.stuck (x : LaneAcc) : Bool := x.phase == .faulted || x.phase == .after

/-- An access of a lane that a commit point does not wait for: faulted, or one that the full buffer holds back (12 R280,
R284). -/
def LaneAcc.settled (x : LaneAcc) : Bool := x.stuck || x.phase == .held

/-- No load, group or register write of the block is outstanding: what its logs hold are faulted accesses of parked
lanes, and stores that await room in the buffer (12 R284 step 1). -/
def Block.quiet (b : Block) : Bool :=
  (b.ctx.front :: b.ctx.warps).all (fun w => w.log.all (fun e => e.2.lanes.all LaneAcc.settled))

/-- Every trailing warp has issued what its leading warp has: every comparison is over (12 R292). -/
def Ctx.drained (c : Ctx) : Bool := c.pairs.all (fun p => p.stream.isEmpty)

/-- A commit point of the block waits: in protected mode until the block is quiet (12 R284), under the trailing check until the
trailing warps have reached it (12 R292). -/
def Block.commitStall (b : Block) (r : Region) : Bool := (r.prot && !b.quiet) || (r.check && !b.ctx.drained)

/-- Cores whose threads a scope holds, up to DIE (10 R244; 11 R252). -/
def scopeCores (core scope : Nat) : List Nat :=
  match scope with
  | 0 => [core]
  | 1 => (List.range Config.coresPerCluster).map (clusterOf core * Config.coresPerCluster + ·)
  | _ => (List.range Config.coresPerDie).map (dieOf core * Config.coresPerDie + ·)

/-- A release of the block passes its set C on to the cores of a scope: who acquires there has it in its own (10 R245). -/
def State.shareC (s : State) (blk : Nat) (cores : List Nat) : State :=
  let ids := s.setC blk
  { s with acks := s.acks.map (fun e =>
      if ids.contains e.1 then (e.1, { e.2 with shared := cores ++ e.2.shared.filter (fun c => !cores.contains c) }) else e) }

/-- An acquire of the block: what releases have passed on to its core joins its set C (10 R245); at DIE scope and wider no copy
of a remote line that an invalidation made stale stays valid (11 R260). -/
def State.acquireAt (s : State) (blk core scope : Nat) : State :=
  let s := { s with acks := s.acks.mapVals (fun a =>
    if a.shared.contains core then { a with readers := blk :: a.readers.erase blk } else a) }
  if 2 ≤ scope then s.raiseLtime core (s.die (dieOf core)).floor else s

/-- Bytes of a snapshot half of a block (12 R283). -/
def snapHalfBytes (ntile : Nat) : Nat := 132 * 2 ^ 10 + Config.tileBytes * ntile

/-- A byte of a warp's vector registers, lane for lane (notes/assumptions/80). -/
def Warp.regByte (w : Warp) (k : Nat) : Byte := BitVec.ofNat 8 (((w.lane (k / 224)).reg (k % 224 / 4)).toNat / 2 ^ (8 * (k % 4)))

/-- A byte of a half as its area holds it: header and operand log, the warps' vector registers, the window (12 R283). -/
def SnapHalf.byte (h : SnapHalf) (o : Nat) : Byte :=
  if o < 20 * 2 ^ 10 then Config.snapByte h.seq o
  else if o < 132 * 2 ^ 10 then
    let k := o - 20 * 2 ^ 10
    ((h.ctx.warps[k / 7168]?).getD ({} : Warp)).regByte (k % 7168)
  else h.window.getD 0 (o - 132 * 2 ^ 10)

/-- Where a half stands in memory. -/
def State.snapBase (s : State) (part : Nat) (b : Block) (seq : Nat) : Nat :=
  memKey s.devNum ((s.part part).snapArea + Config.snapPlace part b.snapSlot + seq % 2 * snapHalfBytes b.ntile)

/-- Lines of a half's area. -/
def State.snapLine (s : State) (part : Nat) (b : Block) (seq line : Nat) : Bool :=
  let k := s.snapBase part b seq
  decide (lineOf k ≤ line) && decide (line * Config.lineBytes < k + snapHalfBytes b.ntile)

/-- Write bytes to an area that system software has pinned; its whole lines carry no poison then (12 R276). -/
def State.wrArea (s : State) (k : Nat) (bytes : List Byte) : State :=
  let whole := fun (l : Nat) => decide (k ≤ l * Config.lineBytes) && decide ((l + 1) * Config.lineBytes ≤ k + bytes.length)
  { s.wrBytes k bytes with
    poison := s.poison.filter (fun l => !whole l)
    dies := s.dies.mapVals (fun d => { d with dram := d.dram.filter (fun e => !whole e.1) }) }

/-- Write a half to the partition's snapshot area (12 R283). -/
def State.writeHalf (s : State) (part : Nat) (b : Block) (h : SnapHalf) : State :=
  s.wrArea (s.snapBase part b h.seq) ((List.range (snapHalfBytes b.ntile)).map h.byte)

/-- Write the block's state into the older half and make it current (12 R284 steps 3 and 4). -/
def State.snapshot (s : State) (blk : Nat) : State :=
  match s.block? blk with
  | none => s
  | some b =>
    let part := ((s.region? b.regid).map Region.part).getD 0
    let k := snapKey part b.snapSlot
    let halves := s.snaps.getD [] k
    let seq := halves.foldl (fun m x => max m x.seq) 0 + 1
    let (win, own) := s.window b
    let ctx : Ctx :=
      { b.ctx with warps := b.ctx.warps.map Warp.forSnap, trailing := [], pairs := [], front := b.ctx.front.forSnap }
    let half : SnapHalf := { seq := seq, window := win, owners := own, ctx := ctx, status := b.status }
    let s := { s with snaps := s.snaps.put k (half :: halves.take 1) }.writeHalf part b half
    s.modBlock blk (fun x => { x with rollbacks := 0, finals := [], bypassed := false })

/-- Whether the block's region runs in protected mode. -/
def State.protectedBlk (s : State) (b : Block) : Bool := ((s.region? b.regid).map Region.prot).getD false

/-- A commit point of the block may have to wait. -/
def State.defers (s : State) (b : Block) : Bool := match s.region? b.regid with
  | some r => r.prot || r.check
  | none => false

/-- Release what goes out. The commit point is over once nothing stays. -/
def State.releaseAll (s : State) (blk : Nat) : State :=
  (s.release blk).modBlock blk (fun b =>
    let more := !b.buf.isEmpty && b.consumed.isNone
    { b with commitDue := more, releasing := more })

/-- A commit point (12 R280): the buffer is released; in protected mode, and under the trailing check, once the block is ready
for it (12 R284, R292). -/
def State.commit (s : State) (blk : Nat) : State :=
  match s.block? blk with
  | none => s
  | some b => if s.defers b || b.releasing then s.modBlock blk (fun b => { b with commitDue := true }) else s.releaseAll blk

/-- The next quiet moment of a protected block is a commit point (R285). -/
def State.commitSoon (s : State) (blk : Nat) : State :=
  match s.block? blk with
  | some b => if s.protectedBlk b then s.modBlock blk (fun b => { b with commitDue := true }) else s
  | none => s

/-- What a release of the block awaits: a commit point that is due, named 0, and its set C. -/
def State.awaited (s : State) (blk : Nat) : List Nat :=
  (if ((s.block? blk).map Block.commitDue).getD false then [0] else []) ++ s.setC blk

/-- What a unit awaits of a commit point that has been taken. -/
def Warp.committed (ids : List Nat) (w : Warp) : Warp :=
  let put := fun (l : List Nat) => if l.contains 0 then l.erase 0 ++ ids else l
  { w with
    rel := w.rel.map (fun e => (e.1, put e.2))
    lanes := w.lanes.map (fun l => match l.wait with
      | .fence l0 sc near drop => { l with wait := .fence (put l0) sc near drop }
      | _ => l) }

/-- Take the commit point that is due, once the block is ready: in protected mode the check of the buffer, then the snapshot; then
the release (R284). -/
def State.settleCommit (s : State) (blk : Nat) : State :=
  match s.block? blk with
  | none => s
  | some b => match s.region? b.regid with
    | none => s
    | some r =>
      if b.commitDue && (b.releasing || !b.commitStall r) then
        if !b.releasing && r.prot && b.buf.any (fun e => e.2.bad) then
          (s.modBlock blk (fun b => { b with commitDue := false })).consume blk Cause.UNCORRECTABLE 4
        else
        let s := (if r.prot && !b.releasing then s.snapshot blk else s).releaseAll blk
        if (s.block? blk).any Block.commitDue then s
        else
        let s := s.shareC blk (scopeCores b.core 2)
        let ids := s.setC blk
        s.modBlock blk (fun b =>
          let c := b.ctx
          { b with ctx := { c with warps := c.warps.map (Warp.committed ids), front := Warp.committed ids c.front } })
      else s

/-- The buffer has no room for a line of the block (R279). -/
def State.bufFull (s : State) (blk line : Nat) : Bool := match s.block? blk with
  | some b => (b.buf.get? line).isNone && decide (Config.bufferLines ≤ b.buf.length)
  | none => false

/-- A store that needs a 257th line waits, since the commit point that makes room may have to (R280, R284; 15 R353). -/
def State.roomStall (s : State) (blk line : Nat) : Bool :=
  s.bufFull blk line && ((s.block? blk).map (fun b => s.defers b || b.buf.all (fun e => s.lineWaits blk b e.1 e.2))).getD false

/-- A store enters the buffer; one that needs a 257th line is a commit point first (R280). Where that commit point has to wait,
the store does (notes/assumptions/21), and finds room here. -/
def State.bufStore (s : State) (blk : Nat) (u : UnitRef) (lane : Nat) (h : Home) (off : Nat) (bytes : List Byte)
    (leaf : Option Leaf) : State :=
  let s := if s.bufFull blk h.line then s.commit blk else s
  let s := s.clearResv h.line false (fun x v i => x != blk || onlyLane blk u lane x v i)
  s.modBlock blk (fun x =>
    let l := x.buf.getD { mask := 0, data := 0, tracked := h.tracked, hdie := h.hdie } h.line
    { x with buf := x.buf.put h.line { l.put off bytes with leaves := (leaf.toList ++ l.leaves).eraseDups } })

/-- A line as the threads of a block read it: the buffered bytes over what the core finds (R166, R246). -/
def overlay (d : BitVec 1024) (l : BufLine) : BitVec 1024 :=
  (bitList l.mask.toNat 128).foldl (fun d i => setField d (8 * i) 8 (l.data.toNat / 2 ^ (8 * i))) d

def State.blockLine (s : State) (blk : Nat) (h : Home) (d : BitVec 1024) : BitVec 1024 :=
  match s.block? blk with
  | some b => match b.buf.get? h.line with
    | some l => overlay d l
    | none => d
  | none => d

/-- A buffered line of the block that a read meets has an error beyond its code (12 R274). -/
def State.bufFlawed (s : State) (blk line : Nat) : Bool := (s.block? blk).any (fun b => (b.buf.get? line).any BufLine.bad)

/-! ## Fences (11 R256, R258, R260) -/

/-- No copy in a core's L1 is older than a write that has been performed: what stays are the copies of the die's own lines whose lease no
write has ended. A lease of another line, in the die's own time, says nothing of its home's writes. -/
def State.freshen (s : State) (core : Nat) : State :=
  let own := fun (line rts : Nat) => ((s.die (dieOf core)).llc.get? line).any (fun x => x.home && decide (x.wts ≤ rts))
  s.modCore core (fun c => { c with l1 := c.l1.filter (fun e => !e.2.tracked || own e.1 e.2.rts) })

/-- What an FENCE.SC leaves a core: no copy older than a performed write (R258). At DIE scope and wider its logical time passes
every such copy's lease; at CORE and CLUS scope, which change no logical time (R256), the copies go (notes/assumptions/12). -/
def State.scRaise (s : State) (core scope : Nat) : State :=
  let d := s.die (dieOf core)
  if scope < 2 then s.freshen core else s.raiseLtime core (max d.maxWts d.floor)

/-- Lanes of a path wait for acknowledgements, where there are any (R256). -/
def State.fenceWait (s : State) (blk : Nat) (u : UnitRef) (lanes : Word) (ids : List Nat) (sc : Option Nat) (near : Bool)
    (drop : Option (Option Nat) := none) : State :=
  match s.block? blk, ids with
  | none, _ => s
  | some b, [] => match sc with
    | some scope => s.scRaise b.core scope
    | none => s
  | some _, ids => s.modUnit blk u (fun w => w.modLanes lanes (fun _ l =>
      if l.status == .running then { l with wait := .fence ids sc near drop } else l))

/-- A write is still to be acknowledged: by its home, where only that is asked, or by every sharer too; 0 is a commit point that
is due. -/
def State.unacked (s : State) (blk : Nat) (near : Bool) (id : Nat) : Bool :=
  if id = 0 then ((s.block? blk).map Block.commitDue).getD false
  else match s.acks.get? id with
    | some a => !near || !a.acked
    | none => false

end Sys2Proof.Machine
end

