-- ==== Sys2Proof/Machine/Trans.lean ====
section
/-! DEFINITION. Address translation (14 R326 to R331): page tables, walkers, TLBs, last-page registers, carve-outs. -/

namespace Sys2Proof.Machine

/-- What an access asks of a leaf. -/
structure Need where
  r : Bool := false
  w : Bool := false
  x : Bool := false
  deriving DecidableEq, Repr

/-- A translation's outcome: a leaf, or a cause with the ACC value of the fault record (R338). -/
inductive Xl where
  | ok (l : Leaf)
  | fault (cause acc : Nat)
  deriving DecidableEq, Repr

/-- Bytes that a leaf maps, by size code (R326, R331). -/
def leafBytes (size : Nat) : Nat :=
  match size with
  | 0 => 2 ^ 16
  | 1 => 2 ^ 28
  | _ => 2 ^ 40

def Leaf.covers (l : Leaf) (part va : Nat) : Bool :=
  l.part == part && decide (l.page ≤ va) && decide (va < l.page + leafBytes l.size)

def Leaf.allows (l : Leaf) (n : Need) : Bool := (!n.r || l.r) && (!n.w || l.w) && (!n.x || l.x)

/-- Whether a physical address of the device lies in a carve-out of the partition (R343). -/
def State.inCarveOut (s : State) (part pa : Nat) : Bool :=
  (s.part part).carveOuts.any (fun e => decide (e.2.1 ≤ pa) && decide (pa < e.2.1 + e.2.2))

/-- What remains to be checked of a leaf's product: the carve-outs (R343), the space (R327), the route (15 R350;
21 R380). -/
def State.reachable (s : State) (die part : Nat) (domain : Bool) (l : Leaf) (va : Nat) : Bool :=
  if l.hdev = s.devNum then s.inCarveOut part (l.pa va)
  else domain && (s.route.get? (die * 64 + l.hdev)).isSome

/-- What a table entry is at a level (R327). -/
inductive Pte where
  | absent
  | bad
  | table (pa : Nat)
  | leaf
  deriving DecidableEq, Repr

def readPte (level e : Nat) : Pte :=
  if !natBit e 0 then .absent
  else if bitsOf e 55 52 ≠ 0 then .bad
  else if natBit e 1 then
    if natBit e 3 && !natBit e 2 then .bad
    else if level = 2 ∧ bitsOf e 27 16 ≠ 0 then .bad
    else if level = 1 ∧ bitsOf e 39 16 ≠ 0 then .bad
    else .leaf
  else if level = 3 ∨ bitsOf e 15 2 ≠ 0 then .bad
  else .table (bitsOf e 51 16 * 2 ^ 16)

/-- Index of an address at a level (R326). -/
def levelIndex (level va : Nat) : Nat :=
  match level with
  | 1 => bitsOf va 51 40
  | 2 => bitsOf va 39 28
  | _ => bitsOf va 27 16

/-- The entry that a walk ends at: its level, its physical address and its value; an access outside the carve-outs
is a bad entry (R343). -/
def walkFrom (s : State) (part va : Nat) : Nat → Nat → Nat → Except (Nat × Nat) (Nat × Nat × Nat)
  | 0, _, _ => .error (Cause.PAGE, 6)
  | n + 1, level, table =>
    let pa := table + 8 * levelIndex level va
    if !s.inCarveOut part pa then .error (Cause.PAGE, 6)
    else
      let e := s.rdNat (memKey s.devNum pa) 8
      match readPte level e with
      | .absent => .error (Cause.PAGE, 0)
      | .bad => .error (Cause.PAGE, 6)
      | .table t => walkFrom s part va n (level + 1) t
      | .leaf => .ok (level, pa, e)

/-- The leaf of an entry as a TLB holds it. -/
def leafOf (part level va e : Nat) (dirty : Bool) : Leaf :=
  let size := 3 - level
  let n := leafBytes size
  { part := part, size := size, page := va / n * n, base := bitsOf e 51 16 * 2 ^ 16,
    r := natBit e 2, w := natBit e 3, x := natBit e 4, t := natBit e 5, d := dirty || natBit e 7,
    hdie := bitsOf e 9 8, hdev := bitsOf e 15 10 }

/-- The home of a line of a page table: the slice that holds it as its own, else that of the walker's die: the walker reaches it by its
physical address, and no page-table entry names a home (notes/assumptions/89). -/
def State.tableHome (s : State) (die key : Nat) : Home :=
  let line := lineOf key
  match s.dies.find? (fun d => (d.2.llc.get? line).any LlcLine.home) with
  | some d => { line := line, hdie := d.1, hdev := s.devNum, tracked := ((d.2.llc.get? line).map LlcLine.tracked).getD false }
  | none => { line := line, hdie := die, hdev := s.devNum, tracked := false }

/-- The walker's CAS of an entry at its home point (R330): a write as any other there, where it changes the entry. -/
def State.setEntry (s : State) (die pa old new : Nat) : State :=
  let k := memKey s.devNum pa
  if old = new then s
  else
    let h := s.tableHome die k
    let m := maskAt (k % Config.lineBytes) 8
    let (_, _, s) := s.stampWrite noCore 0 s.topTime h m [] false
    (s.homeWrite h m (dataAt (k % Config.lineBytes) (leBytes 8 new))).clearResv h.line true (fun _ _ _ => false)

/-- A page walk: finds the leaf and sets A, and D for a write, in its entry (R329, R330). -/
def State.walk (s : State) (die part va : Nat) (need : Need) (acc : Nat) : Xl × State :=
  match (s.die die).troot.get? part with
  | none => (.fault Cause.PAGE acc, s)
  | some root =>
    match walkFrom s part va 3 1 root with
    | .error (c, a) => (.fault c (if a = 6 then 6 else acc), s)
    | .ok (level, pa, e) =>
      let l := leafOf part level va e need.w
      if !l.allows need then (.fault Cause.PROT acc, s)
      else
        let e1 := if natBit e 6 then e else e + 2 ^ 6
        let e2 := if need.w && !natBit e1 7 then e1 + 2 ^ 7 else e1
        (.ok l, s.setEntry die pa e e2)

/-- Put a leaf in a TLB in place of older ones of the page; a full TLB loses an entry of the implementation's
choice (notes/assumptions/10). -/
def tlbFill (cap pick : Nat) (tlb : List Leaf) (l : Leaf) : List Leaf :=
  let rest := tlb.filter (fun x => !(x.part == l.part && x.page == l.page && x.size == l.size))
  let kept := if cap ≤ rest.length then rest.eraseIdx (pick % cap) else rest
  l :: kept

def tlbFind (tlb : List Leaf) (part va : Nat) (need : Need) : Option Leaf :=
  tlb.find? (fun l => l.covers part va && (!need.w || l.d))

/-- Look up the die's last-level TLB, else walk and refill it. -/
def State.lookupDie (s : State) (die part va : Nat) (need : Need) (acc : Nat) : Xl × State :=
  match tlbFind (s.die die).tlb part va need with
  | some l => (if l.allows need then .ok l else .fault Cause.PROT acc, s)
  | none =>
    match s.walk die part va need acc with
    | (.ok l, s) =>
      if Config.dieTlbEntries ≤ (s.die die).tlb.length then
        let (n, s) := s.draw
        (.ok l, s.modDie die (fun d => { d with tlb := tlbFill Config.dieTlbEntries n d.tlb l }))
      else (.ok l, s.modDie die (fun d => { d with tlb := tlbFill Config.dieTlbEntries 0 d.tlb l }))
    | (.fault c a, s) => (.fault c a, s)

/-- Look up a core's TLB. -/
def State.coreHit (s : State) (core part va : Nat) (need : Need) : Option Leaf :=
  tlbFind (s.core core).tlb part va need

def State.fillCore (s : State) (core : Nat) (l : Leaf) : State :=
  if Config.coreTlbEntries ≤ (s.core core).tlb.length then
    let (n, s) := s.draw
    s.modCore core (fun c => { c with tlb := tlbFill Config.coreTlbEntries n c.tlb l })
  else s.modCore core (fun c => { c with tlb := tlbFill Config.coreTlbEntries 0 c.tlb l })

/-- Translate for a core: its TLB, then the die's, then a walk; every level that missed is refilled (R328). -/
def State.translate (s : State) (core part va : Nat) (need : Need) (acc : Nat) (domain : Bool) : Xl × State :=
  let die := dieOf core
  match s.coreHit core part va need with
  | some l =>
    (if !l.allows need || !s.reachable die part domain l va then .fault Cause.PROT acc else .ok l, s)
  | none =>
    match s.lookupDie die part va need acc with
    | (.ok l, s) =>
      if s.reachable die part domain l va then (.ok l, s.fillCore core l) else (.fault Cause.PROT acc, s)
    | (.fault c a, s) => (.fault c a, s)

/-- Translate for an engine of a die (R328). -/
def State.translateEngine (s : State) (die part va : Nat) (need : Need) (acc : Nat) (domain : Bool) : Xl × State :=
  match s.lookupDie die part va need acc with
  | (.ok l, s) =>
    if s.reachable die part domain l va then (.ok l, s) else (.fault Cause.PROT acc, s)
  | r => r

/-- A lane's last-page register serves the access (R328 step 1). -/
def Lane.pageHit (l : Lane) (part va : Nat) (need : Need) : Option Leaf :=
  match l.lastPage with
  | some p => if p.covers part va && p.allows need && (!need.w || p.d) then some p else none
  | none => none

/-- An invalidation command's range covers a leaf (R331). -/
def invalCovers (cmd : BitVec 128) (l : Leaf) : Bool :=
  let part := field cmd 0 5
  let size := field cmd 5 2
  let va := field cmd 16 36 * 2 ^ 16
  let count := field cmd 64 32
  l.part == part &&
    (natBit cmd.toNat 7 ||
      (decide (va < l.page + leafBytes l.size) && decide (l.page < va + count * leafBytes size)))

/-- Drop every translation of a die that a test picks: last-level TLB, core TLBs, last-page registers. -/
def State.dropLeaves (s : State) (die : Nat) (p : Leaf → Bool) : State :=
  let s := s.modDie die (fun d => { d with tlb := d.tlb.filter (fun l => !p l) })
  let clear (w : Warp) : Warp := { w with lanes := w.lanes.map (fun l => match l.lastPage with
    | some x => if p x then { l with lastPage := none } else l
    | none => l) }
  { s with
    cores := s.cores.map (fun e => if dieOf e.1 = die then (e.1, { e.2 with tlb := e.2.tlb.filter (fun l => !p l) }) else e)
    blocks := s.blocks.mapVals (fun b =>
      if dieOf b.core = die then
        { b with ctx := { b.ctx with
            warps := b.ctx.warps.map clear, trailing := b.ctx.trailing.map clear, front := clear b.ctx.front } }
      else b) }

end Sys2Proof.Machine
end

