-- ==== Sys2Proof/Machine/Operands.lean ====
section
/-! DEFINITION. Operands of an issued word: hint words, register operands and latches, shape records and the
addresses they form (02 R53; 04 R83 to R99; 07 R156 to R161). -/

namespace Sys2Proof.Machine

/-! ## Hint words (04 R96 to R100) -/

/-- The hint words before an instruction. -/
structure Hints where
  himm : Option Nat := none
  hmod : Option Nat := none
  hcoord : Option Nat := none
  stall : Option Nat := none
  /-- a repeated KIND, a reserved KIND or a reserved payload bit -/
  bad : Bool := false
  deriving DecidableEq, Repr

/-- Take one hint word in. -/
def Hints.add (h : Hints) (w : Word) : Hints :=
  let k := field w 22 4
  let p := field w 0 22
  match k with
  | 0 => { h with himm := some p, bad := h.bad || h.himm.isSome }
  | 1 => { h with stall := some p, bad := h.bad || h.stall.isSome }
  | 2 => { h with hmod := some p, bad := h.bad || h.hmod.isSome || decide (2 ^ 7 ≤ p) }
  | 3 => { h with hcoord := some p, bad := h.bad || h.hcoord.isSome || decide (2 ^ 20 ≤ p) }
  | _ => { h with bad := true }

def Hints.ofWords (l : List Word) : Hints := l.foldl Hints.add {}

/-- A hint word other than HIMM or HMOD (04 R93 rule 4). -/
def Hints.other (h : Hints) : Bool := h.stall.isSome || h.hcoord.isSome

/-- The rounding mode and saturation that HMOD asks for (04 R98). -/
def Hints.mods (h : Hints) : Mods :=
  match h.hmod with
  | some p => { rm := if natBit p 2 then Rm.ofCode (p % 4) else .rn, sat := natBit p 3 }
  | none => {}

def Hints.cap (h : Hints) : Bool := match h.hmod with
  | some p => natBit p 4
  | none => false

def Hints.pol (h : Hints) : Nat := match h.hmod with
  | some p => bitsOf p 6 5
  | none => 0

/-- The signed offsets of HCOORD (04 R99). -/
def Hints.offs (h : Hints) : List Int := match h.hcoord with
  | some p => (List.range 4).map (fun k => sextNat (bitsOf p (5 * k + 4) (5 * k)) 5)
  | none => []

/-- A 32-bit immediate of `n` encoded bits: sign-extended, or its low 10 bits under HIMM (04 R83). -/
def Hints.imm (h : Hints) {n : Nat} (i : BitVec n) : Word :=
  match h.himm with
  | some p => BitVec.ofNat 32 (p * 2 ^ 10 + i.toNat % 2 ^ 10)
  | none => i.signExtend 32

/-! ## The word being issued -/

/-- An issued word: who issues it, with which lanes, where, and what the unit held when it issued (02 R27, 04 R86).
Every operand is read from `w`, the unit before any write of the word (02 R28). -/
structure Iss where
  blk : Nat
  u : UnitRef
  b : Block
  r : Region
  w : Warp
  path : Word
  act : Word
  pc : Nat
  headPc : Nat
  h : Hints

def Iss.core (i : Iss) : Nat := i.b.core
def Iss.die (i : Iss) : Nat := dieOf i.b.core
def Iss.front (i : Iss) : Bool := i.u == .front
def Iss.trailing (i : Iss) : Bool := match i.u with
  | .trail _ => true
  | _ => false

/-- The lowest active lane. -/
def Iss.lead (i : Iss) : Nat := lowest i.act

/-- A scalar register of the issuing unit. -/
def Iss.s (i : Iss) (n : BitVec 5) : Word := i.w.sRead i.act n.toNat

/-- A source operand of a lane by its code, and its taint (04 R89; 06 R135). -/
def Iss.op (i : Iss) (l : Nat) (code : BitVec 6) : Word × Bool :=
  let c := code.toNat
  let lane := i.w.lane l
  if c < 56 then (lane.reg c, lane.tainted c)
  else if c = 56 then (0, false)
  else if c = 57 then (BitVec.ofNat 32 l, false)
  else match lane.latches[c - 60]? with
    | some x => (x.val.getD 0, x.taint)
    | none => (0, false)

/-- The third source: the old value of D, 0 where D is ZERO (04 R90; 06 R134). -/
def Iss.third (i : Iss) (l : Nat) (d : BitVec 6) : Word × Bool :=
  if d = 56 then (0, false) else ((i.w.lane l).reg d.toNat, (i.w.lane l).tainted d.toNat)

/-- The value of the newest latch entry of a lane. -/
def Lane.setLatch (l : Lane) (x : Word) (taint : Bool) : Lane :=
  match l.latches with
  | e :: rest => { l with latches := { e with val := some x, taint := taint } :: rest }
  | [] => l

/-- Write results of the active lanes: the latch, and register D unless NW sends it to the latches alone. -/
def State.results (s : State) (i : Iss) (d : BitVec 6) (nw : Bool) (f : Nat → Word × Bool) : State :=
  s.modUnit i.blk i.u (fun w => w.modLanes i.act (fun l x =>
    let (v, t) := f l
    let x := x.setLatch v t
    if nw then x else x.setReg d.toNat v t))

/-- OR flags into the warp's %fflags under CAP (02 R41; 03 R71). -/
def State.raiseFlags (s : State) (i : Iss) (f : Flags) : State :=
  if i.h.cap then s.modUnit i.blk i.u (fun w => { w with fflags := w.fflags ||| f }) else s

/-- Write a scalar register of the issuing unit. -/
def State.putS (s : State) (i : Iss) (n : BitVec 5) (x : Word) : State :=
  s.modUnit i.blk i.u (fun w => w.sWrite i.act n.toNat x)

/-- A precise fault of lanes of the word: the resume PC is the word, or its first hint word (04 R88; 14 R333). -/
def Iss.fault (i : Iss) (cause : Nat) : Park :=
  { cause := cause, pc := i.headPc, resume := i.headPc, view := 0, coord := 0, stamp := 0 }

/-- %trapview of a fault that names a view (07 R157, R159). -/
def viewWord (view k : Nat) : Word := BitVec.ofNat 32 (2 ^ 31 + k * 2 ^ 8 + view)

/-- Every active lane takes one precise fault. -/
def State.faultAct (s : State) (i : Iss) (cause : Nat) (view coord : Word := 0) : State :=
  s.takeFault i.blk i.u i.act (fun _ => { i.fault cause with view := view, coord := coord })

/-- Faults of single lanes: those of one cause, and of one page where the fault is forwarded with an address, make one
fault (14 R337, R338). -/
def State.takeFaults (s : State) (blk : Nat) (u : UnitRef) : Nat → List (Nat × Park) → State
  | 0, _ => s
  | _, [] => s
  | n + 1, (l, p) :: rest =>
    let same := fun (e : Nat × Park) => e.2.cause == p.cause && (!forwardOnly p.cause || e.2.va / 2 ^ 16 == p.va / 2 ^ 16)
    let group := (l, p) :: rest.filter same
    (s.takeFault blk u (maskOf (group.map Prod.fst)) (fun i => (Table.get? group i).getD p)).takeFaults blk u n
      (rest.filter (fun e => !same e))

/-! ## Shape records (07 R156, R157) -/

abbrev Record := BitVec 512

def recBase (r : Record) : Nat := field r 0 52
def recSpace (r : Record) : Nat := field r 52 4
def recType (r : Record) : Nat := field r 56 4
def recRank (r : Record) : Nat := field r 60 2 + 1
def recClip (r : Record) : Nat := field r 62 2
def recExt (r : Record) (k : Nat) : Nat := field r (64 + 32 * k) 32
def recStr (r : Record) (k : Nat) : Int := fieldS r (192 + 64 * k) 64
def recPerm (r : Record) : Nat := field r 448 2
def recMode (r : Record) : Nat := field r 450 1

/-- Element size by type code (03 R61). -/
def typeSize (t : Nat) : Nat :=
  match t with
  | 0 => 1
  | 1 => 1
  | 2 => 2
  | 3 => 2
  | 4 => 4
  | 5 => 4
  | 6 => 4
  | 7 => 2
  | 8 => 2
  | 9 => 1
  | 10 => 1
  | 11 => 1
  | 12 => 8
  | _ => 16

def recEs (r : Record) : Nat := typeSize (recType r)

/-- The record itself is usable (R157), whatever uses it. -/
def recordOk (r : Record) : Bool :=
  field r 451 29 == 0 && field r 496 16 == 0 &&
  decide (recSpace r < 4) && decide (recClip r < 3) && decide (recPerm r < 2) &&
  decide (recType r < 14) && !(recType r == 11 && recSpace r != 0 && recSpace r != 2) &&
  (List.range (recRank r)).all (fun k => decide (recExt r k < 2 ^ 31)) &&
  (recPerm r == 0 ||
    (recRank r == 2 && recExt r 0 == 32 && recExt r 1 == 32 && recEs r == 4 && recSpace r == 1
      && recBase r % 4096 == 0))

/-- The width condition of R160. -/
def widthOk (r : Record) (w : Nat) : Bool :=
  decide (w ≤ recEs r) ||
    (w % recEs r == 0 && (recSpace r == 1 || recStr r 0 == (recEs r : Int)))

/-- What forming an address finds: the element addresses, none where clip mode 1 skips, or the failing coordinate
number and its value. -/
inductive Formed where
  | ok (elems : List (Option Int))
  | bounds (k : Nat) (v : Int)
  deriving DecidableEq, Repr

/-- Bring one element's coordinates into range, or skip it, or fail (R159). -/
def clipAll (r : Record) : Nat → List Int → List Int → Except (Nat × Int) (Option (List Int))
  | _, [], acc => .ok (some acc.reverse)
  | k, e :: l, acc =>
    if e < 0 ∨ (recExt r k : Int) ≤ e then
      match recClip r with
      | 0 => .error (k, e)
      | 1 => .ok none
      | _ => clipAll r (k + 1) l ((max 0 (min e ((recExt r k : Int) - 1))) :: acc)
    else clipAll r (k + 1) l (e :: acc)

/-- Address of an element in range (R159): exact, signed. -/
def elemAddr (r : Record) (e : List Int) : Int :=
  if recPerm r = 1 then
    let c := e.getD 0 0
    let row := e.getD 1 0
    (recBase r : Int) + 4 * (32 * row + (row + c) % 32)
  else (mapFrom 0 (fun k x => x * recStr r k) e).foldl (· + ·) (recBase r : Int)

/-- The coordinates of covered element `i` along a direction. -/
def stepAlong (dir i : Nat) (c : List Int) : List Int :=
  mapFrom 0 (fun k x => if k = dir then x + (i : Int) else x) c

def formElems (r : Record) (c : List Int) (dir : Nat) : Nat → Nat → Except (Nat × Int) (List (Option Int))
  | 0, _ => .ok []
  | n + 1, i =>
    match clipAll r 0 (stepAlong dir i c) [] with
    | .error e => .error e
    | .ok x =>
      match formElems r c dir n (i + 1) with
      | .error e => .error e
      | .ok l => .ok (x.map (elemAddr r) :: l)

/-- ViewAddr (R159): effective coordinates, access width and direction to element addresses. -/
def viewAddr (r : Record) (c : List Int) (w dir : Nat) : Formed :=
  match (List.range (recRank r)).find? (fun k => recExt r k == 0) with
  | some k => .bounds k (c.getD k 0)
  | none =>
    match formElems r c dir (max 1 (w / recEs r)) 0 with
    | .ok l => .ok l
    | .error (k, v) => .bounds k v

/-- Effective coordinates of a lane: registers from C on plus HCOORD offsets, as 32-bit values (04 R99). -/
def coordsOf (regs : Nat → Word) (c rank : Nat) (offs : List Int) : List Word :=
  (List.range rank).map (fun k => regs (c + k) + BitVec.ofInt 32 (offs.getD k 0))

/-! ## The record cache (02 R53; 07 R163) -/

def recordKey (regid view : Nat) : Nat := regid * 128 + view

/-- What fetching a record finds. -/
inductive Fetched where
  | ok (r : Record)
  | fault (cause acc va : Nat)
  | poison
  deriving DecidableEq, Repr

/-- The record of a view as the core holds it, fetched from its home point where absent; a full cache replaces an
entry of the implementation's choice. -/
def State.record (s : State) (core regid : Nat) (r : Region) (view : Nat) : Fetched × State :=
  match (s.core core).records.get? (recordKey regid view) with
  | some x => (.ok x, s)
  | none =>
    let va := r.viewTab + 64 * view
    match s.translate core r.part va { r := true } 0 false with
    | (.fault c a, s) => (.fault c a va, s)
    | (.ok l, s) =>
      if s.isPoisoned (dieOf core) (l.home va) then (.poison, s.demandAt (l.home va))
      else
        let x : Record := BitVec.ofNat 512 (s.rdNat (l.key va) 64)
        let recs := (s.core core).records
        if recs.length < Config.recordEntries then
          (.ok x, s.modCore core (fun c => { c with records := c.records.put (recordKey regid view) x }))
        else
          let (n, s) := s.draw
          (.ok x, s.modCore core (fun c =>
            { c with records := Table.put (c.records.eraseIdx (n % Config.recordEntries)) (recordKey regid view) x }))

/-- Drop the record-cache entries of a core that a test picks. -/
def State.dropRecords (s : State) (core : Nat) (p : Nat → Bool) : State :=
  s.modCore core (fun c => { c with records := c.records.filter (fun e => !p e.1) })

end Sys2Proof.Machine
end

