-- ==== Sys2Proof/Machine/Paths.lean ====
section
/-! DEFINITION. What holds lanes back and releases them: rejoin sets, loop levels, exits, block barriers
(05 R113, R119 to R132). -/

namespace Sys2Proof.Machine

/-! ## Rejoin sets (05 R119) -/

/-- ReleaseCheck(n). -/
def Warp.releaseCheck (w : Warp) (n : Nat) : Warp :=
  let m := w.mOf n
  if m ≠ 0 ∧ w.aOf n = m then
    (w.modLanes m (fun _ l => { l with wait := .none, pc := nextPc l.pc })).putSet n m 0
  else w

def Warp.releaseAll (w : Warp) : Warp := (List.range 16).foldl Warp.releaseCheck w

/-- The lanes whose wait mark is set on jn. -/
def Warp.waitingOn (w : Warp) (n : Nat) : Word := w.lanesWhere (fun l => l.wait == .set n)

/-! ## Loops (05 R123 to R128) -/

def Warp.level (w : Warp) (k : Nat) : Loop := if k = 0 then w.lc0 else w.lc1
def Warp.setLevel (w : Warp) (k : Nat) (x : Loop) : Warp := if k = 0 then { w with lc0 := x } else { w with lc1 := x }

/-- Lanes of `m` take the loop-end mark of level `k`, with their PC past the end word. -/
def Warp.arrive (w : Warp) (k : Nat) (m : Word) (pc : Nat) : Warp :=
  w.modLanes m (fun _ l => if l.status == .running then { l with wait := .loopEnd k, pc := nextPc pc } else l)

/-- EndArrival: lanes count as having completed the end word for every other active level that ends there. -/
def Warp.endArrival (w : Warp) (lanes : Word) (pc skip : Nat) : Warp :=
  [1, 0].foldl (fun w k =>
    let x := w.level k
    if k ≠ skip ∧ x.active ∧ x.endPc = pc then w.arrive k (lanes &&& x.entry) pc else w) w

/-- Whether every lane of a level's entry mask waits at its end. -/
def Warp.allAtEnd (w : Warp) (k : Nat) : Bool :=
  let x := w.level k
  (lanesOf x.entry).all (fun i => (w.lane i).wait == .loopEnd k)

/-- One level of LoopCheck. -/
def Warp.stepLevel (w : Warp) (k : Nat) : Warp :=
  let x := w.level k
  if x.active ∧ x.entry = 0 then w.setLevel k { x with active := false }
  else if x.active ∧ w.allAtEnd k then
    if x.remaining ≠ 1 then
      (w.setLevel k { x with remaining := x.remaining - 1 }).modLanes x.entry (fun _ l =>
        { l with wait := .none, pc := x.body,
                 latches := match l.latches with
                   | e :: r => { e with back := true } :: r
                   | [] => [] })
    else
      let w := w.setLevel k { x with active := false, remaining := 0 }
      let w := w.modLanes x.entry (fun _ l => { l with wait := .none })
      w.endArrival x.entry x.endPc k
  else w

/-- LoopCheck. -/
def Warp.loopCheck (w : Warp) : Warp := (w.stepLevel 1).stepLevel 0

/-- Whether a PC lies inside the body of a level. -/
def Loop.inside (x : Loop) (pc : Nat) : Bool := x.active && decide (x.body ≤ pc) && decide (pc ≤ x.endPc)

/-- Lanes leave a level (05 R126). -/
def Warp.leave (w : Warp) (k : Nat) (m : Word) : Warp :=
  let x := w.level k
  if x.active then w.setLevel k { x with entry := x.entry &&& ~~~m } else w

/-- A lane completes the word at `pc`: it arrives at the loop levels that end there (05 R125). -/
def Warp.completeAt (w : Warp) (m : Word) (pc : Nat) : Warp :=
  let w1 := if w.lc1.active ∧ w.lc1.endPc = pc then w.arrive 1 (m &&& w.lc1.entry) pc else w
  let rest := if w.lc1.active ∧ w.lc1.endPc = pc then m &&& ~~~w.lc1.entry else m
  let w2 := if w.lc0.active ∧ w.lc0.endPc = pc then w1.arrive 0 (rest &&& w.lc0.entry) pc else w1
  w2.loopCheck

/-! ## Exits (05 R113) -/

/-- Lanes exit: they leave every set and loop level, and their reservations go. -/
def Warp.exitLanes (w : Warp) (m : Word) : Warp :=
  let w := { w with
    setM := w.setM.mapVals (fun x => x &&& ~~~m)
    setA := w.setA.mapVals (fun x => x &&& ~~~m) }
  let w := (w.leave 0 m).leave 1 m
  let w := w.modLanes m (fun _ l => { l with status := .exited, wait := .none, resv := none, park := none, held := none })
  w.releaseAll.loopCheck

def Warp.gone (w : Warp) : Bool := w.lanes.all (fun l => l.status == .exited)

/-- A unit has left its slot: every lane has exited, and every access has completed (05 R113). -/
def Warp.left (w : Warp) : Bool := w.gone && w.log.isEmpty

/-- Every leading warp and the front thread have left. -/
def Block.over (b : Block) : Bool := b.ctx.warps.all Warp.left && b.ctx.front.left

/-- A block all of whose threads have left may complete. -/
def State.askCompletion (s : State) (blk : Nat) : State :=
  match s.block? blk with
  | some b => if b.over then s.push (.blockCompletion blk) else s
  | none => s

/-- Leading warps of a block that have not left. -/
def Block.liveWarps (b : Block) : Nat := (b.ctx.warps.filter (fun w => !w.left)).length

/-! ## Barriers (05 R130, R131) -/

def Block.bar (b : Block) (k : Nat) : Barrier := b.ctx.bars.getD {} k

def Block.setBar (b : Block) (k : Nat) (x : Barrier) : Block :=
  { b with ctx := { b.ctx with bars := b.ctx.bars.putD {} k x } }

/-- Effective X: the count set, or the leading warps that have not exited. -/
def Block.effective (b : Block) (k : Nat) : Nat :=
  let x := b.bar k
  if x.expected = 0 then b.liveWarps else x.expected

/-- Lanes that stood on a word, or waited past it, have completed it: they go on, and arrive at loop ends there. -/
def Warp.goPast (w : Warp) (m : Word) : Warp :=
  (lanesOf m).foldl (fun (w : Warp) l => w.completeAt (laneBit l) (prevPc (w.lane l).pc)) w

/-- Release the lanes of a unit that wait at barrier `k`, past their barrier word, where they await the phase's release: the
writes `ids` (10 R248). -/
def Warp.passBarrier (k : Nat) (ids : List Nat) (w : Warp) : Warp :=
  let m := w.lanesWhere (fun l => l.wait == .barrier k)
  w.modLanes m (fun _ l => { l with wait := .fence ids none true none, pc := nextPc l.pc })

/-- A lane's wait for acknowledgements is over; `open'` is `State.unacked` of its block. -/
def Lane.fenceOver (open' : Bool → Nat → Bool) (l : Lane) : Bool := match l.wait with
  | .fence ids _ near _ => ids.all (fun i => !open' near i)
  | _ => false

/-- Release the lanes of a unit whose acknowledgements have all arrived (11 R256). -/
def Warp.passFence (open' : Bool → Nat → Bool) (w : Warp) : Warp :=
  let m := w.lanesWhere (Lane.fenceOver open')
  (w.modLanes m (fun _ l => { l with wait := .none })).goPast m

/-- Scopes of the SC fences of a unit that no longer await an acknowledgement. -/
def Warp.scDone (open' : Bool → Nat → Bool) (w : Warp) : List Nat :=
  w.lanes.filterMap (fun l => match l.wait with
    | .fence _ (some sc) _ _ => if l.fenceOver open' then some sc else none
    | _ => none)

/-- Records that VIEWFs of a unit drop, whose fences no longer await an acknowledgement (07 R163). -/
def Warp.dropsDone (open' : Bool → Nat → Bool) (w : Warp) : List (Option Nat) :=
  w.lanes.filterMap (fun l => match l.wait with
    | .fence _ _ _ (some v) => if l.fenceOver open' then some v else none
    | _ => none)

/-- VIEWF (07 R163): a core forgets the record of a view of a region, or with none those of all its views. -/
def State.forgetViews (s : State) (core regid : Nat) (v : Option Nat) : State :=
  s.dropRecords core (fun k => match v with
    | some n => k == recordKey regid n
    | none => k / 128 == regid)

/-- Release the fences of a block that await nothing more; an SC fence's agent then sees every earlier write (11 R258). -/
def State.passFences (s : State) (blk : Nat) : State :=
  match s.block? blk with
  | none => s
  | some b =>
    let open' := s.unacked blk
    let scopes := (b.ctx.front :: b.ctx.warps).flatMap (Warp.scDone open')
    let s := scopes.foldl (fun (s : State) sc => s.scRaise b.core sc) s
    let s := ((b.ctx.front :: b.ctx.warps).flatMap (Warp.dropsDone open')).foldl (fun (s : State) v => s.forgetViews b.core b.regid v) s
    s.modBlock blk (fun b =>
      let c := b.ctx
      { b with ctx := { c with warps := c.warps.map (Warp.passFence open'), front := Warp.passFence open' c.front } })

/-- The same for every block: a release awaits the writes that its block has read, too (10 R245). -/
def State.passAllFences (s : State) : State := s.blocks.foldl (fun (s : State) e => s.passFences e.1) s

/-- Lanes of leading warps that a barrier releases have passed its word (05 R132). -/
def State.leavePassed (s : State) (blk k : Nat) : State :=
  match s.block? blk with
  | none => s
  | some b => (mapFrom 0 (fun n (w : Warp) => (n, w.lanesWhere (fun l => l.wait == .barrier k))) b.ctx.warps).foldl
      (fun (s : State) e => if e.2 = 0 then s else s.leave blk (.warp e.1) (.word e.2 false)) s

/-- The phase of a barrier completes: the counts clear, the phase flips; it is a commit point and a release at DIE scope (10
R246, R248), and the waiting lanes go on once the homes have acknowledged its writes (11 R256). -/
def State.completePhase (s : State) (blk k : Nat) : State :=
  let s := (s.leavePassed blk k).commit blk
  let s := match s.block? blk with
    | some b => s.shareC blk (scopeCores b.core 2)
    | none => s
  let ids := s.awaited blk
  let s := s.modBlock blk (fun b =>
    let x := b.bar k
    let y : Barrier := { expected := x.nextExpected.getD x.expected, phase := !x.phase }
    let b := b.setBar k y
    let ctx := b.ctx
    { b with ctx := { ctx with warps := ctx.warps.map (Warp.passBarrier k ids), front := Warp.passBarrier k ids ctx.front } })
  s.passFences blk

/-- The arrivals of a phase suffice; `left` where a leading warp has just left: under the default count the last one completes the
phase without an arrival (R131). -/
def Block.phaseOver (b : Block) (k : Nat) (left : Bool) : Bool :=
  decide (b.effective k ≤ (b.bar k).arrived) && ((b.bar k).arrived != 0 || (left && (b.bar k).expected == 0))

/-- Complete a phase whose arrivals suffice. -/
def State.barrierCheck (s : State) (blk k : Nat) (left : Bool) : State :=
  if (s.block? blk).any (fun b => b.phaseOver k left) then s.completePhase blk k else s

def State.barrierChecks (s : State) (blk : Nat) (left : Bool) : State :=
  (List.range 16).foldl (fun s k => s.barrierCheck blk k left) s

/-- A unit that has left: its bit leaves the decision queue (02 R46) and the default count of every barrier,
and the block may complete. -/
def State.unitGone (s : State) (blk : Nat) (u : UnitRef) : State :=
  match s.unit? blk u with
  | none => s
  | some w =>
    if !w.left then s
    else
      let s := match u with
        | .warp n => s.modBlock blk (fun (b : Block) =>
            let dq := b.ctx.dq.map (fun (e : DqEntry) => { e with mask := e.mask &&& ~~~(BitVec.ofNat 16 (2 ^ n)) })
            { b with ctx := { b.ctx with dq := dq.filter (fun (e : DqEntry) => e.mask != 0) } })
        | _ => s
      let s := match u with
        | .warp _ => s.barrierChecks blk true
        | _ => s
      s.push (.blockCompletion blk)

/-- An access that no lane holds any longer. -/
def Access.over (a : Access) : Bool := a.lanes.isEmpty

/-- What is left of a logged access once lanes that exit in a handler give up their faulted parts: nothing re-issues
them (14 R334). -/
def Access.without (m : Word) (a : Access) : Access :=
  { a with lanes := a.lanes.filter (fun x => !(inMask m x.lane && x.phase == .faulted)) }

/-- Faulted accesses of exiting lanes leave the log, and what awaits their values goes on. -/
def Ctx.forgetFaults (c : Ctx) (n : Nat) (m : Word) : Ctx :=
  let ended := fun (k : Nat) => (c.warps[n]?).any (fun w => (w.log.get? k).any (fun a => (a.without m).over))
  { c with
    warps := listMod c.warps n (fun w => { w with log := (Table.mapVals w.log (Access.without m)).filter (fun e => !e.2.over) })
    pairs := listMod c.pairs n (fun p => { p with lvq := p.lvq.map (fun (e : LvqEntry) =>
      match e.awaits with
      | some k => if ended k then { e with awaits := none } else e
      | none => e) }) }

def State.forgetFaults (s : State) (blk : Nat) (u : UnitRef) (m : Word) : State :=
  match u with
  | .warp n => s.modBlock blk (fun b => { b with ctx := b.ctx.forgetFaults n m })
  | _ => s

/-- Lanes of a unit exit with statuses that enter the block's maximum (05 R114). -/
def State.exitLanes (s : State) (blk : Nat) (u : UnitRef) (m : Word) (status : Nat → BitVec 8) : State :=
  let top := (lanesOf m).foldl (fun (x : BitVec 8) l => if x.toNat < (status l).toNat then status l else x) 0
  let s := s.modBlock blk (fun b => { b with status := if b.status.toNat < top.toNat then top else b.status })
  ((s.forgetFaults blk u m).modUnit blk u (fun w => w.exitLanes m)).unitGone blk u

/-- Orphan detection's condition (05 R122), of a leading warp whose lanes have no pending group, token or frame. -/
def Warp.orphaned (w : Warp) : Bool :=
  w.lanes.all (fun l => l.status == .exited ||
    (l.status == .running && (match l.wait with
      | .set _ => true
      | .loopEnd _ => true
      | _ => false)))
  && w.lanes.any (fun l => l.status == .running && (match l.wait with
      | .set _ => true
      | _ => false))
  && w.pend.isEmpty && !w.log.any (fun e => e.2.op == .sink)

/-- THE RETURN FROM A FAULT (14 R334; 09 R227): lanes of `mask` that keep a parking record resume at their resume
PCs; a logged faulting access is issued again, before the lane issues a word; a TRAP or BRK that was a loop end has then completed
(05 R125). -/
def State.resumeLanes (s : State) (b : Nat) (u : UnitRef) (mask : Word) : State :=
  match s.unit? b u with
  | none => s
  | some w =>
    let back := maskOf ((lanesOf mask).filter (fun i => (w.lane i).park.isSome))
    let past := maskOf ((lanesOf back).filter (fun i => match (w.lane i).park with
      | some p => p.past || p.cause == Cause.TRAP || p.cause == Cause.BRK
      | none => false))
    let again := fun (key : Nat) (x : LaneAcc) => inMask back x.lane && x.phase == .faulted &&
      (match (w.lane x.lane).held with
        | some q => decide (q.stamp < key)
        | none => true)
    let entries := (w.log.filter (fun e => e.2.lanes.any (again e.1))).map Prod.fst
    let s := (lanesOf (back &&& ~~~past)).foldl (fun (s : State) i =>
      s.leaveMove b u (laneBit i) (((w.lane i).park.map Park.resume).getD 0)) s
    let s := s.modUnit b u (fun w =>
      let w := w.modLanes back (fun _ l => match l.park with
        | some p => { l with status := .running, wait := .none, pc := p.resume, park := l.held, held := none, latches := [] }
        | none => l)
      { (w.goPast past) with log := w.log.map (fun (e : Nat × Access) =>
          (e.1, { e.2 with lanes := e.2.lanes.map (fun x =>
              if again e.1 x then { x with phase := .again, elems := [], leaf := none } else x) })) })
    entries.foldl (fun s e => s.push (.pageWalkDone e 0)) s

/-! ## What a trailing warp follows (12 R288 to R292) -/

/-- A trailing warp follows an event of its leading warp (12 R288, R292): lanes stand at a PC, wait for nothing and have
arrived in no set; a NEXT's lanes leave the loop bodies that it leads out of (05 R126); a handler is entered with a zeroed bank, or has
ended. -/
def Warp.follow (w : Warp) : Issued → Warp
  | .word _ _ => w
  | .move m pc =>
    let w := if w.unitLanes &&& m = 0 then w else w.standBack
    { (w.modLanes m (fun _ l => { l with status := .running, wait := .none, pc := pc, latches := [] })) with
      setA := w.setA.mapVals (fun a => a &&& ~~~m) }
  | .jump m src pc =>
    let w := w.modLanes m (fun _ l => { l with pc := pc })
    let out := fun (k : Nat) => (w.level k).inside src && !(w.level k).inside pc
    (([1, 0].filter out).foldl (fun (w : Warp) k => w.leave k m) w).loopCheck
  | .handler h => { w.endHandler with handler := h, pend := w.pend.filter (fun e => decide (e.1 < 32)) }

/-- The events at the head of a pair's stream happen in its trailing warp: they take no slot. -/
def Pair.catchUp : List Issued → Warp → List Issued × Warp
  | [], w => ([], w)
  | .word m c :: l, w => (.word m c :: l, w)
  | x :: l, w => Pair.catchUp l (w.follow x)

def Ctx.catchUp (c : Ctx) : Ctx :=
  { c with
    trailing := mapFrom 0 (fun n w => (Pair.catchUp ((c.pairs[n]?).getD {}).stream w).2) c.trailing
    pairs := mapFrom 0 (fun n (p : Pair) => { p with stream := (Pair.catchUp p.stream ((c.trailing[n]?).getD {})).1 }) c.pairs }

end Sys2Proof.Machine
end

