-- ==== Sys2Proof/Machine/Fetch.lean ====
section
/-! DEFINITION. Fetching words of code (02 R31; 14 R333, R345, R347, R384) and looking ahead of an issue (04 R94). -/

namespace Sys2Proof.Machine

/-- Where a code object's header lies: the code section is taken to stand at the object's first 64-KiB boundary, so
the header stands 64 KiB below the code base (notes/assumptions/18). -/
def kcoBase (r : Region) : Nat := r.codeBase - 2 ^ 16

/-- A field of the code object's header, where a header with the magic word can be read. -/
def State.kcoField (s : State) (die : Nat) (r : Region) (lo n : Nat) : Option Nat :=
  if r.codeBase < 2 ^ 16 then none
  else match s.translateEngine die r.part (kcoBase r) { r := true } 0 false with
    | (.ok l, s) =>
      let h : BitVec 512 := BitVec.ofNat 512 (s.rdNat (l.key (kcoBase r)) 64)
      if field h 0 32 = Config.kcoMagic then some (field h lo n) else none
    | _ => none

/-- Virtual address of the page state word of a code page, and of its hash in the manifest. -/
def State.stateWordAt (s : State) (die : Nat) (r : Region) (page : Nat) : Option (Nat × Nat) :=
  match s.kcoField die r 192 32, s.kcoField die r 160 32, s.kcoField die r 64 32 with
  | some st, some man, some n =>
    if page < n then some (kcoBase r + st + 4 * page, kcoBase r + man + 48 * page) else none
  | _, _, _ => none

/-- What fetching a word finds. -/
inductive Word? where
  | word (w : Word)
  | fault (cause acc va : Nat)
  /-- the numbers of the watch units that match -/
  | watch (units : List Nat)
  /-- the page's hash check runs -/
  | hold
  | poison
  deriving DecidableEq, Repr

/-- The watch units of the core that match an access of some runs of bytes (15 R363), the lowest first: kinds are bits 0 fetch, 1 load, 2
store, 3 atomic. -/
def State.watchHits (s : State) (core part regid kind : Nat) (runs : List (Nat × Nat)) : List Nat :=
  ((s.core core).watches.filter (fun e =>
    let x := e.2
    natBit x.kinds kind && x.part == part && (x.regid == 0xFFFFFFFF || x.regid == regid)
      && runs.any (fun r => decide (r.1 < x.base + x.size) && decide (x.base < r.1 + r.2)))).map Prod.fst

/-- The state of a code page: verified, failed, or not yet checked. A page that the object's header does not count, or whose state word
has no translation in the partition's carve-outs, counts as verified: R347 gives such a page no state (DESIGN CHOICE,
notes/assumptions/97). -/
def State.pageState (s : State) (die : Nat) (r : Region) (page : Nat) : Nat :=
  match s.stateWordAt die r page with
  | none => 1
  | some (va, _) => match s.translateEngine die r.part va { r := true } 0 false with
    | (.ok l, s) => s.rdNat (l.key va) 4
    | _ => 1

/-- A die that sees a failed page marks the object poisoned (R347). -/
def State.poisonObject (s : State) (die : Nat) (r : Region) : State :=
  let x := (r.part, r.codeBase, 2 ^ 16 * (s.kcoField die r 64 32).getD 1)
  if (s.die die).poisonedObj.contains x then s else s.modDie die (fun d => { d with poisonedObj := x :: d.poisonedObj })

/-- A region's code base lies in a poisoned object. -/
def State.objPoisoned (s : State) (die : Nat) (r : Region) : Bool :=
  (s.die die).poisonedObj.any (fun x => x.1 == r.part && decide (x.2.1 ≤ r.codeBase) && decide (r.codeBase < x.2.1 + x.2.2))

/-- The number of a code word that a core has fetched. -/
def codeKey (regid pc : Nat) : Nat := regid * 2 ^ 32 + pc % 2 ^ 32

/-- The word that a core executes at a PC: that of memory, or where the code has been rewritten since the core fetched it
the one that it fetched; which of the two is free (R384). -/
def State.codeWord (s : State) (core regid pc : Nat) (new : Word) : Word :=
  match (s.core core).fetched.get? (codeKey regid pc) with
  | none => new
  | some old => if old = new then new else if Config.oldWord s.now (codeKey regid pc) then old else new

/-- A core holds the word that it has fetched to execute it. -/
def State.keepWord (s : State) (core regid pc : Nat) (w : Word) : State :=
  s.modCore core (fun c => { c with fetched := c.fetched.put (codeKey regid pc) w })

/-- A core gives up what it has fetched of a region's code (R384). -/
def State.dropFetched (s : State) (core regid : Nat) : State :=
  s.modCore core (fun c => { c with fetched := c.fetched.filter (fun e => e.1 / 2 ^ 32 != regid) })

/-- The word at a PC of a region as a core finds it, whatever watches it (R333, R347, R384). -/
def State.codeAt (s : State) (core regid : Nat) (r : Region) (pc : Nat) : Word? × State :=
  let va := r.codeBase + pc % 2 ^ 32
  match s.translate core r.part va { x := true } 3 false with
  | (.fault c a, s) => (.fault c a va, s)
  | (.ok l, s) =>
    let die := dieOf core
    let page := pc / 2 ^ 16
    match s.pageState die r page with
    | 0 =>
      if (s.die die).hashing.contains (regid, page) then (.hold, s)
      else (.hold, (s.modDie die (fun d => { d with hashing := (regid, page) :: d.hashing })).push
        (.codePageHashDone die regid page))
    | 2 => (.fault Cause.CODE_INTEGRITY 3 va, s.poisonObject die r)
    | _ =>
      if s.isPoisoned die (l.home va) then (.poison, s.demandAt (l.home va))
      else (.word (s.codeWord core regid pc (BitVec.ofNat 32 (s.rdNat (l.key va) 4))), s)

/-- Fetch the word at a PC of a region for a core; what watches it stops it first (15 R363). -/
def State.fetch (s : State) (core regid : Nat) (r : Region) (pc : Nat) : Word? × State :=
  match s.watchHits core r.part regid 0 [(r.codeBase + pc % 2 ^ 32, 4)] with
  | [] => s.codeAt core regid r pc
  | l => (.watch l, s)

def isHintWord (w : Word) : Bool := field w 26 6 == 0x3F

/-- The PC of the first word at or after `pc` that is no hint word, as far as the words can be read, and whether a page's check holds
the search; `fuel` bounds it. -/
def State.skipHints (s : State) (core regid : Nat) (r : Region) : Nat → Nat → Nat × Bool × State
  | 0, pc => (pc, false, s)
  | n + 1, pc =>
    match s.codeAt core regid r pc with
    | (.word w, s) => if isHintWord w then s.skipHints core regid r n (nextPc pc) else (pc, false, s)
    | (.hold, s) => (pc, true, s)
    | (_, s) => (pc, false, s)

/-! ## Look-ahead (04 R93, R94) -/

/-- A major that may stand inside a chain, before its last member (R93 rule 1). -/
def innerMajor (m : Nat) : Bool := decide (m ≤ 0x14) || m == 0x16

/-- A major that may end a chain (R93 rule 2). -/
def lastMajor (m : Nat) : Bool :=
  innerMajor m || (decide (0x20 ≤ m) && decide (m ≤ 0x27)) || m == 0x29 || (decide (0x2C ≤ m) && decide (m ≤ 0x2E))

def latchCode (c : Nat) : List Nat := if 60 ≤ c ∧ c ≤ 63 then [c - 60] else []

/-- The latches that a word reads, by its format. -/
def latchReads (w : Word) : List Nat :=
  let m := field w 26 6
  let a := latchCode (field w 10 6)
  if m = 0x06 ∨ m = 0x07 then a
  else if m ≤ 0x11 ∨ m = 0x1A then a ++ latchCode (field w 4 6)
  else if m = 0x21 ∨ m = 0x23 ∨ m = 0x26 ∨ (m = 0x29 ∧ field w 0 3 = 6) then latchCode (field w 16 6)
  else []

/-- What looking ahead finds: the words from the next one on, or what stops the issue. -/
inductive Ahead where
  | words (l : List Word)
  | fault (cause acc va : Nat)
  | hold
  /-- a word comes back poisoned: it is consumed (12 R277) -/
  | poison
  deriving DecidableEq, Repr

/-- The path's next `n` non-hint words in straight-line order, up to and with the first that can only end a chain,
and without the first that cannot stand in one. A watch unit matches the word when it is fetched to issue, and not here (15 R363). -/
def State.lookAhead (s : State) (core regid : Nat) (r : Region) : Nat → Nat → Nat → List Word → Ahead × State
  | 0, _, _, acc => (.words acc.reverse, s)
  | fuel + 1, n, pc, acc =>
    if n = 0 then (.words acc.reverse, s)
    else match s.codeAt core regid r pc with
      | (.word w, s) =>
        if isHintWord w then s.lookAhead core regid r fuel n (nextPc pc) acc
        else if !lastMajor (field w 26 6) then (.words acc.reverse, s)
        else if !innerMajor (field w 26 6) then (.words (w :: acc).reverse, s)
        else s.lookAhead core regid r fuel (n - 1) (nextPc pc) (w :: acc)
      | (.fault c a va, s) => (.fault c a va, s)
      | (.poison, s) => (.poison, s)
      | (_, s) => (.hold, s)

/-- Whether a read among the words ahead (the first stands one place on) names a producer at or before place
`-back` (R94). -/
def namesBack (back : Nat) (l : List Word) : Bool :=
  (mapFrom 1 (fun p w => (latchReads w).any (fun n => decide (p + back ≤ n + 1))) l).any id

end Sys2Proof.Machine
end

