-- ==== Sys2Proof/Machine/Issue.lean ====
section
/-! DEFINITION. Issuing a word: activity, legality, latch chains, stalls, the trailing check, completion (04 R86 to
R96; 05 R125, R127; 12 R288 to R291; 14 R333). Every encoded instruction's meaning is one call of `State.issue`. -/

namespace Sys2Proof.Machine

/-- Where a value that enters the load-value queue stands (12 R289). -/
inductive Out where
  | v (n : Nat)
  | s (n : Nat)
  deriving DecidableEq, Repr

/-- What an instruction is, for the rules that all share. -/
structure Attr where
  maj : Nat
  fn : Nat := 0
  /-- PRED; none for the formats without it -/
  p : Option (BitVec 4) := none
  legal : Bool
  /-- source codes, further vector registers read, vector registers written -/
  rv : List (BitVec 6) := []
  rr : List Nat := []
  wv : List Nat := []
  /-- scalar registers read and written, predicates read and written -/
  rs : List Nat := []
  ws : List Nat := []
  rp : List Nat := []
  wp : List Nat := []
  /-- the front thread executes it (02 R43) -/
  front : Bool := false
  himm : Bool := false
  hcoord : Bool := false
  hmod : Bool := true
  /-- it pushes a value into the latches -/
  value : Bool := false
  /-- it waits for the lane's earlier accesses to pass their fault points (14 R333) -/
  serial : Bool := false
  /-- it waits for the lane's earlier accesses to be performed, and their responses (11 R256) -/
  ordered : Bool := false
  /-- it waits for the lane's earlier reads to bind: a write follows them (10 R240) -/
  reads : Bool := false
  /-- it takes an operand-log entry -/
  logs : Bool := false
  /-- energy class (15 R366) -/
  cls : Nat := 5
  /-- a loop end it may not be (05 R127) -/
  noEnd : Bool := false
  /-- the operands that the trailing check compares (12 R290) -/
  cmp : Option (Iss → State → List Nat) := none
  /-- the values it takes to, or from, the load-value queue (12 R289) -/
  outs : List Out := []
  /-- a trailing warp carries it out on its own state; else it passes the word (12 R288, R289; 05 R132) -/
  mirror : Bool := true
  /-- the PC past it, where that is not the next word's: GBEGIN's (07 R176) -/
  after : Option Nat := none
  /-- the register that awaits a token of the word's (08 R190) -/
  token : Option Nat := none
  /-- a release comes first, and is not over (08 R187; 09 R214, R216, R221) -/
  first : Iss → State → Bool := fun _ _ => false
  /-- it is a commit point whose effect must be the last before the snapshot (08 R211; 09 R214, R216, R221; 12 R284) -/
  commits : Bool := false
  /-- it waits for a pending token in a register that it writes (08 R190); a fault may come before (09 R221) -/
  writes : Iss → State → Bool := fun _ _ => true
  /-- what a word that waits notes of its wait -/
  onStall : Iss → State → State := fun _ s => s

/-- Registers that a logged access will write (14 R333). -/
def Access.dests (a : Access) : List Nat :=
  let n := fun k => (List.range k).map (a.d + ·)
  match a.op with
  | .load w _ => n (max 1 (w / 4))
  | .lds w => n (max 1 (w / 4))
  | .atom _ => n 1
  | .lr => n 1
  | .sc => n 1
  | .atoms _ => n 1
  | .sink => a.offs.map Int.toNat
  | _ => []

/-- The access reads: its value binds (10 R240). -/
def Access.reads (a : Access) : Bool :=
  match a.op with
  | .store _ => false
  | .sts _ => false
  | .maint _ => false
  | .sc => false
  | _ => true

/-- The access may still fault in a lane: it has not passed its fault point there (14 R333); the members of a group are checked when
they run. -/
def Access.open' (a : Access) (x : LaneAcc) : Bool :=
  x.phase == .walking || x.phase == .again || (a.op == .sink && !x.stuck)

/-- The access has not passed its fault point in some lane: it holds its place in the operand log (02 R39). -/
def Access.unpassed (a : Access) : Bool := a.lanes.any (fun x => a.open' x || x.phase == .faulted || (a.op == .sink && x.stuck))

/-- Entries of the operand log that hold a lane. -/
def Warp.entriesOf (w : Warp) (l : Nat) : List Access :=
  (w.log.map Prod.snd).filter (fun a => a.lanes.any (fun x => x.lane == l))

/-- Keys of the scalar registers in a list, as the word names them. -/
def Iss.sKeys (i : Iss) (l : List Nat) : List Nat := l.map (i.w.sKey i.act)

/-- Scalar registers that the word reads, and that hold the word of an ended command not read before: a token read (08
R210; 12 R289). -/
def Iss.tokenKeys (i : Iss) (a : Attr) : List Nat :=
  (i.sKeys a.rs).eraseDups.filter (fun k => (i.w.acq.get? k).any (fun g => !g.read))

def Iss.tokenReads (i : Iss) (a : Attr) : Nat := (i.tokenKeys a).length

/-- Scalar registers that the word reads, and that hold the word of an ended command that one of its lanes has not acquired: the read
acquires, once for a path (08 R210; 10 R243). -/
def Iss.acquires (i : Iss) (a : Attr) : List Nat :=
  (i.sKeys a.rs).eraseDups.filter (fun k => (i.w.acq.get? k).any (fun g => (i.act &&& ~~~g.lanes) != 0))

/-- A scalar operand that the word reads holds a pending token (08 R190). -/
def Iss.readStall (i : Iss) (a : Attr) : Bool := (i.sKeys a.rs).any (fun k => (i.w.pend.get? k).isSome)

/-- A scalar operand holds a pending token (08 R190). -/
def Iss.tokenStall (i : Iss) (a : Attr) (s : State) : Bool :=
  i.readStall a || (a.writes i s && (i.sKeys a.ws).any (fun k => (i.w.pend.get? k).isSome))

/-- Vector registers that the word names as codes. -/
def codesToRegs (l : List (BitVec 6)) : List Nat := (l.map BitVec.toNat).filter (· < 56)

/-- The access has not yet bound a value, or been performed, in the lane (10 R240); one that has faulted does so after the
lane's resumption (14 R334), and holds up nothing of the handler that the lane runs before it (R337). -/
def LaneAcc.unbound (x : LaneAcc) : Bool := x.value.isNone && !x.stuck

/-- The word reads a register whose error lies beyond its code (12 R277). -/
def Iss.readsFlaw (i : Iss) (a : Attr) : Bool :=
  (i.sKeys a.rs).any i.w.sBad.contains
    || (lanesOf i.act).any (fun l => (codesToRegs a.rv ++ a.rr).any (fun n => natBit (i.w.lane l).bad.toNat n))

/-- A lane of the path has resumed, and has still to issue an access again: it issues no word before (14 R334). -/
def Iss.reissues (i : Iss) : Bool := i.w.log.any (fun e => e.2.lanes.any (fun x => inMask i.path x.lane && x.phase == .again))

/-- The holds that a lane's logged accesses put on the word (04 R95; 07 R181; 10 R240, R243; 14 R333, R334). -/
def Iss.logStall (i : Iss) (a : Attr) : Bool :=
  let regs := codesToRegs a.rv ++ a.rr ++ a.wv
  (lanesOf i.act).any (fun l => (i.w.entriesOf l).any (fun e =>
    let walking := e.lanes.any (fun x => x.lane == l && e.open' x)
    e.dests.any (fun d => regs.contains d)
      || (a.serial && walking) || (a.reads && e.reads && e.lanes.any (fun x => x.lane == l && x.unbound))
      || ((a.ordered || !(i.acquires a).isEmpty) && e.lanes.any (fun x => x.lane == l && !x.stuck))
      || (walking && e.chainHead.isSome)))
  || (a.logs && decide (16 ≤ (i.w.log.filter (fun e => e.2.unpassed)).length))

/-- The pair that a unit of a checked block belongs to (12 R288). -/
def Iss.pairNo (i : Iss) : Option Nat :=
  if i.r.check then match i.u with
    | .warp n => some n
    | .trail n => some n
    | .front => none
  else none

def Iss.pair (i : Iss) : Pair := match i.pairNo with
  | some n => (i.b.ctx.pairs[n]?).getD {}
  | none => {}

/-- Instructions among what a leading warp has left for its trailing warp. -/
def Issued.isWord : Issued → Bool
  | .word _ _ => true
  | _ => false

/-- Whether the lag or a full queue holds the leading warp (12 R288). -/
def Iss.lagStall (i : Iss) (a : Attr) : Bool :=
  match i.u, i.pairNo with
  | .warp _, some _ =>
    decide (Config.trailLag ≤ (i.pair.stream.filter Issued.isWord).length)
      || decide (Config.lvqEntries < i.pair.lvq.length + (if i.act = 0 then 0 else (a.outs.length + i.tokenReads a)))
  | _, _ => false

/-- What the word's compared operands are. -/
def Iss.checkItem (i : Iss) (s : State) (a : Attr) (f : Iss → State → List Nat) : CheckItem :=
  { pc := i.pc, lanes := i.path, hints := i.w.hints, kind := a.maj * 16 + a.fn, operands := i.act.toNat :: f i s }

/-- How many items a pair's stream holds before the word. -/
def Iss.streamed (i : Iss) : Nat := i.pair.stream.length

/-- The lanes of the path that have gone past the word, in the unit as it stands after it: not those that are to repeat it, nor those
that wait for a frame or at a barrier, which pass it later. -/
def Iss.gonePast (i : Iss) (w : Warp) : Word :=
  let again := fun (pc : Nat) => pc == i.headPc || i.w.chain.any (fun c => c.head == pc)
  i.path &&& w.lanesWhere (fun l => match l.park with
    | some p => !again p.resume
    | none => match l.wait with
      | .frame => false
      | .barrier _ => false
      | _ => true)

def State.pastLanes (s : State) (i : Iss) : Word := ((s.unit? i.blk i.u).map i.gonePast).getD 0

/-- A leading warp's word goes to its trailing warp, ahead of the events that it caused, for the lanes that have gone past
it (05 R132). -/
def State.logStream (s : State) (i : Iss) (compared : Bool) : State :=
  match i.u, i.pairNo with
  | .warp n, some _ =>
    let past := s.pastLanes i
    if past = 0 then s
    else s.modPair i.blk n (fun p =>
      { p with stream := p.stream.take i.streamed ++ .word past compared :: p.stream.drop i.streamed })
  | _, _ => s

/-- The unit that acts, where the state names one of a bound block. -/
def State.issuer (s : State) (p : Option (BitVec 4)) : Option Iss :=
  match s.cur with
  | none => none
  | some g =>
    match s.block? g.block with
    | none => none
    | some b =>
      match s.region? b.regid, b.unit? g.unit with
      | some r, some w =>
        let front := g.unit == .front
        let path := g.lanes
        let pc := (w.lane (lowest path)).pc
        let act : Word := match p with
          | none => path
          | some q =>
            if front then (if q = 15 then 0 else path)
            else
              let m := w.pred (q.toNat % 8)
              path &&& (if natBit q.toNat 3 then ~~~m else m)
        some { blk := g.block, u := g.unit, b := b, r := r, w := w, path := path, act := act, pc := pc,
               headPc := if w.hints.isEmpty then pc else w.hintPc, h := Hints.ofWords w.hints }
      | _, _ => none

/-- ILLEGAL by what the word's surroundings decide: hint words, the front thread (02 R43; 04 R83, R96 to R99). -/
def Iss.legal (i : Iss) (a : Attr) : Bool :=
  a.legal && !i.h.bad && (a.himm || i.h.himm.isNone) && (a.hcoord || i.h.hcoord.isNone) && (a.hmod || i.h.hmod.isNone)
    && (!i.front || (a.front && i.h.hcoord.isNone && (match a.p with
        | some q => q == 7
        | none => true)))

/-- Latch operands of the word. -/
def Attr.latches (a : Attr) : List Nat := (a.rv.map BitVec.toNat).flatMap latchCode

/-- Whether the word is, for the open chain, a further member, or heads a new one (04 R94). -/
def chainStep (a : Attr) (openNow : Bool) (ahead : List Word) : Bool × Bool :=
  let member := openNow && (!a.latches.isEmpty || namesBack 1 ahead)
  (member, !member && namesBack 0 ahead)

/-- What the word reads and writes, for rule 6 of 04 R93. -/
def Attr.readsV (a : Attr) : BitVec 56 :=
  (codesToRegs a.rv ++ a.rr).foldl (fun m n => m ||| BitVec.ofNat 56 (2 ^ n)) 0
def Attr.writesV (a : Attr) : BitVec 56 := a.wv.foldl (fun m n => m ||| BitVec.ofNat 56 (2 ^ n)) 0
def scalarMask (l : List Nat) : Word := l.foldl (fun m n => m ||| BitVec.ofNat 32 (2 ^ n)) 0
def predMask (l : List Nat) : BitVec 8 := l.foldl (fun m n => m ||| BitVec.ofNat 8 (2 ^ n)) 0
def Attr.readsP (a : Attr) : BitVec 8 := predMask (a.rp ++ match a.p with
  | some q => [q.toNat % 8]
  | none => [])

/-- The chain with the word, if it is a member or a head; `more`: a word ahead names it, or a word before it, as producer. -/
def Iss.chainAfter (i : Iss) (a : Attr) (member head more : Bool) : Option Chain :=
  let c : Chain := if member then i.w.chain.getD { head := i.headPc, lanes := i.path } else { head := i.headPc, lanes := i.path }
  if member || head then
    let c := { c with vregs := c.vregs ||| a.readsV, sregs := c.sregs ||| scalarMask a.rs, preds := c.preds ||| a.readsP }
    some { c with broken := c.broken || (c.vregs &&& a.writesV) != 0 || (c.sregs &&& scalarMask a.ws) != 0
      || (c.preds &&& predMask a.wp) != 0, last := !more }
  else none

/-- After its last member a chain is closed (04 R94). -/
def Warp.closeChain (w : Warp) (a : Attr) : Warp :=
  if innerMajor a.maj && !w.chain.any Chain.last then w else { w with chain := none }

/-- What the word reads and writes. -/
def Attr.touch (a : Attr) : Touch :=
  { rv := a.readsV, rs := scalarMask a.rs, rp := a.readsP, wv := a.writesV, ws := scalarMask a.ws, wp := predMask a.wp }

/-- A member of a span, oldest first, writes what it or an earlier one reads (04 R93 rule 6). -/
def spanBroken : Touch → List Touch → Bool
  | _, [] => false
  | t, x :: l =>
    let u : Touch := { t with rv := t.rv ||| x.rv, rs := t.rs ||| x.rs, rp := t.rp ||| x.rp }
    (u.rv &&& x.wv) != 0 || (u.rs &&& x.ws) != 0 || (u.rp &&& x.wp) != 0 || spanBroken u l

/-- A breach of 04 R93 that the latch-reading word shows. Where no chain is open (the look-ahead, which counts words in
straight-line order, found none over an inactive word that R92 leaves out of the sequence), the read's own span is judged
(notes/assumptions/71). -/
def Iss.latchBreach (i : Iss) (a : Attr) (after : Option Chain) : Bool :=
  !a.latches.isEmpty &&
    (!lastMajor a.maj || i.h.other
      || (match after with
          | some c => c.broken
          | none => (lanesOf i.act).any (fun l => a.latches.any (fun n =>
              spanBroken {} ((((i.w.lane l).latches.take (n + 1)).map Latch.touch).reverse ++ [a.touch]))))
      || (lanesOf i.act).any (fun l => a.latches.any (fun n =>
          let hist := (i.w.lane l).latches.take (n + 1)
          decide (hist.length ≤ n) || hist.any (fun e => !e.inner || e.back)
            || (hist.take n).any (fun e => e.hint)
            || (match hist[n]? with
                | some e => e.val.isNone
                | none => true))))

/-- Put the word's result in every latch of the path, before the active lanes' values are known (04 R92). -/
def Warp.pushLatches (w : Warp) (i : Iss) (a : Attr) : Warp :=
  let e : Latch := { val := if a.value then some 0 else none, taint := false, inner := innerMajor a.maj,
                     hint := i.h.other, back := false, touch := a.touch }
  w.modLanes i.path (fun _ l => { l with latches := (e :: l.latches).take 4 })

/-- The PC past the word. -/
def Attr.past (a : Attr) (i : Iss) : Nat := a.after.getD (nextPc i.pc)

/-- Start the word: its lanes stand past it, at `past`, its hint words are taken. -/
def State.startWord (s : State) (i : Iss) (lanes : Word) (past : Nat) : State :=
  let s := match i.u, i.pairNo with
    | .warp n, some _ => s.modPair i.blk n (fun p => { p with since := none })
    | _, _ => s
  s.modUnit i.blk i.u (fun w =>
    { (w.modLanes lanes (fun _ l => { l with pc := past })) with
      hints := [], hintPc := 0, unitLanes := 0, lastIssue := s.now, owners := w.owners.filter (fun o => o.pc != i.headPc || o.entry.isSome)
      tokenWait := false
      committing := false, rel := none })

/-- Lanes of a word that have parked for its logged access, past it: they arrive at the loop ends there when they
resume. -/
def Warp.markPast (w : Warp) (m : Word) (past : Nat) : Warp :=
  w.modLanes m (fun _ l => { l with park := l.park.map (fun p =>
    if p.entry.isSome && p.resume == past then { p with past := true } else p) })

/-- End the word: lanes that completed it, and stand at `past`, arrive at the loop ends there (05 R125). -/
def State.endWord (s : State) (i : Iss) (jumped : Word) (past : Nat) : State :=
  s.modUnit i.blk i.u (fun w =>
    let done := w.lanesWhere (fun l => l.status == .running && l.wait == .none && l.pc == past) &&& i.path &&& ~~~jumped
    (w.markPast (i.path &&& ~~~jumped) past).completeAt done (prevPc past))

/-- Counters of issued instructions and active lanes; a trailing warp's are not counted (09 R231). -/
def State.countWord (s : State) (i : Iss) : State :=
  if i.trailing then s else (s.count i.core i.blk 1 1).count i.core i.blk 2 (lanesOf i.act).length

/-- A word with no active lane: every lane of the path goes on, to `past` (04 R88; 05 R133). `member` as in `State.refuse`. -/
def State.skipWord (s : State) (i : Iss) (past : Nat) (member : Bool) : State :=
  let s := if member then s else s.modUnit i.blk i.u (fun w => { w with chain := none })
  (((s.startWord i i.path past).countWord i).endWord i 0 past).logStream i false

/-- A precise fault of the active lanes before any effect of the word: the other lanes go on, except where the word is a
member of the open chain, which every lane of the path repeats (04 R88, R95). A word that is no member finds the chain closed
(04 R94). -/
def State.refuse (s : State) (i : Iss) (past : Nat) (member : Bool) (cause : Nat) (coord : Word := 0) : State :=
  if member then
    (s.modUnit i.blk i.u (fun w => { w with hints := [], unitLanes := 0 })).faultAct i cause 0 coord
  else
    let s := s.modUnit i.blk i.u (fun w => { w with chain := none })
    let s := s.startWord i (i.path &&& ~~~i.act) past
    ((s.faultAct i cause 0 coord).endWord i 0 past).logStream i false

/-- Whether the word would be a forbidden loop end for an active lane (05 R127); the level. -/
def Iss.badEnd (i : Iss) : Option Nat :=
  let hit := fun (x : Loop) => x.active && x.endPc == i.pc && (x.entry &&& i.act) != 0
  if hit i.w.lc1 then some 1 else if hit i.w.lc0 then some 0 else none

/-- Put the values of a leading warp's token reads in its load-value queue, ahead of what the word has put there (12 R289). -/
def State.queueTokens (s : State) (i : Iss) (a : Attr) : State :=
  match i.u, i.pairNo with
  | .warp n, some _ =>
    let k := i.pair.lvq.length
    s.modPair i.blk n (fun p => { p with lvq := p.lvq.take k ++ (i.tokenKeys a).map (fun k =>
      { vals := [(0, i.w.sAt k)] : LvqEntry }) ++ p.lvq.drop k })
  | _, _ => s

/-- What a word leaves of the tokens that it names: once a lane has gone past it, those that it reads have been read (12 R289); one that
every lane is to repeat has read and written none. -/
def Iss.settleTokens (i : Iss) (a : Attr) (w : Warp) : Warp :=
  { w with acq :=
      if i.gonePast w = 0 then i.w.acq
      else w.acq.map (fun e => if (i.tokenKeys a).contains e.1 then (e.1, { e.2 with read := true }) else e) }

/-- Append the word's values to the load-value queue of a leading warp, where they are at hand, or await an access
(12 R289). -/
def State.fillQueue (s : State) (i : Iss) (a : Attr) (awaits : Option Nat) : State :=
  match i.u, i.pairNo, s.unit? i.blk i.u with
  | .warp n, some _, some w =>
    let entry := fun (o : Out) => match o with
      | .v r => { vals := (lanesOf i.act).map (fun l => (l, (w.lane l).reg r)), awaits := awaits : LvqEntry }
      | .s r => { vals := [(0, w.sRead i.act r)], awaits := awaits : LvqEntry }
    s.modPair i.blk n (fun p => { p with lvq := p.lvq ++ a.outs.map entry })
  | _, _, _ => s

/-- The word was held: its path is not ready (05 R105). -/
def State.hold (s : State) : State := { s with stalled := true }

/-! ## Releases and commit points that come first (08 R187; 09 R214, R216, R221) -/

/-- A commit point of the block waits (12 R284, R292). -/
def Iss.commitStall (i : Iss) : Bool := i.b.commitStall i.r

/-- Stores of the block are buffered, or writes of its set C unacknowledged: a release at DOM scope has something to wait
for (11 R256, R260). -/
def State.unreleased (s : State) (blk : Nat) : Bool :=
  ((s.block? blk).map (fun b => !b.buf.isEmpty)).getD false || !(s.setC blk).isEmpty

/-- What the word's release still awaits, where it has begun. -/
def Iss.released (i : Iss) (s : State) : Option Bool := match i.w.rel with
  | some (pc, ids) => if pc = i.pc then some (ids.any (s.unacked i.blk false)) else none
  | none => none

/-- The release that the word makes first is not over. -/
def Iss.releasing (i : Iss) (s : State) : Bool := (i.released s).getD (s.unreleased i.blk)

/-- The commit point that the word makes first is not over: in a protected or checked region (09 R216). -/
def Iss.committing (i : Iss) (s : State) : Bool := (i.r.prot || i.r.check) && (i.released s).getD true

/-- A word that waits for its release makes its commit point, once nothing before it holds it. -/
def State.releaseFirst (a : Attr) (i : Iss) (s : State) : State :=
  if i.readStall a || i.logStall a || i.lagStall a || !a.first i s || (i.released s).isSome then s
  else
    let s := s.commit i.blk
    s.modUnit i.blk i.u (fun w => { w with rel := some (i.pc, s.awaited i.blk) })

/-! ## Judging a word -/

/-- What stands in the way of the word, in the order of the rules; `member`: it belongs to the open chain. -/
inductive Verdict where
  | skip (member : Bool)
  | refuse (member : Bool) (cause : Nat) (coord : Word)
  | ahead (cause acc va : Nat)
  | stall
  /-- it reads what is beyond its code, in a register, or a poisoned word of code ahead: its block consumes an error, which stood at a unit
  of R278 -/
  | flaw (unit : Nat)
  /-- it waits for its block to be ready for a commit point -/
  | due
  | go (chain : Option Chain)
  deriving DecidableEq, Repr

/-- What looking ahead finds for a word: it is made before every non-hint word of a warp, one with no active lane or that
can itself be no member included (04 R94: "before it issues a non-hint word of a path"; notes/assumptions/71); not for the
front thread, which has no latches, nor for a trailing warp, which follows what its leading warp has fetched. -/
def State.ahead (s : State) (i : Iss) : Ahead × State :=
  match i.u with
  | .warp _ => s.lookAhead i.core i.b.regid i.r 24 4 (nextPc i.pc) []
  | _ => (.words [], s)

/-- The chain that the word leaves open, and whether the word is a further member, given the words ahead (04 R94). A word
with no active lane takes no place in the sequence that R92 gives the latches, but counts among the words that R94 looks at
(notes/assumptions/71). -/
def Iss.chainWith (i : Iss) (a : Attr) (ws : List Word) : Bool × Option Chain :=
  let ws := if innerMajor a.maj then ws else []
  let m := chainStep a i.w.chain.isSome ws
  (m.1, i.chainAfter a m.1 m.2 (namesBack 0 ws))

/-- Judge a word before any effect. -/
def State.judge (s : State) (i : Iss) (a : Attr) (extra : Iss → State → Bool) (stall : Iss → State → Bool) :
    Verdict × State :=
  match s.ahead i with
  | (.hold, s) => (.stall, s)
  | (.poison, s) => (.flaw 6, s)
  | (.fault c x va, s) => (.ahead c x va, s)
  | (.words ws, s) =>
    let (member, chain) := i.chainWith a ws
    if i.lagStall a || i.reissues then (.stall, s)
    else if i.act = 0 then (.skip member, s)
    else if !i.legal a then (.refuse member Cause.ILLEGAL 0, s)
    else if a.first i s || i.tokenStall a s then (.stall, s)
    else if !extra i s then (.refuse member Cause.ILLEGAL 0, s)
    else match (if a.noEnd then i.badEnd else none) with
      | some k => (.refuse member Cause.LOOP_FORM (BitVec.ofNat 32 k), s)
      | none =>
        if i.latchBreach a chain then (.refuse member Cause.LATCH_FORM 0, s)
        else if i.readsFlaw a then (.flaw 3, s)
        else if i.logStall a || stall i s then (.stall, s)
        else if a.commits && i.commitStall then (.due, s)
        else (.go chain, s)

/-- Reading the word of an ended command acquires its writes, as FENCE.ACQ at DOM scope (08 R210; 11 R264), once for a path. -/
def State.acquireTokens (s : State) (i : Iss) (a : Attr) : State :=
  let keys := i.acquires a
  if keys.isEmpty then s
  else
    let s := (s.acquireAt i.blk i.core 4).raiseLtime i.core (keys.foldl (fun n k => max n (((i.w.acq.get? k).map TokenWord.time).getD 0)) 0)
    s.modUnit i.blk i.u (fun w =>
      { w with acq := w.acq.map (fun e => if keys.contains e.1 then (e.1, { e.2 with lanes := e.2.lanes ||| i.act }) else e) })

/-- A register that the word writes holds the word of no ended command any longer. -/
def State.dropTokens (s : State) (i : Iss) (a : Attr) : State :=
  let keys := (i.sKeys a.ws).filter (fun k => (i.w.acq.get? k).isSome)
  if keys.isEmpty then s else s.modUnit i.blk i.u (fun w => { w with acq := w.acq.filter (fun e => !keys.contains e.1) })

/-- What a word leaves in the load-value queue, once a lane has gone past it, and of the tokens that it names. -/
def State.keepValues (s : State) (i : Iss) (a : Attr) : State :=
  let s := if s.pastLanes i = 0 then s else (if a.logs then s else s.fillQueue i a none).queueTokens i a
  s.modUnit i.blk i.u (i.settleTokens a)

/-- Carry out a judged word: `body` acts with the path past the word, and answers the lanes that it moved
elsewhere. -/
def State.perform (s : State) (i : Iss) (a : Attr) (chain : Option Chain) (body : Iss → State → State × Word)
    (compared : Bool := false) : State :=
  let s := (((s.startWord i i.path (a.past i)).countWord i).acquireTokens i a).dropTokens i a
  let s := s.modUnit i.blk i.u (fun w => { (w.pushLatches i a) with chain := chain })
  let s := s.addEnergy i.blk a.cls 1
  let (s, jumped) := body i s
  let s := s.modUnit i.blk i.u (fun w => w.closeChain a)
  ((s.keepValues i a).endWord i jumped (a.past i)).logStream i compared

/-- The leading warp is held back by its lag: its timeout runs (12 R288, R291). -/
def State.noteLag (s : State) (i : Iss) : State :=
  match i.u, i.pairNo with
  | .warp n, some _ =>
    if i.pair.since.isSome then s
    else (s.modPair i.blk n (fun p => { p with since := some s.now })).at (s.now + 65536) (.trailingLagTimeout i.blk n s.now)
  | _, _ => s

/-- A leading warp's compared word waits for its match, then acts (12 R290). -/
def State.leadTurn (s : State) (i : Iss) (a : Attr) (n : Nat) (f : Iss → State → List Nat) (chain : Option Chain)
    (body : Iss → State → State × Word) : State :=
  if i.pair.item = some (i.checkItem s a f) then
    if i.pair.compared then
      (s.modPair i.blk n (fun p => { p with item := none, compared := false })).perform i a chain body true
    else s.hold
  else ((s.modPair i.blk n (fun p => { p with item := some (i.checkItem s a f), compared := false })).noteLag i).hold

/-- A word that waits notes what its wait needs: a token wait that a counter may count, the lag of a pair. -/
def State.noteStall (s : State) (i : Iss) (a : Attr) : State :=
  let wait := i.tokenStall a s && !(s.core i.core).banks.isEmpty
  let s := s.modUnit i.blk i.u (fun w => { w with tokenWait := w.tokenWait || wait, committing := false })
  (a.onStall i (if i.lagStall a then s.noteLag i else s)).hold

/-- A word that waits to be a commit point: the block's other threads issue nothing meanwhile (12 R284). -/
def State.noteDue (s : State) (i : Iss) : State :=
  (s.modUnit i.blk i.u (fun w => { w with committing := true })).hold

/-! ## The trailing warp's turn (12 R288 to R292) -/

/-- The scalar registers that a trailing warp's word reads, and for which it takes a token's word from the load-value
queue. -/
def Iss.trailTokens (i : Iss) (a : Attr) : List Nat :=
  (i.sKeys a.rs).eraseDups.filter (fun k => (i.w.pend.get? k).isSome)

/-- The trailing warp takes the words of the tokens that it reads from the load-value queue (12 R289); one that it only
writes is pending no longer, and the one that the word asks for is. -/
def State.takeTokens (s : State) (i : Iss) (a : Attr) (n : Nat) : State :=
  let keys := i.trailTokens a
  let s := (mapFrom 0 (fun j k => (j, k)) keys).foldl (fun s e =>
    let x := (i.pair.lvq[e.1]?).getD { vals := [] }
    s.modUnit i.blk i.u (fun w => { (w.sPut e.2 (x.vals.getD 0 0)) with pend := w.pend.erase e.2 })) s
  let s := s.modUnit i.blk i.u (fun w =>
    let pend := w.pend.filter (fun e => !(i.sKeys a.ws).contains e.1)
    { w with pend := (i.sKeys a.token.toList).foldl (fun (t : Table Nat) k => t.put k 0) pend })
  s.modPair i.blk n (fun p => { p with lvq := p.lvq.drop keys.length })

/-- The trailing warp takes its values from the load-value queue (12 R289). -/
def State.takeQueue (s : State) (i : Iss) (a : Attr) (n : Nat) : State :=
  let lvq := match s.block? i.blk with
    | some b => ((b.ctx.pairs[n]?).getD {}).lvq
    | none => []
  let s := (mapFrom 0 (fun k o => (k, o)) a.outs).foldl (fun s e =>
    let x := (lvq[e.1]?).getD { vals := [] }
    match e.2 with
    | .v r => s.modUnit i.blk i.u (fun w => w.modLanes i.act (fun l y =>
        (y.setReg r (x.vals.getD 0 l)).setLatch (x.vals.getD 0 l) false))
    | .s r => s.modUnit i.blk i.u (fun w => w.sPut (w.sKey i.act r) (x.vals.getD 0 0))) s
  s.modPair i.blk n (fun p => { p with lvq := p.lvq.drop a.outs.length })

/-- Lanes of the trailing warp have issued the word at the head of the stream; what is left of it waits for its other
lanes. -/
def State.passItem (s : State) (blk n : Nat) (m : Word) : State :=
  s.modPair blk n (fun p => { p with stream := match p.stream with
    | .word lanes c :: l => if lanes &&& ~~~m = 0 then l else .word (lanes &&& ~~~m) c :: l
    | l => l })

/-- The values that the trailing warp's word takes have arrived. -/
def Iss.valuesIn (i : Iss) (a : Attr) : Bool :=
  (List.range ((i.trailTokens a).length + a.outs.length)).all (fun k => match i.pair.lvq[k]? with
    | some e => e.awaits.isNone
    | none => false)

/-- The trailing warp issues its word, on its own registers, with the values that its leading warp got. -/
def State.trailWord (s : State) (i : Iss) (a : Attr) (n : Nat) (body : Iss → State → State × Word) : State :=
  let s := (s.passItem i.blk n i.path).takeTokens i a n
  let i := (s.issuer a.p).getD i
  let s := (s.startWord i i.path (a.past i)).modUnit i.blk i.u (fun w => w.pushLatches i a)
  let (s, jumped) := if a.mirror then body i s else (s, 0)
  (s.takeQueue i a n).endWord i jumped (a.past i)

/-- A TURN OF THE TRAILING WARP: it compares the item that its leading warp waits to perform, or issues the next word that
its leading warp has issued, on its own control flow. An item of another kind, path, mask, operands or PC is a mismatch
(R291); a word that it cannot issue holds it, until its leading warp's lag times out. -/
def State.trailTurn (s : State) (i : Iss) (a : Attr) (n : Nat) (body : Iss → State → State × Word) : State :=
  match i.pair.stream, i.pair.item with
  | .word _ compared :: _, _ =>
    if i.act = 0 then (s.passItem i.blk n i.path).skipWord i (a.past i) false
    else if a.cmp.isSome && !compared then s.consume i.blk Cause.CHECK_MISMATCH
    else if i.readsFlaw a then s.consume i.blk Cause.UNCORRECTABLE 3
    else if i.legal a && i.valuesIn a then s.trailWord i a n body
    else s.hold
  | [], some x =>
    if i.pair.compared then s.hold
    else if a.cmp.any (fun f => x == i.checkItem s a f) then
      (s.modPair i.blk n (fun p => { p with compared := true })).modUnit i.blk i.u Warp.standBack
    else s.consume i.blk Cause.CHECK_MISMATCH
  | _, _ => s.hold

/-! ## Issue -/

/-- ISSUE of an encoded instruction (04 R86 to R96): judge the word, then skip it, take its fault, let it wait, or
carry it out. -/
def State.issue (s : State) (a : Attr) (extra : Iss → State → Bool) (stall : Iss → State → Bool)
    (body : Iss → State → State × Word) : Host.Outcome State Fault Refusal :=
  match s.issuer a.p with
  | none => .refused .noIssuer
  | some i => match i.u with
    | .trail n => .next (s.trailTurn i a n body)
    | _ => match s.judge i a extra stall with
      | (.skip m, s) => .next (s.skipWord i (a.past i) m)
      | (.refuse m cause coord, s) => .next (s.refuse i (a.past i) m cause coord)
      | (.ahead c x va, s) => .next (s.takeFault i.blk i.u i.path (fun _ => { i.fault c with acc := x, va := va }))
      | (.stall, s) => .next (s.noteStall i a)
      | (.flaw n, s) => .next (s.consume i.blk Cause.UNCORRECTABLE n)
      | (.due, s) => .next (s.noteDue i)
      | (.go chain, s) => match i.u, i.pairNo, a.cmp with
        | .warp n, some _, some f => .next (s.leadTurn i a n f chain body)
        | _, _, _ => .next (s.perform i a chain body)

/-- An instruction whose effect leaves no lane elsewhere than past the word. -/
def straight (f : Iss → State → State) (i : Iss) (s : State) : State × Word := (f i s, 0)

def always (_ : Iss) (_ : State) : Bool := true
def never (_ : Iss) (_ : State) : Bool := false

/-- A register-only instruction: legal by its word, never waiting on more than the scoreboard. -/
def State.compute (s : State) (a : Attr) (f : Iss → State → State) : Host.Outcome State Fault Refusal :=
  s.issue a always never (straight f)

end Sys2Proof.Machine
end

