-- ==== Sys2Proof/Machine/Compute.lean ====
section
/-! DEFINITION. What the register-only instructions share (06 R134 to R137): operands and results lane by lane,
predicate results, scalar results. -/

namespace Sys2Proof.Machine

/-- A flag when NW sends the result to the latches alone. -/
def nwOf (n : BitVec 1) : Bool := n == 1

/-- Attributes of a vector instruction with operands A and B, and the old D where it is read. -/
def vecAttr (maj fn cls : Nat) (p : BitVec 4) (d a b : BitVec 6) (n : BitVec 1) (third : Bool) : Attr :=
  { maj := maj, fn := fn, cls := cls, p := some p, legal := dstNw d n && src a && src b,
    rv := if third then [a, b, d] else [a, b], wv := codesToRegs [d], value := true }

/-- A vector result computed lane by lane from a, b and, where `third`, the old value of D; its flags enter %fflags
under CAP (R134, R136). -/
def State.vec (s : State) (maj fn cls : Nat) (p : BitVec 4) (d a b : BitVec 6) (n : BitVec 1) (third : Bool)
    (f : Mods → Word → Word → Word → Nat × Flags) : Host.Outcome State Fault Refusal :=
  s.compute (vecAttr maj fn cls p d a b n third) (fun i s =>
    let one := fun (l : Nat) => f i.h.mods (i.op l a).1 (i.op l b).1 (if third then (i.third l d).1 else 0)
    let taint := fun (l : Nat) => (i.op l a).2 || (i.op l b).2 || (third && (i.third l d).2)
    (s.results i d (nwOf n) (fun l => (BitVec.ofNat 32 (one l).1, taint l))).raiseFlags i
      ((lanesOf i.act).foldl (fun (g : Flags) l => g ||| (one l).2) 0))

/-- An integer or bit operation, which no modifier changes. -/
def State.vecI (s : State) (maj fn : Nat) (p : BitVec 4) (d a b : BitVec 6) (n : BitVec 1) (third : Bool)
    (f : Word → Word → Word → Word) : Host.Outcome State Fault Refusal :=
  s.vec maj fn 0 p d a b n third (fun _ x y z => ((f x y z).toNat, 0))

/-- A floating-point operation on register contents. -/
def State.vecF (s : State) (maj fn cls : Nat) (p : BitVec 4) (d a b : BitVec 6) (n : BitVec 1) (third : Bool)
    (f : Mods → Nat → Nat → Nat → Nat × Flags) : Host.Outcome State Fault Refusal :=
  s.vec maj fn cls p d a b n third (fun m x y z => f m x.toNat y.toNat z.toNat)

/-- I- and K-format operations on A and an immediate (R142); HIMM is legal before format I alone. -/
def State.vecImm (s : State) (maj fn : Nat) (himm : Bool) (p : BitVec 4) (d a : BitVec 6) (f : Hints → Word → Word) :
    Host.Outcome State Fault Refusal :=
  s.compute
    { maj := maj, fn := fn, cls := 0, p := some p, legal := dst d && src a, rv := [a], wv := codesToRegs [d],
      himm := himm, value := true }
    (fun i s => s.results i d false (fun l => (f i.h (i.op l a).1, (i.op l a).2)))

/-- A register pair as a 64-bit operand, or ZERO (R139). -/
def Iss.op64 (i : Iss) (l : Nat) (a : BitVec 6) : BitVec 64 × Bool :=
  if a = 56 then (0, false)
  else
    let x := i.w.lane l
    (x.reg (a.toNat + 1) ++ x.reg a.toNat, x.tainted a.toNat || x.tainted (a.toNat + 1))

/-- Registers of a pair operand. -/
def pairRegs (a : BitVec 6) : List Nat := if a = 56 then [] else [a.toNat, a.toNat + 1]

/-- A 64-bit operation on register pairs (R139): the latch takes the low word. -/
def State.vec64 (s : State) (fn : Nat) (p : BitVec 4) (d a b : BitVec 6) (f : BitVec 64 → BitVec 64 → BitVec 64) :
    Host.Outcome State Fault Refusal :=
  s.compute
    { maj := 1, fn := fn, cls := 0, p := some p, legal := run d 2 && pair64 a && pair64 b,
      rr := pairRegs a ++ pairRegs b, wv := [d.toNat, d.toNat + 1], value := true }
    (fun i s => s.modUnit i.blk i.u (fun w => w.modLanes i.act (fun l x =>
      let v := f (i.op64 l a).1 (i.op64 l b).1
      let t := (i.op64 l a).2 || (i.op64 l b).2
      ((x.setLatch (v.extractLsb' 0 32) t).setReg d.toNat (v.extractLsb' 0 32) t).setReg (d.toNat + 1)
        (v.extractLsb' 32 32) t)))

/-- A predicate and what it is combined with (04 R91). -/
def combinePred (g : BitVec 2) (old c : Bool) : Bool :=
  match g.toNat with
  | 0 => c
  | 1 => old && c
  | _ => old || c

/-- Write a predicate of the active lanes. -/
def State.predResults (s : State) (i : Iss) (g : BitVec 2) (k : BitVec 3) (f : Nat → Bool) : State :=
  s.modUnit i.blk i.u (fun w => (lanesOf i.act).foldl (fun (w : Warp) l =>
    w.setPred k.toNat l (combinePred g (inMask (i.w.pred k.toNat) l) (f l))) w)

/-- Attributes of a predicate-writing instruction; an instruction that combines reads the predicate it writes. -/
def predAttr (maj fn cls : Nat) (p : BitVec 4) (g : BitVec 2) (k : BitVec 3) (rv : List (BitVec 6)) : Attr :=
  { maj := maj, fn := fn, cls := cls, p := some p, legal := dstPred g k && rv.all src, rv := rv,
    rp := if g = 0 then [] else [k.toNat], wp := [k.toNat] }

/-- A compare of a and b lane by lane (R143). -/
def State.setP (s : State) (maj fn cls : Nat) (p : BitVec 4) (g : BitVec 2) (k : BitVec 3) (a b : BitVec 6)
    (f : Word → Word → Bool × Flags) : Host.Outcome State Fault Refusal :=
  s.compute (predAttr maj fn cls p g k [a, b]) (fun i s =>
    let one := fun (l : Nat) => f (i.op l a).1 (i.op l b).1
    (s.predResults i g k (fun l => (one l).1)).raiseFlags i
      ((lanesOf i.act).foldl (fun (x : Flags) l => x ||| (one l).2) 0))

/-- Attributes of a scalar instruction (R152). -/
def scalAttr (maj fn : Nat) (himm : Bool) (d : BitVec 5) (rs : List Nat) : Attr :=
  { maj := maj, fn := fn, legal := true, rs := rs, ws := [d.toNat], front := true, himm := himm }

/-- A scalar result from SA and SB. -/
def State.scal (s : State) (maj fn : Nat) (d a b : BitVec 5) (f : Word → Word → Word) :
    Host.Outcome State Fault Refusal :=
  s.compute (scalAttr maj fn false d [a.toNat, b.toNat]) (fun i s => s.putS i d (f (i.s a) (i.s b)))

/-- A scalar result from SA alone. -/
def State.scal1 (s : State) (maj fn : Nat) (himm : Bool) (d a : BitVec 5) (f : Hints → Word → Word) :
    Host.Outcome State Fault Refusal :=
  s.compute (scalAttr maj fn himm d [a.toNat]) (fun i s => s.putS i d (f i.h (i.s a)))

end Sys2Proof.Machine
end

