-- ==== Sys2Proof/Machine/Access.lean ====
section
/-! DEFINITION. Accesses from issue to completion: the operand log, the checks of 07 R161, translation, performing
(02 R39; 07 R156 to R174; 10 R240; 14 R328, R333). -/

namespace Sys2Proof.Machine

/-! ## Logged accesses -/

/-- A logged access and where it stands: block, warp, key. -/
structure Site where
  blk : Nat
  n : Nat
  id : Nat
  a : Access
  deriving DecidableEq, Repr

/-- The warp of a block whose log holds a key. -/
def Block.siteOf (b : Block) (blk id : Nat) : Option Site :=
  (mapFrom 0 (fun n (w : Warp) => (w.log.get? id).map (fun a => ({ blk := blk, n := n, id := id, a := a } : Site)))
    b.ctx.warps).findSome? (fun x => x)

/-- The site of a key; a block that waits to be bound has none, since what it holds is tried again then. -/
def State.site? (s : State) (id : Nat) : Option Site :=
  s.blocks.findSome? (fun e => if e.2.loc = .unbound ∨ e.2.loc = .filling then none else e.2.siteOf e.1 id)

def Site.unit (t : Site) : UnitRef := .warp t.n

def State.modAccess (s : State) (t : Site) (f : Access → Access) : State :=
  s.modUnit t.blk t.unit (fun w => { w with log := w.log.modify t.id f })

def State.modLaneAcc (s : State) (t : Site) (lane : Nat) (f : LaneAcc → LaneAcc) : State :=
  s.modAccess t (fun a => { a with lanes := a.lanes.map (fun x => if x.lane = lane then f x else x) })

/-- The access as it now stands, and one of its lanes. -/
def State.access (s : State) (t : Site) : Access :=
  match s.unit? t.blk t.unit with
  | some w => w.log.getD t.a t.id
  | none => t.a

def Access.lane? (a : Access) (lane : Nat) : Option LaneAcc := a.lanes.find? (fun x => x.lane == lane)

/-- Identification of a response: access and lane. -/
def respId (id lane : Nat) : Nat := id * 32 + lane

/-- A lane's part of an access is over: it leaves the log, and what has waited for it goes on. -/
def State.laneDone (s : State) (t : Site) (lane : Nat) : State :=
  let left := ((s.access t).lanes.filter (fun x => x.lane != lane))
  let s := if left.isEmpty then
      (s.modUnit t.blk t.unit (fun w => { w with log := w.log.erase t.id })).modPair t.blk t.n (fun p =>
        { p with lvq := p.lvq.map (fun (e : LvqEntry) => if e.awaits = some t.id then { e with awaits := none } else e) })
    else s.modAccess t (fun a => { a with lanes := left })
  (s.unitGone t.blk t.unit).settleCommit t.blk

/-- Values of a lane for the load-value queue entries that await the access, in their order (12 R289). -/
def fillAwaiting (id lane : Nat) : List Word → List LvqEntry → List LvqEntry
  | v :: vs, e :: rest =>
    if e.awaits = some id then { e with vals := e.vals.put lane v } :: fillAwaiting id lane vs rest
    else e :: fillAwaiting id lane (v :: vs) rest
  | _, l => l

/-- Write a lane's results over D on, where the lane has not exited (05 R113). -/
def State.putResult (s : State) (t : Site) (lane : Nat) (regs : List Nat) (vals : List Word) (taint : Bool) : State :=
  let s := s.modUnit t.blk t.unit (fun w => w.modLane lane (fun l =>
    if l.status == .exited then l
    else (regs.zip vals).foldl (fun (l : Lane) e => l.setReg e.1 e.2 taint) l))
  s.modPair t.blk t.n (fun p => { p with lvq := fillAwaiting t.id lane vals p.lvq })

/-! ## What an access asks (07 R158 to R161) -/

/-- Bytes of the access, for a group its lead load. -/
def MemOp.width : MemOp → Nat
  | .load w _ => w
  | .store w => w
  | .lds w => w
  | .sts w => w
  | .maint _ => 1
  | _ => 4

def MemOp.spaces : MemOp → List Nat
  | .lds _ => [1]
  | .sts _ => [1]
  | .atoms _ => [1]
  | .sink => [0]
  | _ => [0, 3]

/-- ACC of the fault record (14 R338). -/
def MemOp.acc : MemOp → Nat
  | .store _ => 1
  | .sts _ => 1
  | .atom _ => 2
  | .red _ => 2
  | .lr => 2
  | .sc => 2
  | .atoms _ => 2
  | _ => 0

/-- An atomic of 07 R171, LR and SC, and RED: it accesses its first element, or none where clip mode 1 skips that (R172). -/
def MemOp.atomic (o : MemOp) : Bool := o.acc == 2

def MemOp.need : MemOp → Need
  | .store _ => { w := true }
  | .atom _ => { r := true, w := true }
  | .red _ => { r := true, w := true }
  | .sc => { r := true, w := true }
  | _ => { r := true }

/-- Kind of watch unit (15 R363). -/
def MemOp.kind (o : MemOp) : Nat := match o.acc with
  | 1 => 2
  | 2 => 3
  | _ => 1

/-- A failed check: cause, %trapview, %trapcoord. -/
structure Bad where
  cause : Nat
  view : Word := 0
  coord : Word := 0
  /-- the watch units that match (15 R364) -/
  watch : List Nat := []
  deriving DecidableEq, Repr

/-- The checks of R161 that need no translation, for one lane; `width` is the access's, `win` the window's bytes. An atomic's
first element is a multiple of 4 in every space. -/
def checkLane (r : Record) (op : MemOp) (width dir view win : Nat) (coords : List Word) :
    Except Bad (List (Option Nat)) :=
  let scratch := op.spaces == [1]
  let m := min width (recEs r)
  if !recordOk r || !op.spaces.contains (recSpace r) || !widthOk r width || (dir == 1 && recRank r == 1) then
    .error { cause := Cause.VIEW_BAD, view := viewWord view 0 }
  else match viewAddr r ((coords.take (recRank r)).map BitVec.toInt) width dir with
    | .bounds k v => .error { cause := Cause.VIEW_BOUNDS, view := viewWord view k, coord := BitVec.ofInt 32 v }
    | .ok elems =>
      let live := elems.filterMap id
      let limit : Int := if scratch then ((win : Nat) : Int) - ((m : Nat) : Int) else ((2 ^ 52 : Nat) : Int) - 1
      if live.any (fun x => decide (x < 0) || decide (limit < x)) then .error { cause := Cause.PROT }
      else if (if scratch && !op.atomic then live.any (fun x => x % ((m : Nat) : Int) != 0)
          else match live with
            | x :: _ => x % ((width : Nat) : Int) != 0
            | [] => false) then .error { cause := Cause.ALIGN }
      else .ok (elems.map (fun e => e.map Int.toNat))

/-- The runs of bytes that the elements of an access touch, each of `m` bytes: an atomic's first element alone (07 R172). -/
def touchedRuns (op : MemOp) (m : Nat) (elems : List (Option Nat)) : List (Nat × Nat) :=
  if op.atomic then (elems.headD none).toList.map (fun va => (va, 4)) else (elems.filterMap id).map (fun va => (va, m))

/-- The fault of watch units that match an access (15 R363, R364). -/
def watchBad (units : List Nat) : Bad := { cause := Cause.WATCH, coord := BitVec.ofNat 32 (units.headD 0), watch := units }

/-- Bytes of the block's window. -/
def Block.winBytes (b : Block) : Nat := b.ntile * Config.tileBytes

/-- Width of a logged access; a group takes that of its lead load. -/
def leadWidth : Instr → Nat
  | .ldB8I _ _ _ _ => 1
  | .ldB8N _ _ _ _ => 1
  | .ldB16I _ _ _ _ => 2
  | .ldB16N _ _ _ _ => 2
  | .ldB64 _ _ _ _ => 8
  | .ldB128 _ _ _ _ => 16
  | _ => 4

def Access.width (a : Access) : Nat :=
  match a.op, a.group with
  | .sink, (g, _) :: _ => leadWidth g
  | op, _ => op.width

/-! ## Faults of an access (14 R333) -/

/-- Lanes of a logged access fault: each parks with its next word as resume PC and keeps its log entry; one that ends a
chain parks at the chain's head and keeps none (04 R95). A lane that has parked or exited since only keeps the entry. -/
def State.accessFault (s : State) (t : Site) (faults : List (Nat × Bad × Nat × Nat)) : State :=
  let a := s.access t
  match s.unit? t.blk t.unit with
  | none => s
  | some w =>
    let parks := (faults.filter (fun e => (w.lane e.1).status == .running)).map (fun e =>
      let (l, b, va, acc) := e
      let p : Park :=
        { cause := b.cause, pc := a.headPc, resume := a.chainHead.getD (w.lane l).pc, view := b.view, coord := b.coord,
          watch := b.watch, va := va, acc := acc, stamp := 0, issue := some t.id, entry := if a.chainHead.isSome then none else some t.id }
      (l, p))
    let s := faults.foldl (fun (s : State) e =>
      if a.chainHead.isSome || (w.lane e.1).status == .exited then s.laneDone t e.1
      else s.modLaneAcc t e.1 (fun x => { x with phase := .faulted })) s
    (s.takeFaults t.blk t.unit 32 parks).settleCommit t.blk

/-! ## Performing in memory -/

/-- Bytes of registers, little-endian. -/
def bytesOfWords (l : List Word) : List Byte := l.flatMap (fun x => leBytes 4 x.toNat)

/-- The home of a lane's line. -/
def LaneAcc.homeOf (x : LaneAcc) : Option Home :=
  match x.leaf, x.elems.filterMap id with
  | some l, va :: _ => some (l.home va)
  | _, _ => none

def LaneAcc.key (x : LaneAcc) (va : Nat) : Nat := match x.leaf with
  | some l => l.key va
  | none => 0

/-- Offset in its line of a virtual address. -/
def offOf (va : Nat) : Nat := va % Config.lineBytes

/-- A store of one lane: each element enters the block store buffer (R165, R166). -/
def State.doStore (s : State) (t : Site) (core m pol : Nat) (x : LaneAcc) : State :=
  match x.homeOf with
  | none => s
  | some h =>
    let bytes := bytesOfWords x.data
    let s := if pol < 2 then (if pol = 1 then s.modCore core (fun c => { c with l1 := c.l1.modify h.line (fun y => { y with first := true }) }) else s)
      else s.l1Drop core h.line
    (mapFrom 0 (fun i e => (i, e)) x.elems).foldl (fun (s : State) e =>
      match e.2 with
      | some va => s.bufStore t.blk t.unit x.lane h (offOf va) ((bytes.drop (e.1 * m)).take m) x.leaf
      | none => s) s

/-- Mark a block as having committed work (12 R281). -/
def State.markCommitted (s : State) (blk : Nat) : State :=
  s.modBlock blk (fun b => { b with committed := true, bypassed := true })

/-- An atomic that has been performed counts as committed work (12 R281); one of a poisoned line has not been (R276). -/
def State.performed (blk : Nat) (r : Option Word × State) : Option Word × State :=
  if r.1.isSome then (r.1, r.2.markCommitted blk) else r

/-- LR at the home point (R174): the word, and a reservation that ends after 1,024 cycles. -/
def State.doLr (s : State) (t : Site) (core : Nat) (h : Home) (off : Nat) (lane : Nat) : Option Word × State :=
  if s.isPoisoned (dieOf core) h then (none, s)
  else
    let s := (((s.dramRead t.blk h).l1Drop core h.line).dropFarCopy (dieOf core) h.line).lease t.blk core h
    let s := s.readsFrom t.blk h.line (maskAt off 4) none
    let v : Word := BitVec.ofNat 32 (s.rdNat (h.line * Config.lineBytes + off) 4)
    let (stamp, s) := s.fresh
    let s := s.modUnit t.blk t.unit (fun w => w.modLane lane (fun l => { l with resv := some { line := h.line, stamp := stamp } }))
    let s := s.modBlock t.blk (fun b => { b with bypassed := true })
    (some v, s.at (s.now + 1024) (.lrReservationExpiry t.blk t.n lane stamp))

/-- SC at the home point (R174): 0 where the lane's reservation held, else 1. -/
def State.doSc (s : State) (t : Site) (core : Nat) (h : Home) (off : Nat) (lane : Nat) (x : Word) :
    Option Word × State :=
  if s.isPoisoned (dieOf core) h then (none, s)
  else
    let held := match s.unit? t.blk t.unit with
      | some w => (w.lane lane).resv.map Resv.line == some h.line
      | none => false
    let s := s.modUnit t.blk t.unit (fun w => w.modLane lane (fun l => { l with resv := none }))
    if held then
      let (_, s) := s.rmw core t.blk (onlyLane t.blk t.unit lane) h off (fun _ => some x)
      (some 0, s)
    else (some 1, s.l1Drop core h.line)

/-- An atomic of one lane at the home point: the value it returns, none where the line is poisoned (R172 to R174; 12
R276). The block's buffered stores to the line are released first; where that consumes an error, nothing is performed (12 R277, R285). -/
def State.doAtomic (s : State) (t : Site) (core : Nat) (op : MemOp) (x : LaneAcc) : Option Word × State :=
  match x.homeOf, x.elems.filterMap id with
  | some h, va :: _ =>
    let s := s.releaseLine t.blk h.line
    let off := offOf va
    let arg := x.data.getD 0 0
    let f := fun (o : AtomOp) (old : Word) => some (combine o old arg (x.data.getD 1 0))
    if s.hasConsumed t.blk then (none, s)
    else match op with
    | .atom o => State.performed t.blk (s.rmw core t.blk (onlyLane t.blk t.unit x.lane) h off (f o))
    | .red o => State.performed t.blk (s.rmw core t.blk (onlyLane t.blk t.unit x.lane) h off (f o))
    | .lr => s.doLr t core h off x.lane
    | .sc => State.performed t.blk (s.doSc t core h off x.lane arg)
    | _ => (some 0, s)
  | _, _ => (some 0, s)

/-- Whether an operation gives its lane a result. -/
def MemOp.returns : MemOp → Bool
  | .load _ _ => true
  | .lds _ => true
  | .atom _ => true
  | .lr => true
  | .sc => true
  | .atoms _ => true
  | .sink => true
  | _ => false

/-- An atomic has been performed for a lane: its value is there, from a remote home, or on its way, with the logical time of the
response (11 R255), or the lane's part is over; where the line was poisoned, the block consumes an error. -/
def State.atomicDone (s : State) (t : Site) (op : MemOp) (x : LaneAcc) (v : Option Word) (remote : Bool) (time : Nat) : State :=
  match v with
  | none => s.consume t.blk Cause.UNCORRECTABLE
  | some old =>
    if op.returns then
      if remote then
        let s := match s.block? t.blk with
          | some b => s.raiseLtime b.core time
          | none => s
        ((s.putResult t x.lane [(s.access t).d] [old] x.taint).commitSoon t.blk).laneDone t x.lane
      else
        (s.modLaneAcc t x.lane (fun y => { y with value := some [old], time := time })).push (.loadResponse (respId t.id x.lane))
    else (s.commitSoon t.blk).laneDone t x.lane

/-- Cache maintenance of one lane's line (R170). -/
def State.doMaint (s : State) (t : Site) (core fn : Nat) (x : LaneAcc) : State :=
  match x.homeOf with
  | none => s
  | some h =>
    let s := if fn = 3 then s else s.releaseLine t.blk h.line
    if s.hasConsumed t.blk then s
    else
      let s := if fn = 3 then s else s.writeBack h (fn == 2)
      if fn = 2 then s else s.l1Drop core h.line

/-! ## The scratchpad (R168, R169) -/

/-- First byte of the block's window in the scratchpad. -/
def Block.winBase (b : Block) : Nat := b.tile0 * Config.tileBytes

/-- Bytes of the elements of a lane, zeros where clip mode 1 skips. -/
def spBytes (c : Core) (base m : Nat) (elems : List (Option Nat)) : List Byte :=
  elems.flatMap (fun e => match e with
    | some a => c.spRead (base + a) m
    | none => List.replicate m 0)

/-- A lane's scratchpad access reads a word whose error lies beyond its code (12 R277). -/
def spFlawedIn (c : Core) (base m : Nat) (elems : List (Option Nat)) : Bool :=
  elems.any (fun e => e.any (fun a => c.spFlawed (base + a) m))

def State.doSts (s : State) (core base m : Nat) (x : LaneAcc) : State :=
  let bytes := bytesOfWords x.data
  s.modCore core (fun c => (mapFrom 0 (fun i e => (i, e)) x.elems).foldl (fun (c : Core) e =>
    match e.2 with
    | some a => c.spWrite (base + a) ((bytes.drop (e.1 * m)).take m)
    | none => c) c)

def State.doAtoms (s : State) (core base : Nat) (o : AtomOp) (x : LaneAcc) : Word × State :=
  match x.elems.filterMap id with
  | a :: _ =>
    let old : Word := BitVec.ofNat 32 (leNat ((s.core core).spRead (base + a) 4))
    let new := combine o old (x.data.getD 0 0) (x.data.getD 1 0)
    (old, s.modCore core (fun c => c.spWrite (base + a) (leBytes 4 new.toNat)))
  | [] => (0, s)

/-- Words of a loaded value of `w` bytes: B8 and B16 extended (R164). -/
def loadWords (w : Nat) (signed : Bool) (bytes : List Byte) : List Word :=
  let x := leNat bytes
  if w < 4 then [if signed then BitVec.ofInt 32 (sextNat x (8 * w)) else BitVec.ofNat 32 (x % 2 ^ (8 * w))]
  else (List.range (w / 4)).map (fun k => BitVec.ofNat 32 (x / 2 ^ (32 * k)))

/-- A scratchpad access of one lane, performed at the bank. -/
def State.doScratch (s : State) (t : Site) (core base : Nat) (op : MemOp) (m : Nat) (x : LaneAcc) : State :=
  let answer := fun (s : State) (v : List Word) =>
    (s.modLaneAcc t x.lane (fun y => { y with phase := .passed, value := some v })).push (.loadResponse (respId t.id x.lane))
  let flaw := spFlawedIn (s.core core) base m x.elems
  match op with
  | .lds w => if flaw then s.consume t.blk Cause.UNCORRECTABLE 2
    else answer s (loadWords w false (spBytes (s.core core) base m x.elems))
  | .sts _ => (s.doSts core base m x).laneDone t x.lane
  | .atoms o =>
    if flaw then s.consume t.blk Cause.UNCORRECTABLE 2
    else
      let (old, s) := s.doAtoms core base o x
      answer s [old]
  | _ => s

/-! ## Loads -/

/-- The bytes of a line that elements of `m` bytes cover. -/
def elemMask (m : Nat) (elems : List (Option Nat)) : BitVec 128 :=
  elems.foldl (fun (k : BitVec 128) e => match e with
    | some va => k ||| maskAt (offOf va) m
    | none => k) 0

/-- Bytes of a lane's elements in a line. -/
def lineBytesOf (d : BitVec 1024) (m : Nat) (elems : List (Option Nat)) : List Byte :=
  elems.flatMap (fun e => match e with
    | some va => bytesOfLine d (offOf va) m
    | none => List.replicate m 0)

/-- A read of a line crosses the fabric: it is homed on another device, and neither L1 nor the die's LLC holds a copy. -/
def State.readsFar (s : State) (core : Nat) (h : Home) : Bool :=
  h.hdev != s.devNum && (s.l1Copy core h).isNone && !(h.tracked && s.llcHolds (dieOf core) h.line)

/-- A read of a line goes to another die or device: L1 and the die's LLC hold no copy. -/
def State.readsAway (s : State) (core : Nat) (h : Home) : Bool :=
  (h.hdev != s.devNum || h.hdie != dieOf core) && (s.l1Copy core h).isNone && !(h.tracked && s.llcHolds (dieOf core) h.line)

/-- The line of a lane's access as its block reads it: through the core, then the block's own buffered stores (R166);
energy of the lines moved (15 R366). -/
def State.readLine (s : State) (blk core : Nat) (h : Home) (pol : Nat) : BitVec 1024 × Bool × State :=
  let dram := h.hdev == s.devNum && !s.llcHolds h.hdie h.line && !(h.tracked && s.llcHolds (dieOf core) h.line)
  let far := s.readsFar core h
  let (d, bad, hit, s) := s.loadLine blk core h pol
  let s := s.count core blk (if hit then 3 else 4) 1
  let s := if hit then s else (s.addEnergy blk 8 1).addEnergy blk 9 (if dram then 2 else 0)
  let s := if far then s.sendTo blk (dieOf core) h.hdev 1 else s
  (s.blockLine blk h d, bad || s.bufFlawed blk h.line, s)

/-- The line of an address, as a run of bytes. -/
def lineRun (k : Nat) : Nat × Nat := (k / Config.lineBytes * Config.lineBytes, Config.lineBytes)

/-- The bytes that a lane's access touches, as runs of physical addresses, or of virtual ones; a whole line for maintenance, and for a
group, whose members keep to it (07 R170, R179). -/
def LaneAcc.runs (a : Access) (phys : Bool) (x : LaneAcc) : List (Nat × Nat) :=
  let m := if a.op.atomic then 4 else min a.width (recEs a.record)
  (x.elems.filterMap id).map (fun va =>
    let k := if phys then x.key va else va
    match a.op with
    | .sink => lineRun k
    | .maint _ => lineRun k
    | _ => (k, m))

/-- Two lists of runs share a byte. -/
def runsMeet (p q : List (Nat × Nat)) : Bool :=
  p.any (fun u => q.any (fun v => decide (u.1 < v.1 + v.2) && decide (v.1 < u.1 + u.2)))

/-- An earlier access of a lane (`e`, `y`) touches one of the bytes `later` of its space, or their line where it is a group; one whose
addresses are not known yet may. -/
def LaneAcc.meets (e : Access) (y : LaneAcc) (phys : Bool) (later : List (Nat × Nat)) : Bool :=
  (y.elems.isEmpty && y.phase != .passed)
    || runsMeet (y.runs e phys) (if e.op == .sink then later.map (fun r => lineRun r.1) ++ later else later)

/-- An earlier access of a lane (`e`, `y`) is ordered before a later one to the same space: they share a byte, or a line where the
earlier one is a group (10 R240). -/
def LaneAcc.clash (e : Access) (y : LaneAcc) (a : Access) (x : LaneAcc) : Bool :=
  let phys := y.leaf.isSome && x.leaf.isSome
  (e.op.spaces == [1]) == (a.op.spaces == [1]) && y.meets e phys (x.runs a phys)

/-- A read of a lane that takes no place in the log waits for the lane's logged accesses to its bytes, virtual ones (05 R117). -/
def Iss.readWaits (i : Iss) (lane va n : Nat) : Bool :=
  (i.w.entriesOf lane).any (fun e => e.op.spaces != [1]
    && e.lanes.any (fun y => y.lane == lane && y.unbound && y.meets e false [(va, n)]))

/-- An access `id` of a lane was issued before the fault that the access `key` of the lane has taken. -/
def Lane.faultedSince (l : Lane) (key id : Nat) : Bool :=
  let l := l.park.toList ++ l.held.toList
  match l.find? (fun p => p.entry == some key) with
  | some p => decide (id < p.stamp)
  | none => l.all (fun p => decide (id < p.stamp))

/-- The virtual line of a lane's access. -/
def LaneAcc.vline (x : LaneAcc) : Nat := match x.elems.filterMap id with
  | va :: _ => lineOf va
  | [] => 0

/-- A lane's access has passed its fault point, whatever it waits for. -/
def LaneAcc.past (x : LaneAcc) : Bool := x.phase == .passed || x.phase == .held || x.phase == .after

/-- The lanes of the access that touch one line and are still to be performed there, in ascending order: they are served
together (R165, R172, R174). -/
def Access.mates (a : Access) (line : Nat) : List LaneAcc :=
  a.lanes.filter (fun y => y.past && y.value.isNone && y.homeOf.any (fun h => h.line == line))

/-- An earlier access of one of the lanes that is ordered before its own (`line`) has a property, given its key and the lane; with no
line given, any earlier access of the lane. -/
def State.preceded (s : State) (t : Site) (line : Option Nat) (p : Nat → Lane → LaneAcc → Bool) (lanes : List LaneAcc) : Bool :=
  let a := s.access t
  match s.unit? t.blk t.unit with
  | some u => lanes.any (fun x => u.log.any (fun e => decide (e.1 < t.id)
      && e.2.lanes.any (fun y => y.lane == x.lane && p e.1 (u.lane x.lane) y && (line.isNone || y.clash e.2 a x))))
  | none => false

/-- An earlier access of the lane has faulted since the access was issued, or follows one that has. -/
def LaneAcc.stuckFor (id key : Nat) (l : Lane) (y : LaneAcc) : Bool := y.stuck && l.faultedSince key id

/-- One of the lanes waits for an earlier access of its own that shares a byte with it and has not bound or been performed, or for a
group on its line (10 R238, R240, R242); a lane whose group may touch any line waits for every one (07 R179). -/
def State.behind (s : State) (t : Site) (line : Option Nat) (lanes : List LaneAcc) : Bool :=
  s.preceded t line (fun key l y => y.unbound || y.stuckFor t.id key l) lanes

/-- Lanes of an access that have passed their fault point wait to be performed. -/
def State.holdLanes (s : State) (t : Site) (p : Phase) (lanes : List LaneAcc) : State :=
  s.modAccess t (fun a => { a with lanes := a.lanes.map (fun x =>
    if lanes.any (fun y => y.lane == x.lane) then { x with phase := p } else x) })

/-- Lanes of an access await their earlier accesses; behind one that has faulted, or that awaits room in the buffer, they await what it
awaits. -/
def State.awaitEarlier (s : State) (t : Site) (p : Phase) (line : Option Nat) (lanes : List LaneAcc) : State :=
  s.holdLanes t (if s.preceded t line (fun key l y => y.stuckFor t.id key l) lanes then .after
    else if s.preceded t line (fun _ _ y => y.phase == .held) lanes then .held else p) lanes

/-- Lanes of an access await room in the buffer: the commit point that makes it is due. -/
def State.holdBack (s : State) (t : Site) (lanes : List LaneAcc) : State := (s.holdLanes t .held lanes).commit t.blk

/-- Bind the load of the lanes of one line (R165): lanes that load one address get one value. They wait for the lanes' earlier
accesses to the line. -/
def State.bindLoad (s : State) (t : Site) (core : Nat) (w : Nat) (signed : Bool) (x : LaneAcc) : State :=
  let a := s.access t
  match x.homeOf with
  | none => (s.putResult t x.lane a.dests (loadWords w signed (List.replicate w 0)) x.taint).laneDone t x.lane
  | some h =>
    let lanes := a.mates h.line
    if s.behind t (some h.line) lanes then
      (s.awaitEarlier t .passed (some h.line) lanes).push (.loadResponse (respId t.id x.lane))
    else if h.tracked ∧ (s.l1Copy core h).isNone ∧ s.mayKeep (dieOf core) h = false then
      (s.dirEvict h.hdie h.line).push (.loadResponse (respId t.id x.lane))
    else
      let (d, bad, s) := s.readLine t.blk core h a.pol
      if bad then s.consume t.blk Cause.UNCORRECTABLE
      else
        let m := min w (recEs a.record)
        let s := s.readsFrom t.blk h.line (lanes.foldl (fun k y => k ||| elemMask m y.elems) 0) (some core)
        lanes.foldl (fun (s : State) y =>
          (s.putResult t y.lane a.dests (loadWords w signed (lineBytesOf d m y.elems)) y.taint).laneDone t y.lane) s

/-- Perform the store (`store`), or the maintenance, of the lanes of one line, in ascending order (R165, R170). -/
def State.bindStore (s : State) (t : Site) (store : Bool) (f : LaneAcc → State → State) (x : LaneAcc) : State :=
  match x.homeOf with
  | none => s.laneDone t x.lane
  | some h =>
    let lanes := (s.access t).mates h.line
    if s.behind t (some h.line) lanes then
      (s.awaitEarlier t .passed (some h.line) lanes).push (.loadResponse (respId t.id x.lane))
    else if store && s.roomStall t.blk h.line then
      (s.holdBack t lanes).push (.loadResponse (respId t.id x.lane))
    else lanes.foldl (fun (s : State) y => (f y s).laneDone t y.lane) s

end Sys2Proof.Machine
end

