-- ==== Sys2Proof/Machine/Slots.lean ====
section
/-! DEFINITION. Warp slots, tiles and bind records (13 R312, R313), and writes by units that are no core. -/

namespace Sys2Proof.Machine

/-! ## Writes at the home point by a unit that is no core (11 R246, R264) -/

/-- Write bytes inside one line, released after every write made before. -/
def State.unitWrite (s : State) (die : Nat) (h : Home) (off : Nat) (bytes : List Byte) : State :=
  if s.cutStore die h then (s.lostStore noCore 0 h).2
  else
  let (_, _, s) := s.stampWrite noCore 0 s.topTime h (maskAt off bytes.length) []
  (s.homeWrite h (maskAt off bytes.length) (dataAt off bytes)).clearResv h.line true (fun _ _ _ => false)

/-! ## Bind records (13 R312) -/

abbrev Bind := BitVec 128

def bindRecord (regid x y z core tile0 ntile wslot0 snap kind : Nat) : Bind :=
  BitVec.ofNat 128 (regid % 2 ^ 32 + x % 2 ^ 16 * 2 ^ 32 + y % 2 ^ 16 * 2 ^ 48 + z % 2 ^ 16 * 2 ^ 64 + core % 2 ^ 7 * 2 ^ 80
    + tile0 % 2 ^ 7 * 2 ^ 87 + ntile % 2 ^ 8 * 2 ^ 94 + wslot0 % 2 ^ 6 * 2 ^ 102 + snap % 2 ^ 12 * 2 ^ 108
    + kind % 4 * 2 ^ 120 + 2 ^ 127)

def bRegid (r : Bind) : Nat := field r 0 32
def bX (r : Bind) : Nat := field r 32 16
def bY (r : Bind) : Nat := field r 48 16
def bZ (r : Bind) : Nat := field r 64 16
def bCore (r : Bind) : Nat := field r 80 7
def bTile0 (r : Bind) : Nat := field r 87 7
def bNtile (r : Bind) : Nat := field r 94 8
def bWslot0 (r : Bind) : Nat := field r 102 6
def bSnap (r : Bind) : Nat := field r 108 12
def bKind (r : Bind) : Nat := field r 120 2

/-! ## What a core's blocks hold -/

/-- The runs of slots that a shape of `n` warps takes from a first slot (R312). -/
def slotRun (w n : Nat) (check : Bool) : List Nat :=
  let lead := (List.range n).map (w + ·)
  if check then lead ++ lead.map (32 + ·) else lead

def Block.slots (b : Block) : List Nat := slotRun b.wslot0 b.ctx.warps.length (!b.ctx.trailing.isEmpty)
def Block.tiles (b : Block) : List Nat := (List.range b.ntile).map (b.tile0 + ·)

/-- A block stands in the live bank of its core, or is being bound to it. -/
def Block.inLive (b : Block) : Bool := b.loc == .live || b.loc == .filling

/-- Blocks of a core whose windows stand there. -/
def State.onCore (s : State) (core : Nat) : List (Nat × Block) :=
  s.blocks.filter (fun e => e.2.core == core && e.2.loc != .moved && e.2.loc != .unbound)

def State.slotsHeld (s : State) (core : Nat) : List Nat :=
  (s.onCore core).flatMap (fun e => if e.2.inLive then e.2.slots else [])
def State.tilesHeld (s : State) (core : Nat) : List Nat := (s.onCore core).flatMap (fun e => e.2.tiles)

/-- The bind records that wait in a core's ring. -/
def State.ring (s : State) (core : Nat) : List Bind := (s.die (dieOf core)).rings.getD [] (core % Config.coresPerDie)

def State.setRing (s : State) (core : Nat) (l : List Bind) : State :=
  s.modDie (dieOf core) (fun d => { d with rings := d.rings.putD [] (core % Config.coresPerDie) l })

/-- Warps of a record's block: a rung warp's has one, when it goes on from its snapshot too (09 R215; 12 R286). -/
def State.bindWarps (s : State) (r : Bind) : Nat :=
  let rung := bKind r == 1 || (bKind r == 2 && s.blocks.any (fun e =>
    e.2.loc == .unbound && e.2.rung.isSome && e.2.regid == bRegid r && e.2.snapSlot == bSnap r))
  if rung then 1 else ((s.region? (bRegid r)).map Region.nwarp).getD 1
def State.bindCheck (s : State) (r : Bind) : Bool := ((s.region? (bRegid r)).map Region.check).getD false

/-- A block of a core is being bound: its record stands at the head of the ring until it starts (R315). -/
def State.beingBound (s : State) (core : Nat) : Bool := s.blocks.any (fun e => e.2.core == core && e.2.loc == .filling)

/-- Blocks of a region that are resident, or promised by a record. -/
def State.resident (s : State) (n : Nat) : Nat :=
  (s.blocks.filter (fun e => e.2.regid == n && e.2.loc != .unbound && e.2.loc != .filling)).length
    + (s.dies.map (fun e => (e.2.rings.map (fun x => (x.2.filter (fun r => bKind r != 3 && bRegid r == n)).length)).sum)).sum

/-- A region may have one more block bound (R310, R325). -/
def State.roomFor (s : State) (n : Nat) (r : Region) : Bool := r.maxBlk == 0 || decide (s.resident n < r.maxBlk)

/-- Slots and tiles that are held, or promised to a waiting record. -/
def State.slotsDue (s : State) (core : Nat) : List Nat :=
  s.slotsHeld core ++ (s.ring core).flatMap (fun r => if bKind r = 3 then [] else slotRun (bWslot0 r) (s.bindWarps r) (s.bindCheck r))
def State.tilesDue (s : State) (core : Nat) : List Nat :=
  s.tilesHeld core ++ (s.ring core).flatMap (fun r => if bKind r = 3 then [] else (List.range (bNtile r)).map (bTile0 r + ·))

/-- Blocks in a core's live bank, or on their way there. -/
def State.liveDue (s : State) (core : Nat) : Nat :=
  ((s.onCore core).filter (fun e => e.2.loc == .live)).length + ((s.ring core).filter (fun r => bKind r != 3)).length

/-- Places on a core that ladders have in reserve: first tile, tiles, slots (R314). -/
def State.reservedOn (s : State) (core : Nat) : List (Nat × Nat × List Nat) :=
  s.ladders.flatMap (fun e => match s.region? (field e.2.desc 64 32) with
    | some r => (e.2.reserve.filter (fun x => x.1 == core)).map (fun x => (x.2.1, r.ntile, slotRun x.2.2 1 r.check))
    | none => [])

/-- Those, and what is in a ladder's reserve. -/
def State.slotsTaken (s : State) (core : Nat) : List Nat := s.slotsDue core ++ (s.reservedOn core).flatMap (fun x => x.2.2)
def State.tilesTaken (s : State) (core : Nat) : List Nat :=
  s.tilesDue core ++ (s.reservedOn core).flatMap (fun x => (List.range x.2.1).map (x.1 + ·))

/-- Blocks of a core, with those for which a reserve is kept. -/
def State.liveTaken (s : State) (core : Nat) : Nat :=
  s.liveDue core + ((s.reservedOn core).filter (fun x => !x.2.2.any (s.slotsDue core).contains)).length

/-- The first of the values from `lo` to `hi` whose `run` meets nothing held. -/
def firstRun (held : List Nat) (run : Nat → List Nat) (lo hi : Nat) : Option Nat :=
  ((List.range (hi + 1 - lo)).map (lo + ·)).find? (fun a => !(run a).any held.contains)

/-- First tile and first slot at which a block of a shape fits a core: tiles 0 to 31 for class 0 alone (02 R54), a
checked block's leading warps below slot 32 (R313), four blocks at most (02 R29). -/
def State.fit (s : State) (core cls ntile nwarp : Nat) (check : Bool) : Option (Nat × Nat) :=
  let lim := if check then 32 else 64
  if 128 < ntile ∨ lim < nwarp ∨ 4 ≤ s.liveTaken core then none
  else
    let tile := if ntile = 0 then some 0
      else firstRun (s.tilesTaken core) (fun a => (List.range ntile).map (a + ·)) (if cls = 0 then 0 else 32) (128 - ntile)
    let slot := firstRun (s.slotsTaken core) (fun a => slotRun a nwarp check) 0 (lim - nwarp)
    match tile, slot with
    | some t, some w => some (t, w)
    | _, _ => none

/-- A core on which a region's blocks may be bound: of its partition, on a die of DIEMASK that is enabled and not fenced
(R310; 00 R4; 12 R298). -/
def State.coreFor (s : State) (r : Region) (c : Nat) : Bool :=
  (s.core c).part == r.part && natBit r.dieMask.toNat (dieOf c) && natBit s.boot.clus.toNat (clusterOf c) && !s.fencedBy r.die (dieOf c)

/-- One of the places on the cores listed at which a block fits; which of them is a free choice. -/
def State.place (s : State) (cores : List Nat) (cls ntile nwarp : Nat) (check : Bool) : Option (Nat × Nat × Nat) :=
  let l := cores.filterMap (fun c => (s.fit c cls ntile nwarp check).map (fun e => (c, e.1, e.2)))
  if l.isEmpty then none else l[Config.choice s.now % l.length]?

end Sys2Proof.Machine
end

