-- ==== Sys2Proof/Machine/Ladder.lean ====
section
/-! DEFINITION. The ladder unit (09 R213 to R218; 13 R314, R325): descriptors, queues, frames, release. -/

namespace Sys2Proof.Machine

/-! ## The descriptor (R213) -/

abbrev Desc := BitVec 1024

def dRungs (d : Desc) : Nat := field d 0 2 + 1
def dInOrder (d : Desc) : Bool := field d 2 1 == 1
def dResv (d : Desc) : Nat := field d 8 7
def dFpv (d : Desc) : Nat := field d 16 7
def dFtmo (d : Desc) : Nat := field d 24 16
def dClus (d : Desc) : Nat := field d 40 4
def dDie (d : Desc) : Nat := field d 44 2
def dRegion (d : Desc) : Nat := field d 64 32
def dParam (d : Desc) : Nat := field d 96 32
def dEntry (d : Desc) (k : Nat) : Nat := field d (128 * k + 128) 32
def dRegs (d : Desc) (k : Nat) : Nat := field d (128 * k + 160) 6
def dFrame (d : Desc) (k : Nat) : Nat := if k < dRungs d then field d (128 * k + 168) 5 else 0
def dStarve (d : Desc) (k : Nat) : Nat := field d (128 * k + 176) 16
def dMaxw (d : Desc) (k : Nat) : Nat := field d (128 * k + 192) 7
def dRelThru (d : Desc) : Nat := field d 640 32
def dLost (d : Desc) : Nat := field d 672 32

/-- Reserved bits are zero and fields in range; rung fields at or above the rung count do not matter. -/
def descOk (d : Desc) : Bool :=
  field d 3 5 == 0 && field d 15 1 == 0 && field d 23 1 == 0 && field d 46 18 == 0 && field d 704 320 == 0
    && decide (dClus d < 12) && dFrame d 0 == 0
    && (List.range (dRungs d)).all (fun k =>
      dEntry d k % 4 == 0 && decide (2 ≤ dRegs d k) && decide (dRegs d k ≤ 56) && field d (128 * k + 166) 2 == 0
        && decide (dFrame d k ≤ 16) && field d (128 * k + 173) 3 == 0 && decide (1 ≤ dStarve d k)
        && decide (1 ≤ dMaxw d k) && decide (dMaxw d k ≤ 64) && field d (128 * k + 199) 57 == 0)

/-- Some rung of the ladder has frames. -/
def dFrames (d : Desc) : Bool := (List.range 4).any (fun k => dFrame d k != 0)

/-! ## Reaching memory at the home point -/

/-- What reaching for something in memory finds: it, a precise fault, or an uncorrectable error. -/
inductive Found (α : Type) where
  | ok (x : α)
  | fault (p : Park)
  | poison

/-- A shape record for a core's thread of a region, with the precise faults of fetching it; `at'` fills in where they are taken. -/
def State.viewOf (s : State) (core regid : Nat) (r : Region) (at' : Nat → Park) (view : Nat) : Found Record × State :=
  match s.record core regid r view with
  | (.ok r, s) => (.ok r, s)
  | (.fault c acc va, s) => (.fault { at' c with acc := acc, va := va }, s)
  | (.poison, s) => (.poison, s)

/-- A ladder view: its record's conditions (R213). -/
def ladderViewOk (r : Record) : Bool :=
  recordOk r && recSpace r == 0 && recRank r == 1 && recType r == 13 && decide (8 ≤ recExt r 0) && recBase r % 128 == 0

/-- A result view: space 0 or 3, rank 1, I32, N32 or F32. -/
def resultViewOk (r : Record) : Bool :=
  recordOk r && (recSpace r == 0 || recSpace r == 3) && recRank r == 1 && decide (4 ≤ recType r) && decide (recType r ≤ 6)

/-- A frame-pool view: space 0, rank 2, N32, rows of 16 words, 1 to 4,096 of them. -/
def poolViewOk (r : Record) : Bool :=
  recordOk r && recSpace r == 0 && recRank r == 2 && recType r == 5 && recExt r 0 == 16 && decide (1 ≤ recExt r 1)
    && decide (recExt r 1 ≤ 4096)

/-- The frames of a ladder's pool; a view of the wrong shape is a fault of the ladder view (R213). RESV and FPV are views of the
issuer's region here, and of the rung's region where its warps return, escalate and load frames: R213 does not say whose table its
numbers name (DESIGN CHOICE, notes/assumptions/77). -/
def State.ladderShape (s : State) (core regid : Nat) (r : Region) (at' : Nat → Park) (v : Nat) (d : Desc) : Found Nat × State :=
  let bad : Found Nat := .fault { at' Cause.VIEW_BAD with view := viewWord v 0 }
  match s.viewOf core regid r at' (dResv d) with
  | (.poison, s) => (.poison, s)
  | (.fault p, s) => (.fault p, s)
  | (.ok x, s) =>
    if !resultViewOk x then (bad, s)
    else if !dFrames d then (if dFpv d = 0 then .ok 0 else bad, s)
    else match s.viewOf core regid r at' (dFpv d) with
      | (.poison, s) => (.poison, s)
      | (.fault p, s) => (.fault p, s)
      | (.ok f, s) => (if poolViewOk f then .ok (recExt f 1) else bad, s)

/-- READ a descriptor, as the unit does at a ladder's first LADR, and again after every point at which the ladder held no items (R213; 17
R369). What has not yet been written back, and what waits, stand on from before. -/
def State.readLadder (s : State) (core regid : Nat) (r : Region) (at' : Nat → Park) (v key : Nat) (h : Home) (old : Option Ladder) :
    Found Ladder × State :=
  let s := s.demandAt h
  let d : Desc := BitVec.ofNat 1024 (s.rdNat key 128)
  if s.isPoisoned (dieOf core) h then (.poison, s)
  else if !descOk d then (.fault { at' Cause.VIEW_BAD with view := viewWord v 0 }, s)
  else match s.ladderShape core regid r at' v d with
    | (.poison, s) => (.poison, s)
    | (.fault p, s) => (.fault p, s)
    | (.ok frames, s) =>
      let l : Ladder :=
        { die := dDie d, cluster := dClus d, part := r.part, key := key, hdie := h.hdie, tracked := h.tracked, desc := d
          freeFrames := List.range frames, relThru := dRelThru d, written := dRelThru d, lost := dLost d }
      (.ok (match old with
        | none => l
        | some o =>
          let due := o.written != o.relThru
          let thru := if due then o.relThru else dRelThru d
          { l with
            relThru := thru, written := if due then o.written else thru, owed := o.owed, arrivals := o.arrivals
            retired := if o.relThru = thru then o.retired else [] }), s)

/-! ## State of a ladder -/

def listAt {α : Type} (l : List α) (k : Nat) (d : α) : α := (l[k]?).getD d

def Ladder.queue (l : Ladder) (k : Nat) : List Item := listAt l.queues k []
def Ladder.inFlight (l : Ladder) (k : Nat) : Nat := listAt l.flight k 0

/-- The ladder whose descriptor stands at a key. -/
def State.ladderAt (s : State) (key : Nat) : Option (Nat × Ladder) := s.ladders.find? (fun e => e.2.key == key)

/-- Items of a ladder that lanes hold. -/
def State.laneItems (s : State) (lid : Nat) : Nat :=
  s.blocks.foldl (fun n e => match e.2.rung with
    | some (l, _) => if l = lid then
        n + (e.2.ctx.warps.map (fun w => (w.lanes.filter (fun x => x.item.isSome)).length)).sum else n
    | none => n) 0

/-- Items in a ladder, queued or in flight. -/
def State.ladderItems (s : State) (lid : Nat) : Nat :=
  match s.ladders.get? lid with
  | none => 0
  | some l => (l.queues.map List.length).sum + (l.launched.map (fun x => x.items.length)).sum + s.laneItems lid

/-- Items queued at a ladder unit, over all its ladders (R214). -/
def State.unitQueued (s : State) (die cluster : Nat) : Nat :=
  s.ladders.foldl (fun n e => if e.2.die = die ∧ e.2.cluster = cluster then n + (e.2.queues.map List.length).sum else n) 0

/-- Write a word of the descriptor, with a release (R218). -/
def State.ladderWrite (s : State) (lid bit x : Nat) : State :=
  match s.ladders.get? lid with
  | none => s
  | some l =>
    s.unitWrite l.die { line := lineOf l.key, hdie := l.hdie, hdev := s.devNum, tracked := l.tracked }
      (l.key % Config.lineBytes + bit / 8) (leBytes 4 x)

/-- RELTHRU goes to the descriptor, once the LRET writes of the items that it releases are complete (R218; 11 R260, R264). The advances
of one LRET go as one write: R218 lets the unit write each, or several as one (DESIGN CHOICE, notes/assumptions/98). -/
def State.writeThru (s : State) (lid : Nat) : State :=
  match s.ladders.get? lid with
  | none => s
  | some l =>
    let open' := l.owed.filter (fun e => (s.acks.get? e.2).isSome)
    let s := s.modLadder lid (fun l => { l with owed := open' })
    if l.written = l.relThru ∨ open'.any (fun e => !l.retired.contains e.1) then s
    else (s.ladderWrite lid 640 l.relThru).modLadder lid (fun l => { l with written := l.relThru })

/-- A ladder that holds no items is read anew before it takes the next (R213), and its reserve goes back to Villek. -/
def State.ladderSettle (s : State) (lid : Nat) : State :=
  let s := s.writeThru lid
  if s.ladderItems lid = 0 then s.modLadder lid (fun l => { l with held := false, reserve := [] }) else s

/-! ## Launching (R215) -/

/-- A rung is to launch a warp: below MAXW, with 32 items, or the oldest starved. -/
def Ladder.ready (l : Ladder) (cycles k : Nat) : Bool :=
  decide (l.inFlight k < dMaxw l.desc k) && (match l.queue k with
    | [] => false
    | x :: _ => decide (32 ≤ (l.queue k).length) || decide (x.since + 64 * dStarve l.desc k ≤ cycles))

/-- Whether a step launches a warp of a rung. -/
def isLaunch (lid k : Nat) : Instr → Bool
  | .ladderWarpLaunch l r _ _ _ => l == lid && r == k
  | _ => false

/-- Cores of a cluster of a die. -/
def clusterCores (die cluster : Nat) : List Nat :=
  (List.range Config.coresPerCluster).map (fun c => die * Config.coresPerDie + cluster * Config.coresPerCluster + c)

/-- Add a place to a ladder's reserve: slots and tiles for one rung warp on a core of its cluster (13 R314). -/
def State.grantOne (s : State) (lid : Nat) (r : Region) (l : Ladder) : State :=
  match s.place ((clusterCores l.die l.cluster).filter (s.coreFor r)) r.cls r.ntile 1 r.check with
  | some x => s.modLadder lid (fun l => { l with reserve := l.reserve ++ [x] })
  | none => s

/-- GRANT a ladder its reserve (13 R314): room for some rung warps, no more than its rungs can have in flight. How many is
Villek's choice; one that finds no room at the first LADR is granted later (notes/assumptions/79). -/
def State.grant (s : State) (lid : Nat) : State :=
  match s.ladders.get? lid with
  | none => s
  | some l => match s.region? (dRegion l.desc) with
    | none => s
    | some r =>
      if !l.held || !l.reserve.isEmpty then s
      else
        let most := ((List.range (dRungs l.desc)).map (dMaxw l.desc)).sum
        (List.range (1 + Config.choice s.now % most)).foldl (fun (s : State) _ => s.grantOne lid r l) s

/-- Places of a ladder's reserve that are free, on cores that are still the partition's. -/
def State.freeReserve (s : State) (l : Ladder) (r : Region) : List (Nat × Nat × Nat) :=
  l.reserve.filter (fun (core, t, w) => s.coreFor r core && !(((List.range r.ntile).map (t + ·)).any (s.tilesDue core).contains)
    && !((slotRun w 1 r.check).any (s.slotsDue core).contains) && decide (s.liveDue core < 4))

/-- Launch a rung's warp where it is to launch, and the ladder's reserve has room (13 R314). -/
def State.ladderPump (s : State) (lid k : Nat) : State :=
  let s := s.grant lid
  match s.ladders.get? lid with
  | none => s
  | some l => match s.region? (dRegion l.desc) with
    | none => s
    | some r =>
      if !l.ready (s.dieCycles l.die) k || s.agenda.any (isLaunch lid k) || !s.roomFor (dRegion l.desc) r then s
      else
        let free := s.freeReserve l r
        match free[Config.choice s.now % free.length]? with
        | some (core, t, w) => s.push (.ladderWarpLaunch lid k core t w)
        | none => s

/-- Every rung of every ladder of a cluster, where slots or tiles have become free. -/
def State.pumpCluster (s : State) (die cluster : Nat) : State :=
  s.ladders.foldl (fun (s : State) e =>
    if e.2.die = die ∧ e.2.cluster = cluster then (List.range 4).foldl (fun (s : State) k => s.ladderPump e.1 k) s else s) s

/-- Every rung of the ladders that launch in a region. -/
def State.pumpLadders (s : State) (regid : Nat) : State :=
  s.ladders.foldl (fun (s : State) e =>
    if dRegion e.2.desc = regid then (List.range 4).foldl (fun (s : State) k => s.ladderPump e.1 k) s else s) s

/-- The starvation clock of a rung's oldest item runs (13, Ladder packing). -/
def State.starveClock (s : State) (lid k : Nat) : State :=
  match s.ladders.get? lid with
  | none => s
  | some l => match l.queue k with
    | x :: _ => s.at (s.now + (x.since + 64 * dStarve l.desc k - s.dieCycles l.die)) (.ladderStarvation lid k)
    | [] => s

/-- ENQUEUE an item at a rung. -/
def State.enqueue (s : State) (lid k id : Nat) (frame : Option Nat) : State :=
  match s.ladders.get? lid with
  | none => s
  | some l =>
    let first := (l.queue k).isEmpty
    let s := s.modLadder lid (fun l => { l with queues := listMod l.queues k (· ++ [{ id := id, frame := frame, since := s.dieCycles l.die }]) })
    (if first then s.starveClock lid k else s).ladderPump lid k

/-! ## Accepting items (R214) -/

/-- The distance of an id ahead of RELTHRU. -/
def Ladder.ahead (l : Ladder) (id : Nat) : Nat := (id + 2 ^ 32 - l.relThru) % 2 ^ 32

/-- An item can be accepted now. -/
def State.accepts (s : State) (l : Ladder) (id : Nat) : Bool :=
  decide (s.unitQueued l.die l.cluster < Config.ladderItems)
    && (!dInOrder l.desc || decide (l.ahead id < 4096) || decide (2 ^ 31 ≤ l.ahead id))

/-- The next id of a submission, and what is left. -/
def Submission.next (x : Submission) : Option (Nat × Submission) :=
  match x.ids with
  | i :: rest => some (i, { x with ids := rest })
  | [] => if x.count = 0 then none
      else some (x.first, { x with first := (x.first + 1) % 2 ^ 32, count := x.count - 1 })

/-- Accept what can be accepted of a submission; what is left of it, and the state. Its items are taken in order: one that the unit
could accept at once stands behind an earlier one of the same LADR that waits, since 09 R214 accepts it at once and R216 enqueues in lane
order (DESIGN CHOICE, notes/assumptions/77). An accepted item stands, and the snapshot follows it (12 R287): a block that
consumes an error before is not rolled back to submit it again. -/
def State.acceptFrom (s : State) (lid : Nat) : Nat → Submission → Option Submission × State
  | 0, x => (some x, s)
  | n + 1, x =>
    match x.next, s.ladders.get? lid with
    | some (id, rest), some l =>
      if s.accepts l id then
        ((s.enqueue lid 0 id none).modBlock x.block (fun b => { b with committed := true, bypassed := true })).acceptFrom lid n rest
      else (some x, s)
    | _, _ => (none, s)

/-- The lanes of a submission that has been accepted whole go on. -/
def State.submitted (s : State) (x : Submission) : State :=
  (s.modUnit x.block (UnitRef.ofNum x.unit) (fun w =>
    let m := w.lanesWhere (fun l => l.wait == .submit x.mark)
    (w.modLanes m (fun _ l => { l with wait := .none })).goPast m)).commitSoon x.block

/-- The lanes of a submission that the unit turns away fault at their LADR. -/
def State.turnAway (s : State) (x : Submission) (p : Park) : State :=
  let u := UnitRef.ofNum x.unit
  match s.unit? x.block u with
  | none => s
  | some w =>
    let m := w.lanesWhere (fun l => l.wait == .submit x.mark)
    let pc := (w.lane (lowest m)).pc
    (s.modUnit x.block u (fun w => w.modLanes m (fun _ l => { l with wait := .none }))).takeFault x.block u m
      (fun _ => { p with pc := pc, resume := pc })

/-- Before it takes items again, the descriptor of a ladder that has held none is read anew for a waiting LADR; one that cannot be turns
the LADR away (R213). Answers whether the ladder is held. -/
def State.heldFor (s : State) (lid : Nat) (x : Submission) : Bool × State :=
  match s.ladders.get? lid, s.block? x.block with
  | some l, some b =>
    if l.held then (true, s)
    else match s.region? b.regid with
      | none => (true, s)
      | some r =>
        let h : Home := { line := lineOf l.key, hdie := l.hdie, hdev := s.devNum, tracked := l.tracked }
        match s.readLadder b.core b.regid r (fun c => { cause := c, pc := 0, resume := 0, view := 0, coord := 0, stamp := 0 }) x.view l.key h
            (some l) with
        | (.ok l, s) => (true, { s with ladders := s.ladders.put lid l })
        | (.fault p, s) => (false, s.turnAway x p)
        | (.poison, s) => (false, s.consume x.block Cause.UNCORRECTABLE)
  | _, _ => (true, s)

/-- Waiting submissions of a ladder go on, those of a block that has been killed since included: 09 R214 is silent on them (DESIGN
CHOICE, notes/assumptions/77). -/
def State.acceptMore (s : State) (lid : Nat) : State :=
  match s.ladders.get? lid with
  | none => s
  | some l =>
    let s := s.modLadder lid (fun l => { l with arrivals := [] })
    l.arrivals.foldl (fun (s : State) x =>
      if ((s.ladders.get? lid).bind (fun l => x.next.map (fun y => s.accepts l y.1))).getD true then
        match s.heldFor lid x with
        | (false, s) => s
        | (true, s) => match s.acceptFrom lid (Config.ladderItems + 1) x with
          | (none, s) => s.submitted x
          | (some y, s) => s.modLadder lid (fun l => { l with arrivals := l.arrivals ++ [y] })
      else s.modLadder lid (fun l => { l with arrivals := l.arrivals ++ [x] })) s

/-! ## Frames (R216, R370) -/

/-- Lanes of a ladder that wait for a frame try again. Whether they get it before a LESC that another warp issues meanwhile the spec does
not say: they issue theirs anew, and the first to issue has it (DESIGN CHOICE, notes/assumptions/99). -/
def State.wakeFrames (s : State) (lid : Nat) : State :=
  { s with blocks := s.blocks.mapVals (fun b =>
      if b.rung.map Prod.fst = some lid then
        { b with ctx := { b.ctx with warps := b.ctx.warps.map (fun (w : Warp) => { w with lanes := w.lanes.map (fun (l : Lane) =>
            if l.wait = .frame then { l with wait := .none } else l) }) } }
      else b) }

/-- FREE a frame: the pool keeps them in order. -/
def State.freeFrame (s : State) (lid : Nat) : Option Nat → State
  | none => s
  | some f => (s.modLadder lid (fun l =>
      { l with freeFrames := l.freeFrames.filter (· < f) ++ [f] ++ l.freeFrames.filter (f < ·) })).wakeFrames lid

/-! ## Retiring (R217, R218) -/

/-- RELTHRU moves over every contiguous retired id; `fuel` is their count. -/
def Ladder.advance : Nat → Ladder → Ladder
  | 0, l => l
  | n + 1, l =>
    if l.retired.contains l.relThru then
      Ladder.advance n { l with retired := l.retired.erase l.relThru, relThru := (l.relThru + 1) % 2 ^ 32 }
    else l

/-- RETIRE an item, with the number of its LRET's write where it has one: in in-order mode RELTHRU advances, and submissions
that waited for it go on. -/
def State.retire (s : State) (lid id : Nat) (write : Option Nat) : State :=
  match s.ladders.get? lid with
  | none => s
  | some l =>
    if !dInOrder l.desc || decide (2 ^ 31 ≤ l.ahead id) then s.acceptMore lid
    else
      let l' := Ladder.advance (l.retired.length + 1) { l with retired := id :: l.retired.erase id }
      let owed := (write.map (fun k => (id, k))).toList ++ l.owed
      ((s.modLadder lid (fun _ => { l' with owed := owed })).writeThru lid).acceptMore lid

/-- An item ends without LRET or LESC: its frame is free, LOST counts it, and it retires with no result (R217). -/
def State.loseItem (s : State) (lid id : Nat) (frame : Option Nat) : State :=
  let s := s.modLadder lid (fun l => { l with lost := (l.lost + 1) % 2 ^ 32 })
  let s := match s.ladders.get? lid with
    | some l => s.ladderWrite lid 672 l.lost
    | none => s
  ((s.freeFrame lid frame).retire lid id none).ladderSettle lid

/-- Take the item of a lane of a rung warp. -/
def State.takeItem (s : State) (blk l : Nat) : State :=
  s.modUnit blk (.warp 0) (fun w => w.modLane l (fun x => { x with item := none, frame := none, stamp := 0 }))

/-- Lanes of a rung warp that end with an item lose it, in ascending order (R217). -/
def State.loseItems (s : State) (blk : Nat) (lanes : Word) : State :=
  match s.block? blk with
  | none => s
  | some b => match b.rung, b.ctx.warps with
    | some (lid, _), w :: _ => (lanesOf lanes).foldl (fun (s : State) l =>
        match (w.lane l).item with
        | some id => (s.takeItem blk l).loseItem lid id (w.lane l).frame
        | none => s) s
    | _, _ => s

/-- Items of an aborted region's ladders leave the queues as lost (13 R325). What waits for acceptance is dropped, and its LADR goes on as
if it had been accepted: the spec speaks only of items in a rung queue (DESIGN CHOICE, notes/assumptions/96). -/
def State.abortLadders (s : State) (regid : Nat) : State :=
  s.ladders.foldl (fun (s : State) e =>
    if dRegion e.2.desc ≠ regid ∨ (!e.2.held && e.2.arrivals.isEmpty) then s
    else
      let gone := fun (k : Nat) => (e.2.launched.filter (fun x => x.rung == k)).length
      let s := s.modLadder e.1 (fun l =>
        { l with queues := [[], [], [], []], launched := [], arrivals := [], flight := mapFrom 0 (fun k n => n - gone k) l.flight })
      let s := e.2.arrivals.foldl (fun (s : State) x => s.submitted x) s
      (e.2.queues.flatten ++ e.2.launched.flatMap Launched.items).foldl (fun (s : State) x => s.loseItem e.1 x.id x.frame) s) s

/-- A ladder that launches in a region holds items (13 R325). -/
def State.ladderHolds (s : State) (regid : Nat) : Bool :=
  s.ladders.any (fun e => dRegion e.2.desc == regid && ((e.2.held && s.ladderItems e.1 != 0) || !e.2.arrivals.isEmpty))

end Sys2Proof.Machine
end

