-- ==== Sys2Proof/Machine/Control.lean ====
section
/-! DEFINITION. Control flow, rejoin sets, loops, barriers (chapter 05). -/

namespace Sys2Proof.Machine

/-! ## Branches and calls (05 R109 to R112, R126, R127) -/

/-- Whether a taken branch to `t` by lane `l` would step back into a level that ends at the word (R127): the level. -/
def Iss.backIn (i : Iss) (l t : Nat) : Option Nat :=
  let hit := fun (x : Loop) => x.active && x.endPc == i.pc && inMask x.entry l && x.inside t
  if hit i.w.lc1 then some 1 else if hit i.w.lc0 then some 0 else none

/-- Levels whose body the word lies in, and the target does not (R126). -/
def Iss.leaves (i : Iss) (t : Nat) : List Nat :=
  [1, 0].filter (fun k => (i.w.level k).inside i.pc && !(i.w.level k).inside t)

/-- Send lanes to their targets: a lane that leaves a loop body leaves the level. -/
def State.goto (s : State) (i : Iss) (leave : Bool) (targets : List (Nat × Nat)) : State :=
  s.modUnit i.blk i.u (fun w =>
    let w := targets.foldl (fun (w : Warp) e =>
      let w := w.modLane e.1 (fun l => { l with pc := e.2 % 2 ^ 32 })
      if leave then (i.leaves e.2).foldl (fun (w : Warp) k => w.leave k (laneBit e.1)) w else w) w
    w.loopCheck)

/-- Take a branch in the lanes listed: a misaligned target, or one back into a body that ends here, is a fault of its
lane; the others go. %trapcoord of that LOOP_FORM holds the level, as 05 R124 has it for loop words: no rule gives it for a loop end
(DESIGN CHOICE, notes/assumptions/78). -/
def State.jump (s : State) (i : Iss) (leave : Bool) (targets : List (Nat × Nat)) : State × Word :=
  let (bad, rest) := targets.partition (fun e => e.2 % 4 != 0)
  let (back, good) := rest.partition (fun e => leave && (i.backIn e.1 e.2).isSome)
  let s := s.goto i leave good
  let s := s.takeFaults i.blk i.u 32 (bad.map (fun e => (e.1, i.fault Cause.ALIGN)))
  let s := s.takeFaults i.blk i.u 32 (back.map (fun e =>
    (e.1, { i.fault Cause.LOOP_FORM with coord := BitVec.ofNat 32 ((i.backIn e.1 e.2).getD 0) })))
  (s, maskOf (good.map Prod.fst))

/-- PC of a word offset from the word (04 R83). -/
def Iss.target (i : Iss) {n : Nat} (o : BitVec n) : Nat := (BitVec.ofNat 32 i.pc + 4 * o.signExtend 32).toNat

/-- CALL and CALLX leave the return address in v55 of the lanes that go. -/
def State.link (s : State) (i : Iss) (lanes : Word) : State :=
  s.modUnit i.blk i.u (fun w => w.modLanes lanes (fun _ l => l.setReg 55 (BitVec.ofNat 32 (nextPc i.pc))))

/-- Attributes of a control instruction: no value, no place in a chain (R108). -/
def ctlAttr (maj fn : Nat) (p : BitVec 4) (a : BitVec 6) (noEnd front : Bool) : Attr :=
  { maj := maj, fn := fn, p := some p, legal := src a, rv := [a], noEnd := noEnd, front := front }

/-- BRA (05 R110): the active lanes go to the target. -/
def execBra (p : BitVec 4) (o : BitVec 22) (s : State) :
    Host.Outcome State Fault Refusal :=
  s.issue (ctlAttr 0x18 0 p 56 false true) always never
    (fun i s => s.jump i true ((lanesOf i.act).map (fun l => (l, i.target o))))

/-- CALL (05 R110): v55 keeps the return address, the active lanes go to the target. -/
def execCall (p : BitVec 4) (o : BitVec 22) (s : State) :
    Host.Outcome State Fault Refusal :=
  s.issue { ctlAttr 0x19 0 p 56 true false with wv := [55] } always never (fun i s =>
    let r := s.jump i false ((lanesOf i.act).map (fun l => (l, i.target o)))
    (r.1.link i r.2, r.2))

/-- BRX (05 R110): the active lanes go to the target in A. -/
def execBrx (p : BitVec 4) (a : BitVec 6) (s : State) :
    Host.Outcome State Fault Refusal :=
  s.issue (ctlAttr 0x1A 0 p a false false) always never
    (fun i s => s.jump i true ((lanesOf i.act).map (fun l => (l, (i.op l a).1.toNat))))

/-- CALLX (05 R110): as CALL, to the target in A. -/
def execCallx (p : BitVec 4) (a : BitVec 6) (s : State) :
    Host.Outcome State Fault Refusal :=
  s.issue { ctlAttr 0x1A 1 p a true false with wv := [55] } always never (fun i s =>
    let r := s.jump i false ((lanesOf i.act).map (fun l => (l, (i.op l a).1.toNat)))
    (r.1.link i r.2, r.2))

/-- RET (05 R110): the active lanes go to the address in v55. -/
def execRet (p : BitVec 4) (s : State) :
    Host.Outcome State Fault Refusal :=
  s.issue { ctlAttr 0x1A 2 p 56 true false with rr := [55] } always never
    (fun i s => s.jump i true ((lanesOf i.act).map (fun l => (l, ((i.w.lane l).reg 55).toNat))))

/-- Conditions of SBR (R111). -/
def sbrTaken (c : BitVec 4) (x y : Word) : Bool :=
  match c.toNat with
  | 0 => x == y
  | 1 => x != y
  | 2 => x.slt y
  | 3 => y.sle x
  | 4 => x.ult y
  | 5 => y.ule x
  | _ => true

/-- SBR (05 R111): where the compare of SA and SB holds, the whole path goes to the target. -/
def execSbr (c : BitVec 4) (a b : BitVec 5) (o : BitVec 12) (s : State) :
    Host.Outcome State Fault Refusal :=
  s.issue
    { maj := 0x15, legal := decide (c.toNat < 6) || (c == 6 && a == 0 && b == 0), front := true,
      rs := if c = 6 then [] else [a.toNat, b.toNat] }
    always never (fun i s =>
      if sbrTaken c (i.s a) (i.s b) then s.jump i true ((lanesOf i.act).map (fun l => (l, i.target o))) else (s, 0))

/-! ## EXIT, YIELD, NOP, BRK, NEXT (05 R113 to R117) -/

/-- The status that EXIT's A names: in the front thread codes 0 to 31 are scalar registers (02 R44). -/
def Iss.status (i : Iss) (l : Nat) (a : BitVec 6) : BitVec 8 :=
  if i.front then (if a = 56 then 0 else ((i.w.sRead i.act a.toNat).setWidth 8)) else (i.op l a).1.setWidth 8

/-- Whether the front thread's EXIT awaits a token in its status register. -/
def Iss.statusStall (i : Iss) (a : BitVec 6) : Bool := i.front && (i.w.pend.get? (i.w.sKey i.act a.toNat)).isSome

/-- EXIT (05 R113): the active lanes exit, their statuses enter the block status. -/
def execExit (p : BitVec 4) (a : BitVec 6) (s : State) :
    Host.Outcome State Fault Refusal :=
  s.issue
    { ctlAttr 0x1A 3 p 56 false true with
      rv := [a], serial := true, cmp := some (fun i _ => (lanesOf i.act).map (fun l => (i.status l a).toNat)) }
    (fun i _ => if i.front then decide (a.toNat < 32) || a == 56 else src a)
    (fun i _ => i.statusStall a)
    (straight (fun i s =>
      (if i.trailing then s else s.loseItems i.blk i.act).exitLanes i.blk i.u i.act (fun l => i.status l a)))

/-- YIELD (05 R115): the path and its warp stand back for one choice. -/
def execYield (p : BitVec 4) (s : State) :
    Host.Outcome State Fault Refusal :=
  s.issue (ctlAttr 0x1A 4 p 56 false true) always never
    (straight (fun i s => s.modUnit i.blk i.u (fun w => { w with yieldLanes := i.path, yielded := true })))

/-- NOP (05 R115): the active lanes go on. -/
def execNop (p : BitVec 4) (s : State) :
    Host.Outcome State Fault Refusal :=
  s.compute (ctlAttr 0x1A 5 p 56 false true) (fun _ s => s)

/-- BRK (05 R115): every active lane takes BRK and resumes past the word. -/
def execBrk (p : BitVec 4) (s : State) :
    Host.Outcome State Fault Refusal :=
  s.issue { ctlAttr 0x1A 7 p 56 false true with mirror := false } always never
    (straight (fun i s => s.takeFault i.blk i.u i.act (fun _ => { i.fault Cause.BRK with resume := nextPc i.pc })))

/-- What reading a segment entry finds (R116). -/
inductive Segment where
  | target (pc : Nat)
  | fault (p : Park)
  | poison
  deriving DecidableEq, Repr

/-- Read the entry of segment `k` (R116, R117): as a load through the core, of the block's own stores first. The code that it
leads to is fetched afresh (14 R384). -/
def State.segment (s : State) (i : Iss) (k : Nat) : Segment × State :=
  if i.r.segCnt ≤ k then (.fault (i.fault Cause.PROT), s)
  else
    let va := i.r.segBase + 4 * k
    match s.watchHits i.core i.r.part i.b.regid 1 [(va, 4)] with
    | u :: us => (.fault ((i.fault 0).watching (u :: us)), s)
    | [] =>
      match s.translate i.core i.r.part va { r := true } 0 false with
      | (.fault c acc, s) => (.fault { i.fault c with va := va, acc := acc }, s)
      | (.ok leaf, s) =>
        let h := leaf.home va
        let (d, bad, _, s) := s.loadLine i.blk i.core h 0
        if bad then (.poison, s)
        else
          let s := s.readsFrom i.blk h.line (maskAt (leaf.key va % Config.lineBytes) 4) (some i.core)
          let e := leNat (bytesOfLine (s.blockLine i.blk h d) (leaf.key va % Config.lineBytes) 4)
          if natBit e 0 then (.target (e / 4 * 4), s.dropFetched i.core i.b.regid) else (.fault { i.fault Cause.TRANSLATE_PENDING with va := va }, s)

/-- Read the entries of lanes in turn: targets, faults, and whether one came back poisoned. -/
def State.segments (s : State) (i : Iss) : List (Nat × Nat) → List (Nat × Nat) × List (Nat × Park) × Bool × State
  | [] => ([], [], false, s)
  | (l, k) :: rest =>
    let (x, s) := s.segment i k
    let (ts, fs, bad, s) := s.segments i rest
    match x with
    | .target t => ((l, t) :: ts, fs, bad, s)
    | .fault p => (ts, (l, p) :: fs, bad, s)
    | .poison => (ts, fs, true, s)

/-- NEXT (05 R116): the active lanes go to the segment whose index A holds. The read of an entry follows the lane's own accesses to it,
as a load does (R117). The trailing warp reads none: it goes where its leading warp has gone (12 R289). -/
def execNextSeg (p : BitVec 4) (a : BitVec 6) (s : State) :
    Host.Outcome State Fault Refusal :=
  let index := fun (i : Iss) => (lanesOf i.act).map (fun l => (l, (i.op l a).1.toNat))
  s.issue { ctlAttr 0x1A 6 p a true false with mirror := false } always
    (fun i _ => (index i).any (fun e => decide (e.2 < i.r.segCnt) && i.readWaits e.1 (i.r.segBase + 4 * e.2) 4))
    (fun i s =>
      let (ts, fs, bad, s) := s.segments i (index i)
      if bad then (s.consume i.blk Cause.UNCORRECTABLE, i.act)
      else
        let (s, gone) := (s.takeFaults i.blk i.u 32 fs).jump i true ts
        ((ts.filter (fun e => inMask gone e.1)).foldl (fun (s : State) e => s.leave i.blk i.u (.jump (laneBit e.1) i.pc e.2)) s, gone))

/-! ## Rejoin sets (05 R118 to R121) -/

/-- Attributes of a set instruction: a set below the region's limit (02 R36). -/
def setAttr (fn : Nat) (p : BitVec 4) : Attr := { maj := 0x1B, fn := fn, p := some p, legal := true }

/-- A set instruction: change the warp, then ReleaseCheck. -/
def State.setOp (s : State) (a : Attr) (e : BitVec 4) (f : Iss → Warp → Warp) : Host.Outcome State Fault Refusal :=
  s.issue a (fun i _ => decide (e.toNat < i.r.setLim)) never
    (straight (fun i s => s.modUnit i.blk i.u (fun w => ((f i w).releaseCheck e.toNat).loopCheck)))

/-- JENTER (05 R119): the active lanes become members. -/
def execJenter (p e : BitVec 4) (s : State) :
    Host.Outcome State Fault Refusal :=
  s.setOp (setAttr 0 p) e (fun i w => w.putSet e.toNat (w.mOf e.toNat ||| i.act) (w.aOf e.toNat))

/-- JQUIT (05 R119): the active lanes are members no longer. -/
def execJquit (p e : BitVec 4) (s : State) :
    Host.Outcome State Fault Refusal :=
  s.setOp (setAttr 1 p) e (fun i w => w.putSet e.toNat (w.mOf e.toNat &&& ~~~i.act) (w.aOf e.toNat &&& ~~~i.act))

/-- JWAIT (05 R119): member lanes arrive and wait on the word; a lane that is no member faults. -/
def execJwait (p e : BitVec 4) (s : State) :
    Host.Outcome State Fault Refusal :=
  s.issue { setAttr 2 p with serial := true, noEnd := true } (fun i _ => decide (e.toNat < i.r.setLim)) never
    (straight (fun i s =>
      let n := e.toNat
      let members := i.act &&& i.w.mOf n
      let s := s.modUnit i.blk i.u (fun w =>
        (w.putSet n (w.mOf n) (w.aOf n ||| members)).modLanes members (fun _ l => { l with pc := i.pc, wait := .set n }))
      let s := s.takeFault i.blk i.u (i.act &&& ~~~i.w.mOf n)
        (fun _ => { i.fault Cause.NOT_MEMBER with coord := BitVec.ofNat 32 n })
      s.modUnit i.blk i.u (fun w => (w.releaseCheck n).loopCheck)))

/-- JMOVF (05 R119): the set goes to two scalar registers. -/
def execJmovf (p : BitVec 4) (sa x : BitVec 5) (e : BitVec 4) (s : State) :
    Host.Outcome State Fault Refusal :=
  s.setOp { setAttr 3 p with legal := sa != x, ws := [sa.toNat, x.toNat] } e (fun i w =>
    (w.sWrite i.act sa.toNat (w.mOf e.toNat)).sWrite i.act x.toNat (w.aOf e.toNat))

/-- JMOVT (05 R119): the set comes from two scalar registers; only waiting members count as arrived. -/
def execJmovt (p : BitVec 4) (sa x : BitVec 5) (e : BitVec 4) (s : State) :
    Host.Outcome State Fault Refusal :=
  s.setOp { setAttr 4 p with rs := [sa.toNat, x.toNat] } e (fun i w =>
    let m := i.s sa &&& ~~~w.exited
    w.putSet e.toNat m (i.s x &&& m &&& w.waitingOn e.toNat))

/-- JCLR (05 R119): the set is empty; waiting lanes stay waiting. -/
def execJclr (p e : BitVec 4) (s : State) :
    Host.Outcome State Fault Refusal :=
  s.setOp (setAttr 5 p) e (fun _ w => w.putSet e.toNat 0 0)

/-! ## Hardware loops (05 R123 to R128) -/

/-- The PC that END reaches, or of the instruction whose hint word stands there (04 R84), and whether a page's check has still to show
it. Past a word that cannot be read the hint words themselves show it as they issue. -/
def State.loopEnd (s : State) (i : Iss) (off : Nat) : Nat × Bool × State := s.skipHints i.core i.b.regid i.r 8 ((i.pc + 4 * off) % 2 ^ 32)

/-- A loop word with a count: LOOP_FORM where the level cannot open, else it opens, or a zero count counts as a loop
just exhausted (R124; notes/assumptions/20). It waits while the page of its end word is checked. -/
def State.loopWord (s : State) (maj k : Nat) (rs : List Nat) (off : Nat) (count : Iss → Nat) :
    Host.Outcome State Fault Refusal :=
  let (held, s) := match s.issuer none with
    | some i => (s.loopEnd i off).2
    | none => (false, s)
  s.issue { maj := maj, legal := off != 0, rs := rs, noEnd := true } always (fun _ _ => held) (fun i s =>
    let endPc := (s.loopEnd i off).1
    let x := i.w.level k
    if x.active || (k == 0 && i.w.lc1.active) || (k == 1 && i.w.lc0.active && decide (i.w.lc0.endPc < endPc)) then
      (s.takeFault i.blk i.u i.path (fun _ => { i.fault Cause.LOOP_FORM with coord := BitVec.ofNat 32 k }), 0)
    else if count i = 0 then
      (s.modUnit i.blk i.u (fun w =>
        let w := w.modLanes i.path (fun _ l => { l with pc := nextPc endPc })
        (w.endArrival i.path endPc k).loopCheck), i.path)
    else
      (s.modUnit i.blk i.u (fun w => w.setLevel k
        { active := true, remaining := count i, body := nextPc i.pc, endPc := endPc, entry := i.path }), 0))

/-- LOOP (05 R124): open a level with the count of a scalar register. -/
def execLoop (l : BitVec 1) (sa : BitVec 5) (e : BitVec 12) (s : State) :
    Host.Outcome State Fault Refusal :=
  s.loopWord 0x1C l.toNat [sa.toNat] e.toNat (fun i => (i.s sa).toNat)

/-- LOOPI (05 R124): open a level with an immediate count. -/
def execLoopi (l : BitVec 1) (c : BitVec 10) (e : BitVec 11) (s : State) :
    Host.Outcome State Fault Refusal :=
  s.loopWord 0x1D l.toNat [] e.toNat (fun _ => c.toNat)

/-! ## Block barriers (05 R129 to R132) -/

/-- Attributes of a barrier instruction: it follows the lane's earlier accesses (10 R240; 14 R333). -/
def barAttr (fn : Nat) (p : BitVec 4) (front : Bool) : Attr :=
  { maj := 0x1E, fn := fn, p := some p, legal := true, front := front, serial := true, ordered := true,
    mirror := false }

/-- The arrival of a unit at a barrier; the front thread does not count under the default, and releases nothing (R131; 10 R248). A
release orders what the block has stored before what it stores later. -/
def State.arriveBar (s : State) (i : Iss) (k : Nat) : State :=
  s.modBlock i.blk (fun b =>
    let x := b.bar k
    let counted := !(x.expected == 0 && i.front)
    let b := { b with arrived := b.arrived || counted }
    if !counted || natBit x.pending.toNat i.u.num then b
    else b.setBar k { x with arrived := x.arrived + 1, pending := x.pending ||| BitVec.ofNat 17 (2 ^ i.u.num) })

/-- Lanes of the word wait on it for the phase to complete. -/
def State.waitBar (s : State) (i : Iss) (k : Nat) : State :=
  s.modUnit i.blk i.u (fun w => w.modLanes i.act (fun _ l => { l with pc := i.pc, wait := .barrier k }))

/-- A phase that no leading warp is left to arrive at passes at once (R131). -/
def Block.barOpen (b : Block) (k : Nat) : Bool := b.effective k == 0

/-- The unit arrives, and the lanes wait for the phase; where theirs is the arrival that completes it, for its release alone (10
R248). -/
def State.syncBar (s : State) (i : Iss) (k : Nat) : State :=
  let s := s.arriveBar i k
  if (s.block? i.blk).any (fun b => b.phaseOver k false) then
    let s := s.completePhase i.blk k
    (s.fenceWait i.blk i.u i.act (s.awaited i.blk) none true).passFences i.blk
  else s.waitBar i k

/-- BAR_SYNC (05 R131): the unit arrives, and the active lanes wait for the phase. -/
def execBarSync (p e : BitVec 4) (s : State) :
    Host.Outcome State Fault Refusal :=
  s.issue (barAttr 0 p true) always never (straight (fun i s => if i.b.barOpen e.toNat then s else s.syncBar i e.toNat))

/-- BAR_ARV (05 R131): the unit arrives. -/
def execBarArv (p e : BitVec 4) (s : State) :
    Host.Outcome State Fault Refusal :=
  s.issue (barAttr 1 p true) always never
    (straight (fun i s => (s.arriveBar i e.toNat).barrierCheck i.blk e.toNat false))

/-- BAR_WAIT (05 R131): the active lanes wait while the unit has arrived and the phase goes on. -/
def execBarWait (p e : BitVec 4) (s : State) :
    Host.Outcome State Fault Refusal :=
  s.issue (barAttr 2 p true) always never (straight (fun i s =>
    if natBit (i.b.bar e.toNat).pending.toNat i.u.num then s.waitBar i e.toNat else s))

/-- BAR_CNT (05 R130): the expected count, at once where none has arrived, else from the next phase. -/
def execBarCnt (p : BitVec 4) (sa : BitVec 5) (e : BitVec 4) (s : State) :
    Host.Outcome State Fault Refusal :=
  s.issue { barAttr 3 p false with rs := [sa.toNat] } (fun i _ => decide ((i.s sa).toNat ≤ 17)) never
    (straight (fun i s => s.modBlock i.blk (fun b =>
      let x := b.bar e.toNat
      let n := (i.s sa).toNat
      b.setBar e.toNat (if x.arrived = 0 then { x with expected := n, nextExpected := none }
        else { x with nextExpected := some n }))))

end Sys2Proof.Machine
end

