-- ==== Sys2Proof/Decode.lean ====
section
/-! DEFINITION. Decoding of instruction words and the encoder, from the formats of 04 R82 to R87 and the map of
04 R101. Decoding is total: a word outside the map is rejected by the name of what it breaks (04 R102). Lean's code
generator limits a type to 244 constructors with fields, so the definitions that build the later ones are marked
noncomputable; the kernel evaluates them. -/

namespace Sys2Proof

/-- Why a word is no instruction of the map. -/
inductive DecodeError where
  /-- a major that 04 R101 reserves -/
  | reservedMajor (maj : Nat)
  /-- an FN, or a hint KIND, that 04 R101 leaves without an instruction -/
  | reservedFunction (maj fn : Nat)
  /-- a bit that the format fixes holds another value (04 R83 to R91) -/
  | fixedField (maj fn : Nat)
  /-- fewer bytes than a word -/
  | truncated
  deriving DecidableEq, Repr

/-- The `n` bits of a word from bit `lo` up. -/
def fld (w : Word) (lo n : Nat) : BitVec n := BitVec.ofNat n (w.toNat / 2 ^ lo)

/-! Words of each format, field by field from the top (04 R82). -/

/-- Fields at 31:26 25:22 21:16 15:10 9:4 3:3 2:0. -/
def wordR (x0 : BitVec 6) (x1 : BitVec 4) (x2 : BitVec 6) (x3 : BitVec 6) (x4 : BitVec 6) (x5 : BitVec 1) (x6 : BitVec 3) : Word :=
  BitVec.ofNat 32 (x0.toNat * 2 ^ 26 + x1.toNat * 2 ^ 22 + x2.toNat * 2 ^ 16 + x3.toNat * 2 ^ 10 + x4.toNat * 2 ^ 4 + x5.toNat * 2 ^ 3 + x6.toNat)

/-- Fields at 31:26 25:22 21:21 20:19 18:16 15:10 9:4 3:3 2:0. -/
def wordP (x0 : BitVec 6) (x1 : BitVec 4) (x2 : BitVec 1) (x3 : BitVec 2) (x4 : BitVec 3) (x5 : BitVec 6) (x6 : BitVec 6) (x7 : BitVec 1) (x8 : BitVec 3) : Word :=
  BitVec.ofNat 32 (x0.toNat * 2 ^ 26 + x1.toNat * 2 ^ 22 + x2.toNat * 2 ^ 21 + x3.toNat * 2 ^ 19 + x4.toNat * 2 ^ 16 + x5.toNat * 2 ^ 10 + x6.toNat * 2 ^ 4 + x7.toNat * 2 ^ 3 + x8.toNat)

/-- Fields at 31:26 25:22 21:16 15:10 9:0. -/
def wordI (x0 : BitVec 6) (x1 : BitVec 4) (x2 : BitVec 6) (x3 : BitVec 6) (x4 : BitVec 10) : Word :=
  BitVec.ofNat 32 (x0.toNat * 2 ^ 26 + x1.toNat * 2 ^ 22 + x2.toNat * 2 ^ 16 + x3.toNat * 2 ^ 10 + x4.toNat)

/-- Fields at 31:26 25:22 21:16 15:10 9:7 6:5 4:0. -/
def wordKs (x0 : BitVec 6) (x1 : BitVec 4) (x2 : BitVec 6) (x3 : BitVec 6) (x4 : BitVec 3) (x5 : BitVec 2) (x6 : BitVec 5) : Word :=
  BitVec.ofNat 32 (x0.toNat * 2 ^ 26 + x1.toNat * 2 ^ 22 + x2.toNat * 2 ^ 16 + x3.toNat * 2 ^ 10 + x4.toNat * 2 ^ 7 + x5.toNat * 2 ^ 5 + x6.toNat)

/-- Fields at 31:26 25:22 21:16 15:10 9:7 6:0. -/
def wordK (x0 : BitVec 6) (x1 : BitVec 4) (x2 : BitVec 6) (x3 : BitVec 6) (x4 : BitVec 3) (x5 : BitVec 7) : Word :=
  BitVec.ofNat 32 (x0.toNat * 2 ^ 26 + x1.toNat * 2 ^ 22 + x2.toNat * 2 ^ 16 + x3.toNat * 2 ^ 10 + x4.toNat * 2 ^ 7 + x5.toNat)

/-- Fields at 31:26 25:22 21:16 15:15 14:10 9:4 3:3 2:0. -/
def wordS2v (x0 : BitVec 6) (x1 : BitVec 4) (x2 : BitVec 6) (x3 : BitVec 1) (x4 : BitVec 5) (x5 : BitVec 6) (x6 : BitVec 1) (x7 : BitVec 3) : Word :=
  BitVec.ofNat 32 (x0.toNat * 2 ^ 26 + x1.toNat * 2 ^ 22 + x2.toNat * 2 ^ 16 + x3.toNat * 2 ^ 15 + x4.toNat * 2 ^ 10 + x5.toNat * 2 ^ 4 + x6.toNat * 2 ^ 3 + x7.toNat)

/-- Fields at 31:26 25:22 21:21 20:16 15:10 9:4 3:3 2:0. -/
def wordV2s (x0 : BitVec 6) (x1 : BitVec 4) (x2 : BitVec 1) (x3 : BitVec 5) (x4 : BitVec 6) (x5 : BitVec 6) (x6 : BitVec 1) (x7 : BitVec 3) : Word :=
  BitVec.ofNat 32 (x0.toNat * 2 ^ 26 + x1.toNat * 2 ^ 22 + x2.toNat * 2 ^ 21 + x3.toNat * 2 ^ 16 + x4.toNat * 2 ^ 10 + x5.toNat * 2 ^ 4 + x6.toNat * 2 ^ 3 + x7.toNat)

/-- Fields at 31:26 25:22 21:17 16:12 11:7 6:4 3:0. -/
def wordS (x0 : BitVec 6) (x1 : BitVec 4) (x2 : BitVec 5) (x3 : BitVec 5) (x4 : BitVec 5) (x5 : BitVec 3) (x6 : BitVec 4) : Word :=
  BitVec.ofNat 32 (x0.toNat * 2 ^ 26 + x1.toNat * 2 ^ 22 + x2.toNat * 2 ^ 17 + x3.toNat * 2 ^ 12 + x4.toNat * 2 ^ 7 + x5.toNat * 2 ^ 4 + x6.toNat)

/-- Fields at 31:26 25:22 21:17 16:12 11:0. -/
def wordSi (x0 : BitVec 6) (x1 : BitVec 4) (x2 : BitVec 5) (x3 : BitVec 5) (x4 : BitVec 12) : Word :=
  BitVec.ofNat 32 (x0.toNat * 2 ^ 26 + x1.toNat * 2 ^ 22 + x2.toNat * 2 ^ 17 + x3.toNat * 2 ^ 12 + x4.toNat)

/-- Fields at 31:26 25:22 21:17 16:12 11:0. -/
def wordSb (x0 : BitVec 6) (x1 : BitVec 4) (x2 : BitVec 5) (x3 : BitVec 5) (x4 : BitVec 12) : Word :=
  BitVec.ofNat 32 (x0.toNat * 2 ^ 26 + x1.toNat * 2 ^ 22 + x2.toNat * 2 ^ 17 + x3.toNat * 2 ^ 12 + x4.toNat)

/-- Fields at 31:26 25:22 21:0. -/
def wordJ (x0 : BitVec 6) (x1 : BitVec 4) (x2 : BitVec 22) : Word :=
  BitVec.ofNat 32 (x0.toNat * 2 ^ 26 + x1.toNat * 2 ^ 22 + x2.toNat)

/-- Fields at 31:26 25:22 21:17 16:12 11:7 6:4 3:0. -/
def wordX (x0 : BitVec 6) (x1 : BitVec 4) (x2 : BitVec 5) (x3 : BitVec 5) (x4 : BitVec 5) (x5 : BitVec 3) (x6 : BitVec 4) : Word :=
  BitVec.ofNat 32 (x0.toNat * 2 ^ 26 + x1.toNat * 2 ^ 22 + x2.toNat * 2 ^ 17 + x3.toNat * 2 ^ 12 + x4.toNat * 2 ^ 7 + x5.toNat * 2 ^ 4 + x6.toNat)

/-- Fields at 31:26 25:22 21:21 20:16 15:12 11:0. -/
def wordL (x0 : BitVec 6) (x1 : BitVec 4) (x2 : BitVec 1) (x3 : BitVec 5) (x4 : BitVec 4) (x5 : BitVec 12) : Word :=
  BitVec.ofNat 32 (x0.toNat * 2 ^ 26 + x1.toNat * 2 ^ 22 + x2.toNat * 2 ^ 21 + x3.toNat * 2 ^ 16 + x4.toNat * 2 ^ 12 + x5.toNat)

/-- Fields at 31:26 25:22 21:21 20:11 10:0. -/
def wordLi (x0 : BitVec 6) (x1 : BitVec 4) (x2 : BitVec 1) (x3 : BitVec 10) (x4 : BitVec 11) : Word :=
  BitVec.ofNat 32 (x0.toNat * 2 ^ 26 + x1.toNat * 2 ^ 22 + x2.toNat * 2 ^ 21 + x3.toNat * 2 ^ 11 + x4.toNat)

/-- Fields at 31:26 25:22 21:16 15:10 9:3 2:0. -/
def wordM (x0 : BitVec 6) (x1 : BitVec 4) (x2 : BitVec 6) (x3 : BitVec 6) (x4 : BitVec 7) (x5 : BitVec 3) : Word :=
  BitVec.ofNat 32 (x0.toNat * 2 ^ 26 + x1.toNat * 2 ^ 22 + x2.toNat * 2 ^ 16 + x3.toNat * 2 ^ 10 + x4.toNat * 2 ^ 3 + x5.toNat)

/-- Fields at 31:26 25:22 21:17 16:12 11:7 6:4 3:1 0:0. -/
def wordX1 (x0 : BitVec 6) (x1 : BitVec 4) (x2 : BitVec 5) (x3 : BitVec 5) (x4 : BitVec 5) (x5 : BitVec 3) (x6 : BitVec 3) (x7 : BitVec 1) : Word :=
  BitVec.ofNat 32 (x0.toNat * 2 ^ 26 + x1.toNat * 2 ^ 22 + x2.toNat * 2 ^ 17 + x3.toNat * 2 ^ 12 + x4.toNat * 2 ^ 7 + x5.toNat * 2 ^ 4 + x6.toNat * 2 ^ 1 + x7.toNat)

/-- Fields at 31:26 25:22 21:0. -/
def wordH (x0 : BitVec 6) (x1 : BitVec 4) (x2 : BitVec 22) : Word :=
  BitVec.ofNat 32 (x0.toNat * 2 ^ 26 + x1.toNat * 2 ^ 22 + x2.toNat)

/-- Fields at 31:26 25:22 21:12 11:6 5:0. -/
def wordHstall (x0 : BitVec 6) (x1 : BitVec 4) (x2 : BitVec 10) (x3 : BitVec 6) (x4 : BitVec 6) : Word :=
  BitVec.ofNat 32 (x0.toNat * 2 ^ 26 + x1.toNat * 2 ^ 22 + x2.toNat * 2 ^ 12 + x3.toNat * 2 ^ 6 + x4.toNat)

/-- Fields at 31:26 25:22 21:7 6:5 4:4 3:3 2:2 1:0. -/
def wordHmod (x0 : BitVec 6) (x1 : BitVec 4) (x2 : BitVec 15) (x3 : BitVec 2) (x4 : BitVec 1) (x5 : BitVec 1) (x6 : BitVec 1) (x7 : BitVec 2) : Word :=
  BitVec.ofNat 32 (x0.toNat * 2 ^ 26 + x1.toNat * 2 ^ 22 + x2.toNat * 2 ^ 7 + x3.toNat * 2 ^ 5 + x4.toNat * 2 ^ 4 + x5.toNat * 2 ^ 3 + x6.toNat * 2 ^ 2 + x7.toNat)

/-- Fields at 31:26 25:22 21:20 19:15 14:10 9:5 4:0. -/
def wordHcoord (x0 : BitVec 6) (x1 : BitVec 4) (x2 : BitVec 2) (x3 : BitVec 5) (x4 : BitVec 5) (x5 : BitVec 5) (x6 : BitVec 5) : Word :=
  BitVec.ofNat 32 (x0.toNat * 2 ^ 26 + x1.toNat * 2 ^ 22 + x2.toNat * 2 ^ 20 + x3.toNat * 2 ^ 15 + x4.toNat * 2 ^ 10 + x5.toNat * 2 ^ 5 + x6.toNat)

/-- Major 0x00. -/
def decode00 (w : Word) : Except DecodeError Instr :=
  match (fld w 0 3).toNat with
  | 0 => .ok (.iadd (fld w 22 4) (fld w 16 6) (fld w 10 6) (fld w 4 6) (fld w 3 1))
  | 1 => .ok (.isub (fld w 22 4) (fld w 16 6) (fld w 10 6) (fld w 4 6) (fld w 3 1))
  | 2 => .ok (.imul (fld w 22 4) (fld w 16 6) (fld w 10 6) (fld w 4 6) (fld w 3 1))
  | 3 => .ok (.imad (fld w 22 4) (fld w 16 6) (fld w 10 6) (fld w 4 6) (fld w 3 1))
  | 4 => .ok (.imulhI32 (fld w 22 4) (fld w 16 6) (fld w 10 6) (fld w 4 6) (fld w 3 1))
  | 5 => .ok (.imulhN32 (fld w 22 4) (fld w 16 6) (fld w 10 6) (fld w 4 6) (fld w 3 1))
  | 6 => .ok (.iaddsI32 (fld w 22 4) (fld w 16 6) (fld w 10 6) (fld w 4 6) (fld w 3 1))
  | 7 => .ok (.isubsI32 (fld w 22 4) (fld w 16 6) (fld w 10 6) (fld w 4 6) (fld w 3 1))
  | fn => .error (.reservedFunction 0x00 fn)

/-- Major 0x01. -/
def decode01 (w : Word) : Except DecodeError Instr :=
  match (fld w 0 3).toNat with
  | 0 => .ok (.iminI32 (fld w 22 4) (fld w 16 6) (fld w 10 6) (fld w 4 6) (fld w 3 1))
  | 1 => .ok (.iminN32 (fld w 22 4) (fld w 16 6) (fld w 10 6) (fld w 4 6) (fld w 3 1))
  | 2 => .ok (.imaxI32 (fld w 22 4) (fld w 16 6) (fld w 10 6) (fld w 4 6) (fld w 3 1))
  | 3 => .ok (.imaxN32 (fld w 22 4) (fld w 16 6) (fld w 10 6) (fld w 4 6) (fld w 3 1))
  | 4 =>
    if fld w 4 6 = 56 then .ok (.iabsI32 (fld w 22 4) (fld w 16 6) (fld w 10 6) (fld w 3 1)) else .error (.fixedField 0x01 4)
  | 5 => .ok (.idiffN32 (fld w 22 4) (fld w 16 6) (fld w 10 6) (fld w 4 6) (fld w 3 1))
  | 6 =>
    if fld w 3 1 = 0 then .ok (.iadd64 (fld w 22 4) (fld w 16 6) (fld w 10 6) (fld w 4 6)) else .error (.fixedField 0x01 6)
  | 7 =>
    if fld w 3 1 = 0 then .ok (.isub64 (fld w 22 4) (fld w 16 6) (fld w 10 6) (fld w 4 6)) else .error (.fixedField 0x01 7)
  | fn => .error (.reservedFunction 0x01 fn)

/-- Major 0x02. -/
def decode02 (w : Word) : Except DecodeError Instr :=
  match (fld w 0 3).toNat with
  | 0 => .ok (.andV (fld w 22 4) (fld w 16 6) (fld w 10 6) (fld w 4 6) (fld w 3 1))
  | 1 => .ok (.orV (fld w 22 4) (fld w 16 6) (fld w 10 6) (fld w 4 6) (fld w 3 1))
  | 2 => .ok (.xorV (fld w 22 4) (fld w 16 6) (fld w 10 6) (fld w 4 6) (fld w 3 1))
  | 3 => .ok (.andn (fld w 22 4) (fld w 16 6) (fld w 10 6) (fld w 4 6) (fld w 3 1))
  | 4 => .ok (.shl (fld w 22 4) (fld w 16 6) (fld w 10 6) (fld w 4 6) (fld w 3 1))
  | 5 => .ok (.shr (fld w 22 4) (fld w 16 6) (fld w 10 6) (fld w 4 6) (fld w 3 1))
  | 6 => .ok (.sar (fld w 22 4) (fld w 16 6) (fld w 10 6) (fld w 4 6) (fld w 3 1))
  | 7 => .ok (.rot (fld w 22 4) (fld w 16 6) (fld w 10 6) (fld w 4 6) (fld w 3 1))
  | fn => .error (.reservedFunction 0x02 fn)

/-- Major 0x03. -/
def decode03 (w : Word) : Except DecodeError Instr :=
  match (fld w 0 3).toNat with
  | 0 =>
    if fld w 4 6 = 56 then .ok (.popc (fld w 22 4) (fld w 16 6) (fld w 10 6) (fld w 3 1)) else .error (.fixedField 0x03 0)
  | 1 =>
    if fld w 4 6 = 56 then .ok (.clz (fld w 22 4) (fld w 16 6) (fld w 10 6) (fld w 3 1)) else .error (.fixedField 0x03 1)
  | 2 =>
    if fld w 4 6 = 56 then .ok (.brev (fld w 22 4) (fld w 16 6) (fld w 10 6) (fld w 3 1)) else .error (.fixedField 0x03 2)
  | 3 => .ok (.bfeI32 (fld w 22 4) (fld w 16 6) (fld w 10 6) (fld w 4 6) (fld w 3 1))
  | 4 => .ok (.bfeN32 (fld w 22 4) (fld w 16 6) (fld w 10 6) (fld w 4 6) (fld w 3 1))
  | 5 => .ok (.bfi (fld w 22 4) (fld w 16 6) (fld w 10 6) (fld w 4 6) (fld w 3 1))
  | 6 => .ok (.lop3 (fld w 22 4) (fld w 16 6) (fld w 10 6) (fld w 4 6) (fld w 3 1))
  | 7 => .ok (.prmt (fld w 22 4) (fld w 16 6) (fld w 10 6) (fld w 4 6) (fld w 3 1))
  | fn => .error (.reservedFunction 0x03 fn)

/-- Major 0x04. -/
def decode04 (w : Word) : Except DecodeError Instr :=
  match (fld w 0 3).toNat with
  | 0 =>
    if fld w 21 1 = 0 ∧ fld w 3 1 = 0 then .ok (.isetEq (fld w 22 4) (fld w 19 2) (fld w 16 3) (fld w 10 6) (fld w 4 6)) else .error (.fixedField 0x04 0)
  | 1 =>
    if fld w 21 1 = 0 ∧ fld w 3 1 = 0 then .ok (.isetNe (fld w 22 4) (fld w 19 2) (fld w 16 3) (fld w 10 6) (fld w 4 6)) else .error (.fixedField 0x04 1)
  | 2 =>
    if fld w 21 1 = 0 ∧ fld w 3 1 = 0 then .ok (.isetLtI32 (fld w 22 4) (fld w 19 2) (fld w 16 3) (fld w 10 6) (fld w 4 6)) else .error (.fixedField 0x04 2)
  | 3 =>
    if fld w 21 1 = 0 ∧ fld w 3 1 = 0 then .ok (.isetLeI32 (fld w 22 4) (fld w 19 2) (fld w 16 3) (fld w 10 6) (fld w 4 6)) else .error (.fixedField 0x04 3)
  | 4 =>
    if fld w 21 1 = 0 ∧ fld w 3 1 = 0 then .ok (.isetLtN32 (fld w 22 4) (fld w 19 2) (fld w 16 3) (fld w 10 6) (fld w 4 6)) else .error (.fixedField 0x04 4)
  | 5 =>
    if fld w 21 1 = 0 ∧ fld w 3 1 = 0 then .ok (.isetLeN32 (fld w 22 4) (fld w 19 2) (fld w 16 3) (fld w 10 6) (fld w 4 6)) else .error (.fixedField 0x04 5)
  | 6 =>
    if fld w 21 1 = 0 ∧ fld w 3 1 = 0 then .ok (.isetTst (fld w 22 4) (fld w 19 2) (fld w 16 3) (fld w 10 6) (fld w 4 6)) else .error (.fixedField 0x04 6)
  | 7 =>
    if fld w 21 1 = 0 ∧ fld w 3 1 = 0 then .ok (.isetNtst (fld w 22 4) (fld w 19 2) (fld w 16 3) (fld w 10 6) (fld w 4 6)) else .error (.fixedField 0x04 7)
  | fn => .error (.reservedFunction 0x04 fn)

/-- Major 0x05. -/
def decode05 (w : Word) : Except DecodeError Instr :=
  .ok (.sel (fld w 22 4) (fld w 16 6) (fld w 10 6) (fld w 4 6) (fld w 3 1) (fld w 0 3))

/-- Major 0x06. -/
def decode06 (w : Word) : Except DecodeError Instr :=
  .ok (.iaddi (fld w 22 4) (fld w 16 6) (fld w 10 6) (fld w 0 10))

/-- Major 0x07. -/
def decode07 (w : Word) : Except DecodeError Instr :=
  match (fld w 7 3).toNat with
  | 0 =>
    if fld w 5 2 = 0 then .ok (.shli (fld w 22 4) (fld w 16 6) (fld w 10 6) (fld w 0 5)) else .error (.fixedField 0x07 0)
  | 1 =>
    if fld w 5 2 = 0 then .ok (.shri (fld w 22 4) (fld w 16 6) (fld w 10 6) (fld w 0 5)) else .error (.fixedField 0x07 1)
  | 2 =>
    if fld w 5 2 = 0 then .ok (.sari (fld w 22 4) (fld w 16 6) (fld w 10 6) (fld w 0 5)) else .error (.fixedField 0x07 2)
  | 3 =>
    if fld w 5 2 = 0 then .ok (.roti (fld w 22 4) (fld w 16 6) (fld w 10 6) (fld w 0 5)) else .error (.fixedField 0x07 3)
  | 4 => .ok (.andi (fld w 22 4) (fld w 16 6) (fld w 10 6) (fld w 0 7))
  | 5 => .ok (.ori (fld w 22 4) (fld w 16 6) (fld w 10 6) (fld w 0 7))
  | 6 => .ok (.xori (fld w 22 4) (fld w 16 6) (fld w 10 6) (fld w 0 7))
  | fn => .error (.reservedFunction 0x07 fn)

/-- Major 0x08. -/
def decode08 (w : Word) : Except DecodeError Instr :=
  match (fld w 0 3).toNat with
  | 0 => .ok (.fadd (fld w 22 4) (fld w 16 6) (fld w 10 6) (fld w 4 6) (fld w 3 1))
  | 1 => .ok (.fsub (fld w 22 4) (fld w 16 6) (fld w 10 6) (fld w 4 6) (fld w 3 1))
  | 2 => .ok (.fmul (fld w 22 4) (fld w 16 6) (fld w 10 6) (fld w 4 6) (fld w 3 1))
  | 3 => .ok (.ffma (fld w 22 4) (fld w 16 6) (fld w 10 6) (fld w 4 6) (fld w 3 1))
  | 4 => .ok (.fmin (fld w 22 4) (fld w 16 6) (fld w 10 6) (fld w 4 6) (fld w 3 1))
  | 5 => .ok (.fmax (fld w 22 4) (fld w 16 6) (fld w 10 6) (fld w 4 6) (fld w 3 1))
  | 6 => .ok (.fmna (fld w 22 4) (fld w 16 6) (fld w 10 6) (fld w 4 6) (fld w 3 1))
  | 7 => .ok (.fcopys (fld w 22 4) (fld w 16 6) (fld w 10 6) (fld w 4 6) (fld w 3 1))
  | fn => .error (.reservedFunction 0x08 fn)

/-- Major 0x09. -/
def decode09 (w : Word) : Except DecodeError Instr :=
  match (fld w 0 3).toNat with
  | 0 =>
    if fld w 21 1 = 0 ∧ fld w 3 1 = 0 then .ok (.fsetEq (fld w 22 4) (fld w 19 2) (fld w 16 3) (fld w 10 6) (fld w 4 6)) else .error (.fixedField 0x09 0)
  | 1 =>
    if fld w 21 1 = 0 ∧ fld w 3 1 = 0 then .ok (.fsetNe (fld w 22 4) (fld w 19 2) (fld w 16 3) (fld w 10 6) (fld w 4 6)) else .error (.fixedField 0x09 1)
  | 2 =>
    if fld w 21 1 = 0 ∧ fld w 3 1 = 0 then .ok (.fsetLt (fld w 22 4) (fld w 19 2) (fld w 16 3) (fld w 10 6) (fld w 4 6)) else .error (.fixedField 0x09 2)
  | 3 =>
    if fld w 21 1 = 0 ∧ fld w 3 1 = 0 then .ok (.fsetLe (fld w 22 4) (fld w 19 2) (fld w 16 3) (fld w 10 6) (fld w 4 6)) else .error (.fixedField 0x09 3)
  | 4 =>
    if fld w 21 1 = 0 ∧ fld w 3 1 = 0 then .ok (.fsetOrd (fld w 22 4) (fld w 19 2) (fld w 16 3) (fld w 10 6) (fld w 4 6)) else .error (.fixedField 0x09 4)
  | 5 =>
    if fld w 21 1 = 0 ∧ fld w 3 1 = 0 then .ok (.fsetUnord (fld w 22 4) (fld w 19 2) (fld w 16 3) (fld w 10 6) (fld w 4 6)) else .error (.fixedField 0x09 5)
  | 6 =>
    if fld w 21 1 = 0 ∧ fld w 3 1 = 0 then .ok (.fsetEqu (fld w 22 4) (fld w 19 2) (fld w 16 3) (fld w 10 6) (fld w 4 6)) else .error (.fixedField 0x09 6)
  | 7 =>
    if fld w 21 1 = 0 ∧ fld w 3 1 = 0 then .ok (.fsetLtu (fld w 22 4) (fld w 19 2) (fld w 16 3) (fld w 10 6) (fld w 4 6)) else .error (.fixedField 0x09 7)
  | fn => .error (.reservedFunction 0x09 fn)

/-- Major 0x0A. -/
def decode0A (w : Word) : Except DecodeError Instr :=
  match (fld w 0 3).toNat with
  | 0 =>
    if fld w 4 6 = 56 then .ok (.frcp (fld w 22 4) (fld w 16 6) (fld w 10 6) (fld w 3 1)) else .error (.fixedField 0x0A 0)
  | 1 =>
    if fld w 4 6 = 56 then .ok (.frsq (fld w 22 4) (fld w 16 6) (fld w 10 6) (fld w 3 1)) else .error (.fixedField 0x0A 1)
  | 2 =>
    if fld w 4 6 = 56 then .ok (.fsqrt (fld w 22 4) (fld w 16 6) (fld w 10 6) (fld w 3 1)) else .error (.fixedField 0x0A 2)
  | 3 =>
    if fld w 4 6 = 56 then .ok (.fex2 (fld w 22 4) (fld w 16 6) (fld w 10 6) (fld w 3 1)) else .error (.fixedField 0x0A 3)
  | 4 =>
    if fld w 4 6 = 56 then .ok (.flg2 (fld w 22 4) (fld w 16 6) (fld w 10 6) (fld w 3 1)) else .error (.fixedField 0x0A 4)
  | 5 =>
    if fld w 4 6 = 56 then .ok (.fsin (fld w 22 4) (fld w 16 6) (fld w 10 6) (fld w 3 1)) else .error (.fixedField 0x0A 5)
  | 6 =>
    if fld w 4 6 = 56 then .ok (.fcos (fld w 22 4) (fld w 16 6) (fld w 10 6) (fld w 3 1)) else .error (.fixedField 0x0A 6)
  | 7 =>
    if fld w 4 6 = 56 then .ok (.ftanh (fld w 22 4) (fld w 16 6) (fld w 10 6) (fld w 3 1)) else .error (.fixedField 0x0A 7)
  | fn => .error (.reservedFunction 0x0A fn)

/-- Major 0x0B. -/
def decode0B (w : Word) : Except DecodeError Instr :=
  match (fld w 0 3).toNat with
  | 0 => .ok (.hadd2F16 (fld w 22 4) (fld w 16 6) (fld w 10 6) (fld w 4 6) (fld w 3 1))
  | 1 => .ok (.hsub2F16 (fld w 22 4) (fld w 16 6) (fld w 10 6) (fld w 4 6) (fld w 3 1))
  | 2 => .ok (.hmul2F16 (fld w 22 4) (fld w 16 6) (fld w 10 6) (fld w 4 6) (fld w 3 1))
  | 3 => .ok (.hfma2F16 (fld w 22 4) (fld w 16 6) (fld w 10 6) (fld w 4 6) (fld w 3 1))
  | 4 => .ok (.hmin2F16 (fld w 22 4) (fld w 16 6) (fld w 10 6) (fld w 4 6) (fld w 3 1))
  | 5 => .ok (.hmax2F16 (fld w 22 4) (fld w 16 6) (fld w 10 6) (fld w 4 6) (fld w 3 1))
  | 6 => .ok (.hdot2F16 (fld w 22 4) (fld w 16 6) (fld w 10 6) (fld w 4 6) (fld w 3 1))
  | fn => .error (.reservedFunction 0x0B fn)

/-- Major 0x0C. -/
def decode0C (w : Word) : Except DecodeError Instr :=
  match (fld w 0 3).toNat with
  | 0 => .ok (.hadd2Bf16 (fld w 22 4) (fld w 16 6) (fld w 10 6) (fld w 4 6) (fld w 3 1))
  | 1 => .ok (.hsub2Bf16 (fld w 22 4) (fld w 16 6) (fld w 10 6) (fld w 4 6) (fld w 3 1))
  | 2 => .ok (.hmul2Bf16 (fld w 22 4) (fld w 16 6) (fld w 10 6) (fld w 4 6) (fld w 3 1))
  | 3 => .ok (.hfma2Bf16 (fld w 22 4) (fld w 16 6) (fld w 10 6) (fld w 4 6) (fld w 3 1))
  | 4 => .ok (.hmin2Bf16 (fld w 22 4) (fld w 16 6) (fld w 10 6) (fld w 4 6) (fld w 3 1))
  | 5 => .ok (.hmax2Bf16 (fld w 22 4) (fld w 16 6) (fld w 10 6) (fld w 4 6) (fld w 3 1))
  | 6 => .ok (.hdot2Bf16 (fld w 22 4) (fld w 16 6) (fld w 10 6) (fld w 4 6) (fld w 3 1))
  | fn => .error (.reservedFunction 0x0C fn)

/-- Major 0x0D. -/
def decode0D (w : Word) : Except DecodeError Instr :=
  .ok (.cvt (fld w 22 4) (fld w 16 6) (fld w 10 6) (fld w 4 6) (fld w 3 1) (fld w 0 3))

/-- Major 0x0E. -/
def decode0E (w : Word) : Except DecodeError Instr :=
  match (fld w 0 3).toNat with
  | 0 =>
    if fld w 4 6 = 56 then .ok (.frndRn (fld w 22 4) (fld w 16 6) (fld w 10 6) (fld w 3 1)) else .error (.fixedField 0x0E 0)
  | 1 =>
    if fld w 4 6 = 56 then .ok (.frndRz (fld w 22 4) (fld w 16 6) (fld w 10 6) (fld w 3 1)) else .error (.fixedField 0x0E 1)
  | 2 =>
    if fld w 4 6 = 56 then .ok (.frndRd (fld w 22 4) (fld w 16 6) (fld w 10 6) (fld w 3 1)) else .error (.fixedField 0x0E 2)
  | 3 =>
    if fld w 4 6 = 56 then .ok (.frndRu (fld w 22 4) (fld w 16 6) (fld w 10 6) (fld w 3 1)) else .error (.fixedField 0x0E 3)
  | 4 =>
    if fld w 4 6 = 56 then .ok (.ffrac (fld w 22 4) (fld w 16 6) (fld w 10 6) (fld w 3 1)) else .error (.fixedField 0x0E 4)
  | 5 =>
    if fld w 4 6 = 56 then .ok (.fexp (fld w 22 4) (fld w 16 6) (fld w 10 6) (fld w 3 1)) else .error (.fixedField 0x0E 5)
  | 6 => .ok (.fscale (fld w 22 4) (fld w 16 6) (fld w 10 6) (fld w 4 6) (fld w 3 1))
  | 7 =>
    if fld w 4 6 = 56 then .ok (.fclass (fld w 22 4) (fld w 16 6) (fld w 10 6) (fld w 3 1)) else .error (.fixedField 0x0E 7)
  | fn => .error (.reservedFunction 0x0E fn)

/-- Major 0x10. -/
def decode10 (w : Word) : Except DecodeError Instr :=
  match (fld w 0 3).toNat with
  | 0 => .ok (.shflIdx (fld w 22 4) (fld w 16 6) (fld w 10 6) (fld w 4 6) (fld w 3 1))
  | 1 => .ok (.shflXor (fld w 22 4) (fld w 16 6) (fld w 10 6) (fld w 4 6) (fld w 3 1))
  | 2 => .ok (.shflUp (fld w 22 4) (fld w 16 6) (fld w 10 6) (fld w 4 6) (fld w 3 1))
  | 3 => .ok (.shflDown (fld w 22 4) (fld w 16 6) (fld w 10 6) (fld w 4 6) (fld w 3 1))
  | 4 =>
    if fld w 21 1 = 0 ∧ fld w 4 6 = 56 ∧ fld w 3 1 = 0 then .ok (.voteAny (fld w 22 4) (fld w 19 2) (fld w 16 3) (fld w 10 6)) else .error (.fixedField 0x10 4)
  | 5 =>
    if fld w 21 1 = 0 ∧ fld w 4 6 = 56 ∧ fld w 3 1 = 0 then .ok (.voteAll (fld w 22 4) (fld w 19 2) (fld w 16 3) (fld w 10 6)) else .error (.fixedField 0x10 5)
  | 6 =>
    if fld w 4 6 = 56 then .ok (.ballot (fld w 22 4) (fld w 16 6) (fld w 10 6) (fld w 3 1)) else .error (.fixedField 0x10 6)
  | 7 =>
    if fld w 4 6 = 56 then .ok (.matchLanes (fld w 22 4) (fld w 16 6) (fld w 10 6) (fld w 3 1)) else .error (.fixedField 0x10 7)
  | fn => .error (.reservedFunction 0x10 fn)

/-- Major 0x11. -/
def decode11 (w : Word) : Except DecodeError Instr :=
  match (fld w 0 3).toNat with
  | 0 =>
    if fld w 4 6 = 56 then .ok (.reduxAddI32 (fld w 22 4) (fld w 16 6) (fld w 10 6) (fld w 3 1)) else .error (.fixedField 0x11 0)
  | 1 =>
    if fld w 4 6 = 56 then .ok (.reduxMinI32 (fld w 22 4) (fld w 16 6) (fld w 10 6) (fld w 3 1)) else .error (.fixedField 0x11 1)
  | 2 =>
    if fld w 4 6 = 56 then .ok (.reduxMaxI32 (fld w 22 4) (fld w 16 6) (fld w 10 6) (fld w 3 1)) else .error (.fixedField 0x11 2)
  | 3 =>
    if fld w 4 6 = 56 then .ok (.reduxAddF32 (fld w 22 4) (fld w 16 6) (fld w 10 6) (fld w 3 1)) else .error (.fixedField 0x11 3)
  | 4 =>
    if fld w 21 1 = 0 ∧ fld w 10 6 = 56 ∧ fld w 4 6 = 56 ∧ fld w 3 1 = 0 then .ok (.elect (fld w 22 4) (fld w 19 2) (fld w 16 3)) else .error (.fixedField 0x11 4)
  | 5 =>
    if fld w 15 1 = 0 ∧ fld w 4 6 = 56 then .ok (.s2v (fld w 22 4) (fld w 16 6) (fld w 10 5) (fld w 3 1)) else .error (.fixedField 0x11 5)
  | 6 =>
    if fld w 21 1 = 0 ∧ fld w 4 6 = 56 ∧ fld w 3 1 = 0 then .ok (.v2s (fld w 22 4) (fld w 16 5) (fld w 10 6)) else .error (.fixedField 0x11 6)
  | fn => .error (.reservedFunction 0x11 fn)

/-- Major 0x12. -/
def decode12 (w : Word) : Except DecodeError Instr :=
  match (fld w 4 3).toNat with
  | 0 =>
    if fld w 22 4 = 7 ∧ fld w 0 4 = 0 then .ok (.sadd (fld w 17 5) (fld w 12 5) (fld w 7 5)) else .error (.fixedField 0x12 0)
  | 1 =>
    if fld w 22 4 = 7 ∧ fld w 0 4 = 0 then .ok (.ssub (fld w 17 5) (fld w 12 5) (fld w 7 5)) else .error (.fixedField 0x12 1)
  | 2 =>
    if fld w 22 4 = 7 ∧ fld w 0 4 = 0 then .ok (.smul (fld w 17 5) (fld w 12 5) (fld w 7 5)) else .error (.fixedField 0x12 2)
  | 3 =>
    if fld w 22 4 = 7 ∧ fld w 0 4 = 0 then .ok (.sand (fld w 17 5) (fld w 12 5) (fld w 7 5)) else .error (.fixedField 0x12 3)
  | 4 =>
    if fld w 22 4 = 7 ∧ fld w 0 4 = 0 then .ok (.sor (fld w 17 5) (fld w 12 5) (fld w 7 5)) else .error (.fixedField 0x12 4)
  | 5 =>
    if fld w 22 4 = 7 ∧ fld w 0 4 = 0 then .ok (.sxor (fld w 17 5) (fld w 12 5) (fld w 7 5)) else .error (.fixedField 0x12 5)
  | 6 =>
    if fld w 22 4 = 7 ∧ fld w 0 4 = 0 then .ok (.sshl (fld w 17 5) (fld w 12 5) (fld w 7 5)) else .error (.fixedField 0x12 6)
  | 7 =>
    if fld w 22 4 = 7 ∧ fld w 0 4 = 0 then .ok (.sshr (fld w 17 5) (fld w 12 5) (fld w 7 5)) else .error (.fixedField 0x12 7)
  | fn => .error (.reservedFunction 0x12 fn)

/-- Major 0x13. -/
def decode13 (w : Word) : Except DecodeError Instr :=
  if fld w 22 4 = 7 then .ok (.saddi (fld w 17 5) (fld w 12 5) (fld w 0 12)) else .error (.fixedField 0x13 0)

/-- Major 0x14. -/
def decode14 (w : Word) : Except DecodeError Instr :=
  match (fld w 4 3).toNat with
  | 0 =>
    if fld w 22 4 = 7 ∧ fld w 0 4 = 0 then .ok (.sminI32 (fld w 17 5) (fld w 12 5) (fld w 7 5)) else .error (.fixedField 0x14 0)
  | 1 =>
    if fld w 22 4 = 7 ∧ fld w 0 4 = 0 then .ok (.smaxI32 (fld w 17 5) (fld w 12 5) (fld w 7 5)) else .error (.fixedField 0x14 1)
  | 2 =>
    if fld w 22 4 = 7 ∧ fld w 0 4 = 0 then .ok (.sminN32 (fld w 17 5) (fld w 12 5) (fld w 7 5)) else .error (.fixedField 0x14 2)
  | 3 =>
    if fld w 22 4 = 7 ∧ fld w 0 4 = 0 then .ok (.smaxN32 (fld w 17 5) (fld w 12 5) (fld w 7 5)) else .error (.fixedField 0x14 3)
  | 4 =>
    if fld w 22 4 = 7 ∧ fld w 0 4 = 0 then .ok (.ssar (fld w 17 5) (fld w 12 5) (fld w 7 5)) else .error (.fixedField 0x14 4)
  | 5 =>
    if fld w 22 4 = 7 ∧ fld w 7 5 = 0 ∧ fld w 0 4 = 0 then .ok (.spopc (fld w 17 5) (fld w 12 5)) else .error (.fixedField 0x14 5)
  | 6 =>
    if fld w 22 4 = 7 ∧ fld w 7 5 = 0 ∧ fld w 0 4 = 0 then .ok (.sclz (fld w 17 5) (fld w 12 5)) else .error (.fixedField 0x14 6)
  | fn => .error (.reservedFunction 0x14 fn)

/-- Major 0x15. -/
def decode15 (w : Word) : Except DecodeError Instr :=
  .ok (.sbr (fld w 22 4) (fld w 17 5) (fld w 12 5) (fld w 0 12))

/-- Major 0x16. -/
def decode16 (w : Word) : Except DecodeError Instr :=
  if fld w 22 4 = 7 ∧ fld w 12 5 = 0 then .ok (.smovi (fld w 17 5) (fld w 0 12)) else .error (.fixedField 0x16 0)

/-- Major 0x18. -/
def decode18 (w : Word) : Except DecodeError Instr :=
  .ok (.bra (fld w 22 4) (fld w 0 22))

/-- Major 0x19. -/
def decode19 (w : Word) : Except DecodeError Instr :=
  .ok (.call (fld w 22 4) (fld w 0 22))

/-- Major 0x1A. -/
def decode1A (w : Word) : Except DecodeError Instr :=
  match (fld w 0 3).toNat with
  | 0 =>
    if fld w 16 6 = 56 ∧ fld w 4 6 = 56 ∧ fld w 3 1 = 0 then .ok (.brx (fld w 22 4) (fld w 10 6)) else .error (.fixedField 0x1A 0)
  | 1 =>
    if fld w 16 6 = 56 ∧ fld w 4 6 = 56 ∧ fld w 3 1 = 0 then .ok (.callx (fld w 22 4) (fld w 10 6)) else .error (.fixedField 0x1A 1)
  | 2 =>
    if fld w 16 6 = 56 ∧ fld w 10 6 = 56 ∧ fld w 4 6 = 56 ∧ fld w 3 1 = 0 then .ok (.ret (fld w 22 4)) else .error (.fixedField 0x1A 2)
  | 3 =>
    if fld w 16 6 = 56 ∧ fld w 4 6 = 56 ∧ fld w 3 1 = 0 then .ok (.exit (fld w 22 4) (fld w 10 6)) else .error (.fixedField 0x1A 3)
  | 4 =>
    if fld w 16 6 = 56 ∧ fld w 10 6 = 56 ∧ fld w 4 6 = 56 ∧ fld w 3 1 = 0 then .ok (.yield (fld w 22 4)) else .error (.fixedField 0x1A 4)
  | 5 =>
    if fld w 16 6 = 56 ∧ fld w 10 6 = 56 ∧ fld w 4 6 = 56 ∧ fld w 3 1 = 0 then .ok (.nop (fld w 22 4)) else .error (.fixedField 0x1A 5)
  | 6 =>
    if fld w 16 6 = 56 ∧ fld w 4 6 = 56 ∧ fld w 3 1 = 0 then .ok (.nextSeg (fld w 22 4) (fld w 10 6)) else .error (.fixedField 0x1A 6)
  | 7 =>
    if fld w 16 6 = 56 ∧ fld w 10 6 = 56 ∧ fld w 4 6 = 56 ∧ fld w 3 1 = 0 then .ok (.brk (fld w 22 4)) else .error (.fixedField 0x1A 7)
  | fn => .error (.reservedFunction 0x1A fn)

/-- Major 0x1B. -/
noncomputable def decode1B (w : Word) : Except DecodeError Instr :=
  match (fld w 4 3).toNat with
  | 0 =>
    if fld w 17 5 = 0 ∧ fld w 12 5 = 0 ∧ fld w 7 5 = 0 then .ok (.jenter (fld w 22 4) (fld w 0 4)) else .error (.fixedField 0x1B 0)
  | 1 =>
    if fld w 17 5 = 0 ∧ fld w 12 5 = 0 ∧ fld w 7 5 = 0 then .ok (.jquit (fld w 22 4) (fld w 0 4)) else .error (.fixedField 0x1B 1)
  | 2 =>
    if fld w 17 5 = 0 ∧ fld w 12 5 = 0 ∧ fld w 7 5 = 0 then .ok (.jwait (fld w 22 4) (fld w 0 4)) else .error (.fixedField 0x1B 2)
  | 3 =>
    if fld w 17 5 = 0 then .ok (.jmovf (fld w 22 4) (fld w 12 5) (fld w 7 5) (fld w 0 4)) else .error (.fixedField 0x1B 3)
  | 4 =>
    if fld w 17 5 = 0 then .ok (.jmovt (fld w 22 4) (fld w 12 5) (fld w 7 5) (fld w 0 4)) else .error (.fixedField 0x1B 4)
  | 5 =>
    if fld w 17 5 = 0 ∧ fld w 12 5 = 0 ∧ fld w 7 5 = 0 then .ok (.jclr (fld w 22 4) (fld w 0 4)) else .error (.fixedField 0x1B 5)
  | fn => .error (.reservedFunction 0x1B fn)

/-- Major 0x1C. -/
noncomputable def decode1C (w : Word) : Except DecodeError Instr :=
  if fld w 22 4 = 7 ∧ fld w 12 4 = 0 then .ok (.loop (fld w 21 1) (fld w 16 5) (fld w 0 12)) else .error (.fixedField 0x1C 0)

/-- Major 0x1D. -/
noncomputable def decode1D (w : Word) : Except DecodeError Instr :=
  if fld w 22 4 = 7 then .ok (.loopi (fld w 21 1) (fld w 11 10) (fld w 0 11)) else .error (.fixedField 0x1D 0)

/-- Major 0x1E. -/
noncomputable def decode1E (w : Word) : Except DecodeError Instr :=
  match (fld w 4 3).toNat with
  | 0 =>
    if fld w 17 5 = 0 ∧ fld w 12 5 = 0 ∧ fld w 7 5 = 0 then .ok (.barSync (fld w 22 4) (fld w 0 4)) else .error (.fixedField 0x1E 0)
  | 1 =>
    if fld w 17 5 = 0 ∧ fld w 12 5 = 0 ∧ fld w 7 5 = 0 then .ok (.barArv (fld w 22 4) (fld w 0 4)) else .error (.fixedField 0x1E 1)
  | 2 =>
    if fld w 17 5 = 0 ∧ fld w 12 5 = 0 ∧ fld w 7 5 = 0 then .ok (.barWait (fld w 22 4) (fld w 0 4)) else .error (.fixedField 0x1E 2)
  | 3 =>
    if fld w 17 5 = 0 ∧ fld w 7 5 = 0 then .ok (.barCnt (fld w 22 4) (fld w 12 5) (fld w 0 4)) else .error (.fixedField 0x1E 3)
  | fn => .error (.reservedFunction 0x1E fn)

/-- Major 0x20. -/
def decode20 (w : Word) : Except DecodeError Instr :=
  match (fld w 0 3).toNat with
  | 0 => .ok (.ldB8I (fld w 22 4) (fld w 16 6) (fld w 10 6) (fld w 3 7))
  | 1 => .ok (.ldB8N (fld w 22 4) (fld w 16 6) (fld w 10 6) (fld w 3 7))
  | 2 => .ok (.ldB16I (fld w 22 4) (fld w 16 6) (fld w 10 6) (fld w 3 7))
  | 3 => .ok (.ldB16N (fld w 22 4) (fld w 16 6) (fld w 10 6) (fld w 3 7))
  | 4 => .ok (.ldB32 (fld w 22 4) (fld w 16 6) (fld w 10 6) (fld w 3 7))
  | 5 => .ok (.ldB64 (fld w 22 4) (fld w 16 6) (fld w 10 6) (fld w 3 7))
  | 6 => .ok (.ldB128 (fld w 22 4) (fld w 16 6) (fld w 10 6) (fld w 3 7))
  | 7 => .ok (.ldcB32 (fld w 22 4) (fld w 16 6) (fld w 10 6) (fld w 3 7))
  | fn => .error (.reservedFunction 0x20 fn)

/-- Major 0x21. -/
def decode21 (w : Word) : Except DecodeError Instr :=
  match (fld w 0 3).toNat with
  | 0 => .ok (.stB8 (fld w 22 4) (fld w 16 6) (fld w 10 6) (fld w 3 7))
  | 1 => .ok (.stB16 (fld w 22 4) (fld w 16 6) (fld w 10 6) (fld w 3 7))
  | 2 => .ok (.stB32 (fld w 22 4) (fld w 16 6) (fld w 10 6) (fld w 3 7))
  | 3 => .ok (.stB64 (fld w 22 4) (fld w 16 6) (fld w 10 6) (fld w 3 7))
  | 4 => .ok (.stB128 (fld w 22 4) (fld w 16 6) (fld w 10 6) (fld w 3 7))
  | fn => .error (.reservedFunction 0x21 fn)

/-- Major 0x22. -/
noncomputable def decode22 (w : Word) : Except DecodeError Instr :=
  match (fld w 0 3).toNat with
  | 0 => .ok (.ldsB32Row (fld w 22 4) (fld w 16 6) (fld w 10 6) (fld w 3 7))
  | 1 => .ok (.ldsB32Col (fld w 22 4) (fld w 16 6) (fld w 10 6) (fld w 3 7))
  | 2 => .ok (.ldsB64Row (fld w 22 4) (fld w 16 6) (fld w 10 6) (fld w 3 7))
  | 3 => .ok (.ldsB64Col (fld w 22 4) (fld w 16 6) (fld w 10 6) (fld w 3 7))
  | 4 => .ok (.ldsB16Row (fld w 22 4) (fld w 16 6) (fld w 10 6) (fld w 3 7))
  | 5 => .ok (.ldsB16Col (fld w 22 4) (fld w 16 6) (fld w 10 6) (fld w 3 7))
  | 6 => .ok (.ldsB8Row (fld w 22 4) (fld w 16 6) (fld w 10 6) (fld w 3 7))
  | 7 => .ok (.ldsB128Row (fld w 22 4) (fld w 16 6) (fld w 10 6) (fld w 3 7))
  | fn => .error (.reservedFunction 0x22 fn)

/-- Major 0x23. -/
noncomputable def decode23 (w : Word) : Except DecodeError Instr :=
  match (fld w 0 3).toNat with
  | 0 => .ok (.stsB32Row (fld w 22 4) (fld w 16 6) (fld w 10 6) (fld w 3 7))
  | 1 => .ok (.stsB32Col (fld w 22 4) (fld w 16 6) (fld w 10 6) (fld w 3 7))
  | 2 => .ok (.stsB64Row (fld w 22 4) (fld w 16 6) (fld w 10 6) (fld w 3 7))
  | 3 => .ok (.stsB64Col (fld w 22 4) (fld w 16 6) (fld w 10 6) (fld w 3 7))
  | 4 => .ok (.stsB16Row (fld w 22 4) (fld w 16 6) (fld w 10 6) (fld w 3 7))
  | 5 => .ok (.stsB16Col (fld w 22 4) (fld w 16 6) (fld w 10 6) (fld w 3 7))
  | 6 => .ok (.stsB8Row (fld w 22 4) (fld w 16 6) (fld w 10 6) (fld w 3 7))
  | 7 => .ok (.stsB128Row (fld w 22 4) (fld w 16 6) (fld w 10 6) (fld w 3 7))
  | fn => .error (.reservedFunction 0x23 fn)

/-- Major 0x24. -/
noncomputable def decode24 (w : Word) : Except DecodeError Instr :=
  match (fld w 0 3).toNat with
  | 0 => .ok (.atomAdd (fld w 22 4) (fld w 16 6) (fld w 10 6) (fld w 3 7))
  | 1 => .ok (.atomMinI32 (fld w 22 4) (fld w 16 6) (fld w 10 6) (fld w 3 7))
  | 2 => .ok (.atomMaxI32 (fld w 22 4) (fld w 16 6) (fld w 10 6) (fld w 3 7))
  | 3 => .ok (.atomMinN32 (fld w 22 4) (fld w 16 6) (fld w 10 6) (fld w 3 7))
  | 4 => .ok (.atomMaxN32 (fld w 22 4) (fld w 16 6) (fld w 10 6) (fld w 3 7))
  | 5 => .ok (.atomAnd (fld w 22 4) (fld w 16 6) (fld w 10 6) (fld w 3 7))
  | 6 => .ok (.atomOr (fld w 22 4) (fld w 16 6) (fld w 10 6) (fld w 3 7))
  | 7 => .ok (.atomXor (fld w 22 4) (fld w 16 6) (fld w 10 6) (fld w 3 7))
  | fn => .error (.reservedFunction 0x24 fn)

/-- Major 0x25. -/
noncomputable def decode25 (w : Word) : Except DecodeError Instr :=
  match (fld w 0 3).toNat with
  | 0 => .ok (.atomExch (fld w 22 4) (fld w 16 6) (fld w 10 6) (fld w 3 7))
  | 1 => .ok (.atomCas (fld w 22 4) (fld w 16 6) (fld w 10 6) (fld w 3 7))
  | 2 => .ok (.atomAddF32 (fld w 22 4) (fld w 16 6) (fld w 10 6) (fld w 3 7))
  | 3 => .ok (.lrB32 (fld w 22 4) (fld w 16 6) (fld w 10 6) (fld w 3 7))
  | 4 => .ok (.scB32 (fld w 22 4) (fld w 16 6) (fld w 10 6) (fld w 3 7))
  | fn => .error (.reservedFunction 0x25 fn)

/-- Major 0x26. -/
def decode26 (w : Word) : Except DecodeError Instr :=
  match (fld w 0 3).toNat with
  | 0 => .ok (.redAddI32 (fld w 22 4) (fld w 16 6) (fld w 10 6) (fld w 3 7))
  | 1 => .ok (.redMinI32 (fld w 22 4) (fld w 16 6) (fld w 10 6) (fld w 3 7))
  | 2 => .ok (.redMaxI32 (fld w 22 4) (fld w 16 6) (fld w 10 6) (fld w 3 7))
  | 3 => .ok (.redAnd (fld w 22 4) (fld w 16 6) (fld w 10 6) (fld w 3 7))
  | 4 => .ok (.redOr (fld w 22 4) (fld w 16 6) (fld w 10 6) (fld w 3 7))
  | 5 => .ok (.redXor (fld w 22 4) (fld w 16 6) (fld w 10 6) (fld w 3 7))
  | 6 => .ok (.redAddF32 (fld w 22 4) (fld w 16 6) (fld w 10 6) (fld w 3 7))
  | 7 => .ok (.redAddF16x2 (fld w 22 4) (fld w 16 6) (fld w 10 6) (fld w 3 7))
  | fn => .error (.reservedFunction 0x26 fn)

/-- Major 0x27. -/
noncomputable def decode27 (w : Word) : Except DecodeError Instr :=
  match (fld w 0 3).toNat with
  | 0 => .ok (.atomsAdd (fld w 22 4) (fld w 16 6) (fld w 10 6) (fld w 3 7))
  | 1 => .ok (.atomsMinI32 (fld w 22 4) (fld w 16 6) (fld w 10 6) (fld w 3 7))
  | 2 => .ok (.atomsMaxI32 (fld w 22 4) (fld w 16 6) (fld w 10 6) (fld w 3 7))
  | 3 => .ok (.atomsExch (fld w 22 4) (fld w 16 6) (fld w 10 6) (fld w 3 7))
  | 4 => .ok (.atomsCas (fld w 22 4) (fld w 16 6) (fld w 10 6) (fld w 3 7))
  | 5 => .ok (.atomsAddF32 (fld w 22 4) (fld w 16 6) (fld w 10 6) (fld w 3 7))
  | 6 => .ok (.atomsOr (fld w 22 4) (fld w 16 6) (fld w 10 6) (fld w 3 7))
  | 7 => .ok (.atomsAnd (fld w 22 4) (fld w 16 6) (fld w 10 6) (fld w 3 7))
  | fn => .error (.reservedFunction 0x27 fn)

/-- Major 0x28. -/
noncomputable def decode28 (w : Word) : Except DecodeError Instr :=
  match (fld w 4 3).toNat with
  | 0 =>
    if fld w 17 5 = 0 ∧ fld w 12 5 = 0 ∧ fld w 7 5 = 0 then .ok (.fenceAcq (fld w 22 4) (fld w 0 4)) else .error (.fixedField 0x28 0)
  | 1 =>
    if fld w 17 5 = 0 ∧ fld w 12 5 = 0 ∧ fld w 7 5 = 0 then .ok (.fenceRel (fld w 22 4) (fld w 0 4)) else .error (.fixedField 0x28 1)
  | 2 =>
    if fld w 17 5 = 0 ∧ fld w 12 5 = 0 ∧ fld w 7 5 = 0 then .ok (.fenceAr (fld w 22 4) (fld w 0 4)) else .error (.fixedField 0x28 2)
  | 3 =>
    if fld w 17 5 = 0 ∧ fld w 12 5 = 0 ∧ fld w 7 5 = 0 then .ok (.fenceSc (fld w 22 4) (fld w 0 4)) else .error (.fixedField 0x28 3)
  | fn => .error (.reservedFunction 0x28 fn)

/-- Major 0x29. -/
noncomputable def decode29 (w : Word) : Except DecodeError Instr :=
  match (fld w 0 3).toNat with
  | 0 =>
    if fld w 16 6 = 56 then .ok (.pref (fld w 22 4) (fld w 10 6) (fld w 3 7)) else .error (.fixedField 0x29 0)
  | 1 =>
    if fld w 16 6 = 56 then .ok (.prefLlc (fld w 22 4) (fld w 10 6) (fld w 3 7)) else .error (.fixedField 0x29 1)
  | 2 =>
    if fld w 16 6 = 56 then .ok (.cwb (fld w 22 4) (fld w 10 6) (fld w 3 7)) else .error (.fixedField 0x29 2)
  | 3 =>
    if fld w 16 6 = 56 then .ok (.cinv (fld w 22 4) (fld w 10 6) (fld w 3 7)) else .error (.fixedField 0x29 3)
  | 4 =>
    if fld w 16 6 = 56 then .ok (.cwbi (fld w 22 4) (fld w 10 6) (fld w 3 7)) else .error (.fixedField 0x29 4)
  | 5 => .ok (.ldntB32 (fld w 22 4) (fld w 16 6) (fld w 10 6) (fld w 3 7))
  | 6 => .ok (.stntB32 (fld w 22 4) (fld w 16 6) (fld w 10 6) (fld w 3 7))
  | fn => .error (.reservedFunction 0x29 fn)

/-- Major 0x2A. -/
noncomputable def decode2A (w : Word) : Except DecodeError Instr :=
  match (fld w 4 3).toNat with
  | 0 =>
    if fld w 17 5 = 0 ∧ fld w 12 5 = 0 then .ok (.gbegin (fld w 22 4) (fld w 7 5) (fld w 0 4)) else .error (.fixedField 0x2A 0)
  | 1 =>
    if fld w 17 5 = 0 ∧ fld w 12 5 = 0 ∧ fld w 7 5 = 0 ∧ fld w 0 4 = 0 then .ok (.gend (fld w 22 4)) else .error (.fixedField 0x2A 1)
  | fn => .error (.reservedFunction 0x2A fn)

/-- Major 0x2B. -/
noncomputable def decode2B (w : Word) : Except DecodeError Instr :=
  match (fld w 4 3).toNat with
  | 0 =>
    if fld w 17 5 = 0 ∧ fld w 7 5 = 0 then .ok (.viewf (fld w 22 4) (fld w 12 5) (fld w 0 4)) else .error (.fixedField 0x2B 0)
  | 1 => .ok (.viewp (fld w 22 4) (fld w 17 5) (fld w 12 5) (fld w 7 5) (fld w 0 4))
  | 2 =>
    if fld w 7 5 = 0 then .ok (.viewq (fld w 22 4) (fld w 17 5) (fld w 12 5) (fld w 0 4)) else .error (.fixedField 0x2B 2)
  | fn => .error (.reservedFunction 0x2B fn)

/-- Major 0x2C. -/
noncomputable def decode2C (w : Word) : Except DecodeError Instr :=
  match (fld w 4 3).toNat with
  | 0 =>
    if fld w 1 3 = 0 then .ok (.cpy (fld w 22 4) (fld w 17 5) (fld w 12 5) (fld w 7 5) (fld w 0 1)) else .error (.fixedField 0x2C 0)
  | 1 =>
    if fld w 1 3 = 0 then .ok (.cpyaF32 (fld w 22 4) (fld w 17 5) (fld w 12 5) (fld w 7 5) (fld w 0 1)) else .error (.fixedField 0x2C 1)
  | 2 =>
    if fld w 1 3 = 0 then .ok (.cpyaF16 (fld w 22 4) (fld w 17 5) (fld w 12 5) (fld w 7 5) (fld w 0 1)) else .error (.fixedField 0x2C 2)
  | 3 =>
    if fld w 1 3 = 0 then .ok (.cpyg (fld w 22 4) (fld w 17 5) (fld w 12 5) (fld w 7 5) (fld w 0 1)) else .error (.fixedField 0x2C 3)
  | fn => .error (.reservedFunction 0x2C fn)

/-- Major 0x2D. -/
noncomputable def decode2D (w : Word) : Except DecodeError Instr :=
  match (fld w 4 3).toNat with
  | 0 =>
    if fld w 17 5 = 0 ∧ fld w 0 4 = 0 then .ok (.ownE (fld w 22 4) (fld w 12 5) (fld w 7 5)) else .error (.fixedField 0x2D 0)
  | 1 =>
    if fld w 17 5 = 0 ∧ fld w 0 4 = 0 then .ok (.ownT (fld w 22 4) (fld w 12 5) (fld w 7 5)) else .error (.fixedField 0x2D 1)
  | 2 =>
    if fld w 7 5 = 0 ∧ fld w 0 4 = 0 then .ok (.ownq (fld w 22 4) (fld w 17 5) (fld w 12 5)) else .error (.fixedField 0x2D 2)
  | fn => .error (.reservedFunction 0x2D fn)

/-- Major 0x2E. -/
noncomputable def decode2E (w : Word) : Except DecodeError Instr :=
  match (fld w 4 3).toNat with
  | 0 =>
    if fld w 1 3 = 0 then .ok (.csld (fld w 22 4) (fld w 17 5) (fld w 12 5) (fld w 7 5) (fld w 0 1)) else .error (.fixedField 0x2E 0)
  | 1 =>
    if fld w 7 5 = 0 ∧ fld w 0 4 = 0 then .ok (.mmld (fld w 22 4) (fld w 17 5) (fld w 12 5)) else .error (.fixedField 0x2E 1)
  | 2 =>
    if fld w 1 3 = 0 then .ok (.mmrun (fld w 22 4) (fld w 17 5) (fld w 12 5) (fld w 7 5) (fld w 0 1)) else .error (.fixedField 0x2E 2)
  | 3 =>
    if fld w 1 3 = 0 then .ok (.mmdrain (fld w 22 4) (fld w 17 5) (fld w 12 5) (fld w 7 5) (fld w 0 1)) else .error (.fixedField 0x2E 3)
  | 5 =>
    if fld w 1 3 = 0 then .ok (.rede (fld w 22 4) (fld w 17 5) (fld w 12 5) (fld w 7 5) (fld w 0 1)) else .error (.fixedField 0x2E 5)
  | fn => .error (.reservedFunction 0x2E fn)

/-- Major 0x2F. -/
noncomputable def decode2F (w : Word) : Except DecodeError Instr :=
  match (fld w 0 3).toNat with
  | 0 =>
    if fld w 3 1 = 0 then .ok (.mmaF16 (fld w 22 4) (fld w 16 6) (fld w 10 6) (fld w 4 6)) else .error (.fixedField 0x2F 0)
  | 1 =>
    if fld w 3 1 = 0 then .ok (.mmaBf16 (fld w 22 4) (fld w 16 6) (fld w 10 6) (fld w 4 6)) else .error (.fixedField 0x2F 1)
  | 2 =>
    if fld w 3 1 = 0 then .ok (.mmaF8e4 (fld w 22 4) (fld w 16 6) (fld w 10 6) (fld w 4 6)) else .error (.fixedField 0x2F 2)
  | 3 =>
    if fld w 3 1 = 0 then .ok (.mmaF8e5 (fld w 22 4) (fld w 16 6) (fld w 10 6) (fld w 4 6)) else .error (.fixedField 0x2F 3)
  | 4 =>
    if fld w 3 1 = 0 then .ok (.mmaI8 (fld w 22 4) (fld w 16 6) (fld w 10 6) (fld w 4 6)) else .error (.fixedField 0x2F 4)
  | fn => .error (.reservedFunction 0x2F fn)

/-- Major 0x30. -/
noncomputable def decode30 (w : Word) : Except DecodeError Instr :=
  match (fld w 4 3).toNat with
  | 0 =>
    if fld w 7 5 = 0 ∧ fld w 0 4 = 0 then .ok (.ladrLane (fld w 22 4) (fld w 17 5) (fld w 12 5)) else
    if fld w 0 4 = 1 then .ok (.ladrRange (fld w 22 4) (fld w 17 5) (fld w 12 5) (fld w 7 5)) else .error (.fixedField 0x30 0)
  | 1 =>
    if fld w 12 5 = 0 ∧ fld w 7 5 = 0 then .ok (.lesc (fld w 22 4) (fld w 17 5) (fld w 0 4)) else .error (.fixedField 0x30 1)
  | 2 =>
    if fld w 12 5 = 0 ∧ fld w 7 5 = 0 ∧ fld w 0 4 = 0 then .ok (.lret (fld w 22 4) (fld w 17 5)) else .error (.fixedField 0x30 2)
  | 3 =>
    if fld w 12 5 = 0 ∧ fld w 7 5 = 0 ∧ fld w 0 4 = 0 then .ok (.lfrm (fld w 22 4) (fld w 17 5)) else .error (.fixedField 0x30 3)
  | 4 =>
    if fld w 7 5 = 0 then .ok (.linfo (fld w 22 4) (fld w 17 5) (fld w 12 5) (fld w 0 4)) else .error (.fixedField 0x30 4)
  | fn => .error (.reservedFunction 0x30 fn)

/-- Major 0x31. -/
noncomputable def decode31 (w : Word) : Except DecodeError Instr :=
  match (fld w 4 3).toNat with
  | 0 =>
    if fld w 1 3 = 0 then .ok (.rlaunch (fld w 22 4) (fld w 17 5) (fld w 12 5) (fld w 7 5) (fld w 0 1)) else .error (.fixedField 0x31 0)
  | 1 => .ok (.rquery (fld w 22 4) (fld w 17 5) (fld w 12 5) (fld w 7 5) (fld w 0 4))
  | 2 =>
    if fld w 17 5 = 0 ∧ fld w 12 5 = 0 ∧ fld w 7 5 = 0 ∧ fld w 0 4 = 0 then .ok (.commit (fld w 22 4)) else .error (.fixedField 0x31 2)
  | 3 =>
    if fld w 17 5 = 0 ∧ fld w 0 4 = 0 then .ok (.dqpush (fld w 22 4) (fld w 12 5) (fld w 7 5)) else .error (.fixedField 0x31 3)
  | 4 =>
    if fld w 12 5 = 0 ∧ fld w 7 5 = 0 ∧ fld w 0 4 = 0 then .ok (.dqpop (fld w 22 4) (fld w 17 5)) else .error (.fixedField 0x31 4)
  | 5 =>
    if fld w 7 5 = 0 ∧ fld w 0 4 = 0 then .ok (.srd (fld w 22 4) (fld w 17 5) (fld w 12 5)) else .error (.fixedField 0x31 5)
  | 6 =>
    if fld w 17 5 = 0 ∧ fld w 0 4 = 0 then .ok (.swr (fld w 22 4) (fld w 12 5) (fld w 7 5)) else .error (.fixedField 0x31 6)
  | fn => .error (.reservedFunction 0x31 fn)

/-- Major 0x32. -/
noncomputable def decode32 (w : Word) : Except DecodeError Instr :=
  match (fld w 4 3).toNat with
  | 0 =>
    if fld w 17 5 = 0 ∧ fld w 12 5 = 0 ∧ fld w 7 5 = 0 then .ok (.trap (fld w 22 4) (fld w 0 4)) else .error (.fixedField 0x32 0)
  | 1 =>
    if fld w 17 5 = 0 ∧ fld w 12 5 = 0 ∧ fld w 7 5 = 0 ∧ fld w 1 3 = 0 then .ok (.rte (fld w 22 4) (fld w 0 1)) else .error (.fixedField 0x32 1)
  | 2 =>
    if fld w 0 4 = 0 then .ok (.xlr (fld w 22 4) (fld w 17 5) (fld w 12 5) (fld w 7 5)) else .error (.fixedField 0x32 2)
  | 3 =>
    if fld w 0 4 = 0 then .ok (.xlw (fld w 22 4) (fld w 17 5) (fld w 12 5) (fld w 7 5)) else .error (.fixedField 0x32 3)
  | 4 =>
    if fld w 17 5 = 0 ∧ fld w 7 5 = 0 ∧ fld w 0 4 = 0 then .ok (.kill (fld w 22 4) (fld w 12 5)) else .error (.fixedField 0x32 4)
  | 5 =>
    if fld w 7 5 = 0 ∧ fld w 0 4 = 0 then .ok (.parkq (fld w 22 4) (fld w 17 5) (fld w 12 5)) else .error (.fixedField 0x32 5)
  | 6 =>
    if fld w 17 5 = 0 ∧ fld w 7 5 = 0 ∧ fld w 0 4 = 0 then .ok (.unpark (fld w 22 4) (fld w 12 5)) else .error (.fixedField 0x32 6)
  | fn => .error (.reservedFunction 0x32 fn)

/-- Major 0x33. -/
noncomputable def decode33 (w : Word) : Except DecodeError Instr :=
  match (fld w 4 3).toNat with
  | 0 =>
    if fld w 7 5 = 0 ∧ fld w 0 4 = 0 then .ok (.ctrclm (fld w 22 4) (fld w 17 5) (fld w 12 5)) else .error (.fixedField 0x33 0)
  | 1 =>
    if fld w 17 5 = 0 ∧ fld w 7 5 = 0 ∧ fld w 0 4 = 0 then .ok (.ctrrel (fld w 22 4) (fld w 12 5)) else .error (.fixedField 0x33 1)
  | 2 =>
    if fld w 17 5 = 0 ∧ fld w 0 4 = 0 then .ok (.ctrcfg (fld w 22 4) (fld w 12 5) (fld w 7 5)) else .error (.fixedField 0x33 2)
  | 3 =>
    if fld w 7 5 = 0 ∧ fld w 0 4 = 0 then .ok (.ctrrdLo (fld w 22 4) (fld w 17 5) (fld w 12 5)) else .error (.fixedField 0x33 3)
  | 4 =>
    if fld w 12 5 = 0 ∧ fld w 7 5 = 0 ∧ fld w 0 4 = 0 then .ok (.ctrrdHi (fld w 22 4) (fld w 17 5)) else .error (.fixedField 0x33 4)
  | 5 =>
    if fld w 12 5 = 0 ∧ fld w 7 5 = 0 ∧ fld w 0 4 = 0 then .ok (.enrd (fld w 22 4) (fld w 17 5)) else .error (.fixedField 0x33 5)
  | fn => .error (.reservedFunction 0x33 fn)

/-- Major 0x3F. -/
noncomputable def decode3F (w : Word) : Except DecodeError Instr :=
  match (fld w 22 4).toNat with
  | 0 => .ok (.himm (fld w 0 22))
  | 1 => .ok (.hstall (fld w 12 10) (fld w 6 6) (fld w 0 6))
  | 2 =>
    if fld w 7 15 = 0 then .ok (.hmod (fld w 5 2) (fld w 4 1) (fld w 3 1) (fld w 2 1) (fld w 0 2)) else .error (.fixedField 0x3F 2)
  | 3 =>
    if fld w 20 2 = 0 then .ok (.hcoord (fld w 15 5) (fld w 10 5) (fld w 5 5) (fld w 0 5)) else .error (.fixedField 0x3F 3)
  | fn => .error (.reservedFunction 0x3F fn)

/-- The instruction of a word, or what the word breaks. -/
noncomputable def decode (w : Word) : Except DecodeError Instr :=
  match (fld w 26 6).toNat with
  | 0x00 => decode00 w
  | 0x01 => decode01 w
  | 0x02 => decode02 w
  | 0x03 => decode03 w
  | 0x04 => decode04 w
  | 0x05 => decode05 w
  | 0x06 => decode06 w
  | 0x07 => decode07 w
  | 0x08 => decode08 w
  | 0x09 => decode09 w
  | 0x0A => decode0A w
  | 0x0B => decode0B w
  | 0x0C => decode0C w
  | 0x0D => decode0D w
  | 0x0E => decode0E w
  | 0x10 => decode10 w
  | 0x11 => decode11 w
  | 0x12 => decode12 w
  | 0x13 => decode13 w
  | 0x14 => decode14 w
  | 0x15 => decode15 w
  | 0x16 => decode16 w
  | 0x18 => decode18 w
  | 0x19 => decode19 w
  | 0x1A => decode1A w
  | 0x1B => decode1B w
  | 0x1C => decode1C w
  | 0x1D => decode1D w
  | 0x1E => decode1E w
  | 0x20 => decode20 w
  | 0x21 => decode21 w
  | 0x22 => decode22 w
  | 0x23 => decode23 w
  | 0x24 => decode24 w
  | 0x25 => decode25 w
  | 0x26 => decode26 w
  | 0x27 => decode27 w
  | 0x28 => decode28 w
  | 0x29 => decode29 w
  | 0x2A => decode2A w
  | 0x2B => decode2B w
  | 0x2C => decode2C w
  | 0x2D => decode2D w
  | 0x2E => decode2E w
  | 0x2F => decode2F w
  | 0x30 => decode30 w
  | 0x31 => decode31 w
  | 0x32 => decode32 w
  | 0x33 => decode33 w
  | 0x3F => decode3F w
  | maj => .error (.reservedMajor maj)

/-- The members that a sink group may hold (07 R177), decoded as `decode` does; any other word is none. -/
def decodeMember (w : Word) : Option Instr :=
  let r := match (fld w 26 6).toNat with
    | 0x00 => decode00 w
    | 0x01 => decode01 w
    | 0x02 => decode02 w
    | 0x03 => decode03 w
    | 0x04 => decode04 w
    | 0x05 => decode05 w
    | 0x06 => decode06 w
    | 0x07 => decode07 w
    | 0x08 => decode08 w
    | 0x20 => decode20 w
    | 0x21 => decode21 w
    | 0x26 => decode26 w
    | maj => .error (.reservedMajor maj)
  match r with
  | .ok i => some i
  | .error _ => none

/-- The word of four bytes, lowest address first (04 R81). -/
def wordOfBytes (b0 b1 b2 b3 : Byte) : Word :=
  BitVec.ofNat 32 (b0.toNat + b1.toNat * 2 ^ 8 + b2.toNat * 2 ^ 16 + b3.toNat * 2 ^ 24)

/-- Decode the word at the head of a list of bytes, and the bytes after it. -/
noncomputable def decodeBytes : List Byte → Except DecodeError (Instr × List Byte)
  | b0 :: b1 :: b2 :: b3 :: rest =>
    match decode (wordOfBytes b0 b1 b2 b3) with
    | .ok i => .ok (i, rest)
    | .error e => .error e
  | _ => .error .truncated

/-- The bytes of a word, lowest address first. -/
def bytesOfWord (w : Word) : List Byte := [fld w 0 8, fld w 8 8, fld w 16 8, fld w 24 8]

/-- The instruction that the decoder reads from the table's bits: one word, stored little-endian. A row without
bits has no word. -/
noncomputable def decodeTableWord (nbits w : Nat) : Option Instr :=
  if nbits = 0 then none
  else
    match decodeBytes (bytesOfWord (BitVec.ofNat 32 w)) with
    | .ok (i, _) => some i
    | .error _ => none

/-- The word of an encoded instruction; none for an event of the part, which has no word. -/
def encode : Instr → Option Word
  | .iadd p d a b n => some (wordR 0x00 p d a b n 0)
  | .isub p d a b n => some (wordR 0x00 p d a b n 1)
  | .imul p d a b n => some (wordR 0x00 p d a b n 2)
  | .imad p d a b n => some (wordR 0x00 p d a b n 3)
  | .imulhI32 p d a b n => some (wordR 0x00 p d a b n 4)
  | .imulhN32 p d a b n => some (wordR 0x00 p d a b n 5)
  | .iaddsI32 p d a b n => some (wordR 0x00 p d a b n 6)
  | .isubsI32 p d a b n => some (wordR 0x00 p d a b n 7)
  | .iminI32 p d a b n => some (wordR 0x01 p d a b n 0)
  | .iminN32 p d a b n => some (wordR 0x01 p d a b n 1)
  | .imaxI32 p d a b n => some (wordR 0x01 p d a b n 2)
  | .imaxN32 p d a b n => some (wordR 0x01 p d a b n 3)
  | .iabsI32 p d a n => some (wordR 0x01 p d a 56 n 4)
  | .idiffN32 p d a b n => some (wordR 0x01 p d a b n 5)
  | .iadd64 p d a b => some (wordR 0x01 p d a b 0 6)
  | .isub64 p d a b => some (wordR 0x01 p d a b 0 7)
  | .andV p d a b n => some (wordR 0x02 p d a b n 0)
  | .orV p d a b n => some (wordR 0x02 p d a b n 1)
  | .xorV p d a b n => some (wordR 0x02 p d a b n 2)
  | .andn p d a b n => some (wordR 0x02 p d a b n 3)
  | .shl p d a b n => some (wordR 0x02 p d a b n 4)
  | .shr p d a b n => some (wordR 0x02 p d a b n 5)
  | .sar p d a b n => some (wordR 0x02 p d a b n 6)
  | .rot p d a b n => some (wordR 0x02 p d a b n 7)
  | .popc p d a n => some (wordR 0x03 p d a 56 n 0)
  | .clz p d a n => some (wordR 0x03 p d a 56 n 1)
  | .brev p d a n => some (wordR 0x03 p d a 56 n 2)
  | .bfeI32 p d a b n => some (wordR 0x03 p d a b n 3)
  | .bfeN32 p d a b n => some (wordR 0x03 p d a b n 4)
  | .bfi p d a b n => some (wordR 0x03 p d a b n 5)
  | .lop3 p d a b n => some (wordR 0x03 p d a b n 6)
  | .prmt p d a b n => some (wordR 0x03 p d a b n 7)
  | .isetEq p g k a b => some (wordP 0x04 p 0 g k a b 0 0)
  | .isetNe p g k a b => some (wordP 0x04 p 0 g k a b 0 1)
  | .isetLtI32 p g k a b => some (wordP 0x04 p 0 g k a b 0 2)
  | .isetLeI32 p g k a b => some (wordP 0x04 p 0 g k a b 0 3)
  | .isetLtN32 p g k a b => some (wordP 0x04 p 0 g k a b 0 4)
  | .isetLeN32 p g k a b => some (wordP 0x04 p 0 g k a b 0 5)
  | .isetTst p g k a b => some (wordP 0x04 p 0 g k a b 0 6)
  | .isetNtst p g k a b => some (wordP 0x04 p 0 g k a b 0 7)
  | .sel p d a b n k => some (wordR 0x05 p d a b n k)
  | .iaddi p d a i => some (wordI 0x06 p d a i)
  | .shli p d a i => some (wordKs 0x07 p d a 0 0 i)
  | .shri p d a i => some (wordKs 0x07 p d a 1 0 i)
  | .sari p d a i => some (wordKs 0x07 p d a 2 0 i)
  | .roti p d a i => some (wordKs 0x07 p d a 3 0 i)
  | .andi p d a i => some (wordK 0x07 p d a 4 i)
  | .ori p d a i => some (wordK 0x07 p d a 5 i)
  | .xori p d a i => some (wordK 0x07 p d a 6 i)
  | .fadd p d a b n => some (wordR 0x08 p d a b n 0)
  | .fsub p d a b n => some (wordR 0x08 p d a b n 1)
  | .fmul p d a b n => some (wordR 0x08 p d a b n 2)
  | .ffma p d a b n => some (wordR 0x08 p d a b n 3)
  | .fmin p d a b n => some (wordR 0x08 p d a b n 4)
  | .fmax p d a b n => some (wordR 0x08 p d a b n 5)
  | .fmna p d a b n => some (wordR 0x08 p d a b n 6)
  | .fcopys p d a b n => some (wordR 0x08 p d a b n 7)
  | .fsetEq p g k a b => some (wordP 0x09 p 0 g k a b 0 0)
  | .fsetNe p g k a b => some (wordP 0x09 p 0 g k a b 0 1)
  | .fsetLt p g k a b => some (wordP 0x09 p 0 g k a b 0 2)
  | .fsetLe p g k a b => some (wordP 0x09 p 0 g k a b 0 3)
  | .fsetOrd p g k a b => some (wordP 0x09 p 0 g k a b 0 4)
  | .fsetUnord p g k a b => some (wordP 0x09 p 0 g k a b 0 5)
  | .fsetEqu p g k a b => some (wordP 0x09 p 0 g k a b 0 6)
  | .fsetLtu p g k a b => some (wordP 0x09 p 0 g k a b 0 7)
  | .frcp p d a n => some (wordR 0x0A p d a 56 n 0)
  | .frsq p d a n => some (wordR 0x0A p d a 56 n 1)
  | .fsqrt p d a n => some (wordR 0x0A p d a 56 n 2)
  | .fex2 p d a n => some (wordR 0x0A p d a 56 n 3)
  | .flg2 p d a n => some (wordR 0x0A p d a 56 n 4)
  | .fsin p d a n => some (wordR 0x0A p d a 56 n 5)
  | .fcos p d a n => some (wordR 0x0A p d a 56 n 6)
  | .ftanh p d a n => some (wordR 0x0A p d a 56 n 7)
  | .hadd2F16 p d a b n => some (wordR 0x0B p d a b n 0)
  | .hsub2F16 p d a b n => some (wordR 0x0B p d a b n 1)
  | .hmul2F16 p d a b n => some (wordR 0x0B p d a b n 2)
  | .hfma2F16 p d a b n => some (wordR 0x0B p d a b n 3)
  | .hmin2F16 p d a b n => some (wordR 0x0B p d a b n 4)
  | .hmax2F16 p d a b n => some (wordR 0x0B p d a b n 5)
  | .hdot2F16 p d a b n => some (wordR 0x0B p d a b n 6)
  | .hadd2Bf16 p d a b n => some (wordR 0x0C p d a b n 0)
  | .hsub2Bf16 p d a b n => some (wordR 0x0C p d a b n 1)
  | .hmul2Bf16 p d a b n => some (wordR 0x0C p d a b n 2)
  | .hfma2Bf16 p d a b n => some (wordR 0x0C p d a b n 3)
  | .hmin2Bf16 p d a b n => some (wordR 0x0C p d a b n 4)
  | .hmax2Bf16 p d a b n => some (wordR 0x0C p d a b n 5)
  | .hdot2Bf16 p d a b n => some (wordR 0x0C p d a b n 6)
  | .cvt p d a c n r => some (wordR 0x0D p d a c n r)
  | .frndRn p d a n => some (wordR 0x0E p d a 56 n 0)
  | .frndRz p d a n => some (wordR 0x0E p d a 56 n 1)
  | .frndRd p d a n => some (wordR 0x0E p d a 56 n 2)
  | .frndRu p d a n => some (wordR 0x0E p d a 56 n 3)
  | .ffrac p d a n => some (wordR 0x0E p d a 56 n 4)
  | .fexp p d a n => some (wordR 0x0E p d a 56 n 5)
  | .fscale p d a b n => some (wordR 0x0E p d a b n 6)
  | .fclass p d a n => some (wordR 0x0E p d a 56 n 7)
  | .shflIdx p d a b n => some (wordR 0x10 p d a b n 0)
  | .shflXor p d a b n => some (wordR 0x10 p d a b n 1)
  | .shflUp p d a b n => some (wordR 0x10 p d a b n 2)
  | .shflDown p d a b n => some (wordR 0x10 p d a b n 3)
  | .voteAny p g k a => some (wordP 0x10 p 0 g k a 56 0 4)
  | .voteAll p g k a => some (wordP 0x10 p 0 g k a 56 0 5)
  | .ballot p d a n => some (wordR 0x10 p d a 56 n 6)
  | .matchLanes p d a n => some (wordR 0x10 p d a 56 n 7)
  | .reduxAddI32 p d a n => some (wordR 0x11 p d a 56 n 0)
  | .reduxMinI32 p d a n => some (wordR 0x11 p d a 56 n 1)
  | .reduxMaxI32 p d a n => some (wordR 0x11 p d a 56 n 2)
  | .reduxAddF32 p d a n => some (wordR 0x11 p d a 56 n 3)
  | .elect p g k => some (wordP 0x11 p 0 g k 56 56 0 4)
  | .s2v p d s n => some (wordS2v 0x11 p d 0 s 56 n 5)
  | .v2s p d a => some (wordV2s 0x11 p 0 d a 56 0 6)
  | .sadd d a b => some (wordS 0x12 7 d a b 0 0)
  | .ssub d a b => some (wordS 0x12 7 d a b 1 0)
  | .smul d a b => some (wordS 0x12 7 d a b 2 0)
  | .sand d a b => some (wordS 0x12 7 d a b 3 0)
  | .sor d a b => some (wordS 0x12 7 d a b 4 0)
  | .sxor d a b => some (wordS 0x12 7 d a b 5 0)
  | .sshl d a b => some (wordS 0x12 7 d a b 6 0)
  | .sshr d a b => some (wordS 0x12 7 d a b 7 0)
  | .saddi d a i => some (wordSi 0x13 7 d a i)
  | .sminI32 d a b => some (wordS 0x14 7 d a b 0 0)
  | .smaxI32 d a b => some (wordS 0x14 7 d a b 1 0)
  | .sminN32 d a b => some (wordS 0x14 7 d a b 2 0)
  | .smaxN32 d a b => some (wordS 0x14 7 d a b 3 0)
  | .ssar d a b => some (wordS 0x14 7 d a b 4 0)
  | .spopc d a => some (wordS 0x14 7 d a 0 5 0)
  | .sclz d a => some (wordS 0x14 7 d a 0 6 0)
  | .sbr c a b o => some (wordSb 0x15 c a b o)
  | .smovi d i => some (wordSi 0x16 7 d 0 i)
  | .bra p o => some (wordJ 0x18 p o)
  | .call p o => some (wordJ 0x19 p o)
  | .brx p a => some (wordR 0x1A p 56 a 56 0 0)
  | .callx p a => some (wordR 0x1A p 56 a 56 0 1)
  | .ret p => some (wordR 0x1A p 56 56 56 0 2)
  | .exit p a => some (wordR 0x1A p 56 a 56 0 3)
  | .yield p => some (wordR 0x1A p 56 56 56 0 4)
  | .nop p => some (wordR 0x1A p 56 56 56 0 5)
  | .nextSeg p a => some (wordR 0x1A p 56 a 56 0 6)
  | .brk p => some (wordR 0x1A p 56 56 56 0 7)
  | .jenter p e => some (wordX 0x1B p 0 0 0 0 e)
  | .jquit p e => some (wordX 0x1B p 0 0 0 1 e)
  | .jwait p e => some (wordX 0x1B p 0 0 0 2 e)
  | .jmovf p s x e => some (wordX 0x1B p 0 s x 3 e)
  | .jmovt p s x e => some (wordX 0x1B p 0 s x 4 e)
  | .jclr p e => some (wordX 0x1B p 0 0 0 5 e)
  | .loop l s e => some (wordL 0x1C 7 l s 0 e)
  | .loopi l c e => some (wordLi 0x1D 7 l c e)
  | .barSync p e => some (wordX 0x1E p 0 0 0 0 e)
  | .barArv p e => some (wordX 0x1E p 0 0 0 1 e)
  | .barWait p e => some (wordX 0x1E p 0 0 0 2 e)
  | .barCnt p s e => some (wordX 0x1E p 0 s 0 3 e)
  | .ldB8I p d c v => some (wordM 0x20 p d c v 0)
  | .ldB8N p d c v => some (wordM 0x20 p d c v 1)
  | .ldB16I p d c v => some (wordM 0x20 p d c v 2)
  | .ldB16N p d c v => some (wordM 0x20 p d c v 3)
  | .ldB32 p d c v => some (wordM 0x20 p d c v 4)
  | .ldB64 p d c v => some (wordM 0x20 p d c v 5)
  | .ldB128 p d c v => some (wordM 0x20 p d c v 6)
  | .ldcB32 p d c v => some (wordM 0x20 p d c v 7)
  | .stB8 p d c v => some (wordM 0x21 p d c v 0)
  | .stB16 p d c v => some (wordM 0x21 p d c v 1)
  | .stB32 p d c v => some (wordM 0x21 p d c v 2)
  | .stB64 p d c v => some (wordM 0x21 p d c v 3)
  | .stB128 p d c v => some (wordM 0x21 p d c v 4)
  | .ldsB32Row p d c v => some (wordM 0x22 p d c v 0)
  | .ldsB32Col p d c v => some (wordM 0x22 p d c v 1)
  | .ldsB64Row p d c v => some (wordM 0x22 p d c v 2)
  | .ldsB64Col p d c v => some (wordM 0x22 p d c v 3)
  | .ldsB16Row p d c v => some (wordM 0x22 p d c v 4)
  | .ldsB16Col p d c v => some (wordM 0x22 p d c v 5)
  | .ldsB8Row p d c v => some (wordM 0x22 p d c v 6)
  | .ldsB128Row p d c v => some (wordM 0x22 p d c v 7)
  | .stsB32Row p d c v => some (wordM 0x23 p d c v 0)
  | .stsB32Col p d c v => some (wordM 0x23 p d c v 1)
  | .stsB64Row p d c v => some (wordM 0x23 p d c v 2)
  | .stsB64Col p d c v => some (wordM 0x23 p d c v 3)
  | .stsB16Row p d c v => some (wordM 0x23 p d c v 4)
  | .stsB16Col p d c v => some (wordM 0x23 p d c v 5)
  | .stsB8Row p d c v => some (wordM 0x23 p d c v 6)
  | .stsB128Row p d c v => some (wordM 0x23 p d c v 7)
  | .atomAdd p d c v => some (wordM 0x24 p d c v 0)
  | .atomMinI32 p d c v => some (wordM 0x24 p d c v 1)
  | .atomMaxI32 p d c v => some (wordM 0x24 p d c v 2)
  | .atomMinN32 p d c v => some (wordM 0x24 p d c v 3)
  | .atomMaxN32 p d c v => some (wordM 0x24 p d c v 4)
  | .atomAnd p d c v => some (wordM 0x24 p d c v 5)
  | .atomOr p d c v => some (wordM 0x24 p d c v 6)
  | .atomXor p d c v => some (wordM 0x24 p d c v 7)
  | .atomExch p d c v => some (wordM 0x25 p d c v 0)
  | .atomCas p d c v => some (wordM 0x25 p d c v 1)
  | .atomAddF32 p d c v => some (wordM 0x25 p d c v 2)
  | .lrB32 p d c v => some (wordM 0x25 p d c v 3)
  | .scB32 p d c v => some (wordM 0x25 p d c v 4)
  | .redAddI32 p d c v => some (wordM 0x26 p d c v 0)
  | .redMinI32 p d c v => some (wordM 0x26 p d c v 1)
  | .redMaxI32 p d c v => some (wordM 0x26 p d c v 2)
  | .redAnd p d c v => some (wordM 0x26 p d c v 3)
  | .redOr p d c v => some (wordM 0x26 p d c v 4)
  | .redXor p d c v => some (wordM 0x26 p d c v 5)
  | .redAddF32 p d c v => some (wordM 0x26 p d c v 6)
  | .redAddF16x2 p d c v => some (wordM 0x26 p d c v 7)
  | .atomsAdd p d c v => some (wordM 0x27 p d c v 0)
  | .atomsMinI32 p d c v => some (wordM 0x27 p d c v 1)
  | .atomsMaxI32 p d c v => some (wordM 0x27 p d c v 2)
  | .atomsExch p d c v => some (wordM 0x27 p d c v 3)
  | .atomsCas p d c v => some (wordM 0x27 p d c v 4)
  | .atomsAddF32 p d c v => some (wordM 0x27 p d c v 5)
  | .atomsOr p d c v => some (wordM 0x27 p d c v 6)
  | .atomsAnd p d c v => some (wordM 0x27 p d c v 7)
  | .fenceAcq p e => some (wordX 0x28 p 0 0 0 0 e)
  | .fenceRel p e => some (wordX 0x28 p 0 0 0 1 e)
  | .fenceAr p e => some (wordX 0x28 p 0 0 0 2 e)
  | .fenceSc p e => some (wordX 0x28 p 0 0 0 3 e)
  | .pref p c v => some (wordM 0x29 p 56 c v 0)
  | .prefLlc p c v => some (wordM 0x29 p 56 c v 1)
  | .cwb p c v => some (wordM 0x29 p 56 c v 2)
  | .cinv p c v => some (wordM 0x29 p 56 c v 3)
  | .cwbi p c v => some (wordM 0x29 p 56 c v 4)
  | .ldntB32 p d c v => some (wordM 0x29 p d c v 5)
  | .stntB32 p d c v => some (wordM 0x29 p d c v 6)
  | .gbegin p x e => some (wordX 0x2A p 0 0 x 0 e)
  | .gend p => some (wordX 0x2A p 0 0 0 1 0)
  | .viewf p s e => some (wordX 0x2B p 0 s 0 0 e)
  | .viewp p t s x e => some (wordX 0x2B p t s x 1 e)
  | .viewq p t s e => some (wordX 0x2B p t s 0 2 e)
  | .cpy p t s x r => some (wordX1 0x2C p t s x 0 0 r)
  | .cpyaF32 p t s x r => some (wordX1 0x2C p t s x 1 0 r)
  | .cpyaF16 p t s x r => some (wordX1 0x2C p t s x 2 0 r)
  | .cpyg p t s x r => some (wordX1 0x2C p t s x 3 0 r)
  | .ownE p s x => some (wordX 0x2D p 0 s x 0 0)
  | .ownT p s x => some (wordX 0x2D p 0 s x 1 0)
  | .ownq p t s => some (wordX 0x2D p t s 0 2 0)
  | .csld p t s x r => some (wordX1 0x2E p t s x 0 0 r)
  | .mmld p t s => some (wordX 0x2E p t s 0 1 0)
  | .mmrun p t s x r => some (wordX1 0x2E p t s x 2 0 r)
  | .mmdrain p t s x r => some (wordX1 0x2E p t s x 3 0 r)
  | .rede p t s x r => some (wordX1 0x2E p t s x 5 0 r)
  | .mmaF16 p d a b => some (wordR 0x2F p d a b 0 0)
  | .mmaBf16 p d a b => some (wordR 0x2F p d a b 0 1)
  | .mmaF8e4 p d a b => some (wordR 0x2F p d a b 0 2)
  | .mmaF8e5 p d a b => some (wordR 0x2F p d a b 0 3)
  | .mmaI8 p d a b => some (wordR 0x2F p d a b 0 4)
  | .ladrLane p t s => some (wordX 0x30 p t s 0 0 0)
  | .ladrRange p t s x => some (wordX 0x30 p t s x 0 1)
  | .lesc p t e => some (wordX 0x30 p t 0 0 1 e)
  | .lret p t => some (wordX 0x30 p t 0 0 2 0)
  | .lfrm p t => some (wordX 0x30 p t 0 0 3 0)
  | .linfo p t s e => some (wordX 0x30 p t s 0 4 e)
  | .rlaunch p t s x e => some (wordX1 0x31 p t s x 0 0 e)
  | .rquery p t s x e => some (wordX 0x31 p t s x 1 e)
  | .commit p => some (wordX 0x31 p 0 0 0 2 0)
  | .dqpush p s x => some (wordX 0x31 p 0 s x 3 0)
  | .dqpop p t => some (wordX 0x31 p t 0 0 4 0)
  | .srd p t r => some (wordX 0x31 p t r 0 5 0)
  | .swr p r x => some (wordX 0x31 p 0 r x 6 0)
  | .trap p e => some (wordX 0x32 p 0 0 0 0 e)
  | .rte p f => some (wordX1 0x32 p 0 0 0 1 0 f)
  | .xlr p t s x => some (wordX 0x32 p t s x 2 0)
  | .xlw p t s x => some (wordX 0x32 p t s x 3 0)
  | .kill p s => some (wordX 0x32 p 0 s 0 4 0)
  | .parkq p t s => some (wordX 0x32 p t s 0 5 0)
  | .unpark p s => some (wordX 0x32 p 0 s 0 6 0)
  | .ctrclm p t s => some (wordX 0x33 p t s 0 0 0)
  | .ctrrel p s => some (wordX 0x33 p 0 s 0 1 0)
  | .ctrcfg p s x => some (wordX 0x33 p 0 s x 2 0)
  | .ctrrdLo p t s => some (wordX 0x33 p t s 0 3 0)
  | .ctrrdHi p t => some (wordX 0x33 p t 0 0 4 0)
  | .enrd p t => some (wordX 0x33 p t 0 0 5 0)
  | .himm i => some (wordH 0x3F 0 i)
  | .hstall g w s => some (wordHstall 0x3F 1 g w s)
  | .hmod o c s v m => some (wordHmod 0x3F 2 0 o c s v m)
  | .hcoord w z y x => some (wordHcoord 0x3F 3 0 w z y x)
  | .loadResponse _ => none
  | .umberGroupExecute _ => none
  | .sinkGroupResponse _ => none
  | .storeAcknowledge _ => none
  | .atomicCompletion _ => none
  | .directoryInvalidate _ _ _ => none
  | .ltimeTick _ => none
  | .lrReservationExpiry _ _ _ _ => none
  | .ownerTimeoutExpiry _ _ _ => none
  | .orphanDetection _ _ => none
  | .trailingLagTimeout _ _ _ => none
  | .handlerEntry _ _ => none
  | .faultResumeAnswer _ => none
  | .faultKillAnswer _ => none
  | .pageWalkDone _ _ => none
  | .invalidationCommand _ => none
  | .codePageHashDone _ _ _ => none
  | .engineUnit _ => none
  | .enginePageAnswer _ _ => none
  | .engineCommandEnd _ => none
  | .mmldBankValid _ => none
  | .bindBlock _ _ => none
  | .bindRungWarp _ _ => none
  | .bindResumeSnapshot _ _ => none
  | .bankSwitch _ _ => none
  | .dispatchStart _ => none
  | .rootLaunch _ => none
  | .villekPlacement _ _ _ _ _ _ => none
  | .priorityAgeing _ => none
  | .limitCheck _ => none
  | .blockCompletion _ => none
  | .ladderStarvation _ _ => none
  | .ladderWarpLaunch _ _ _ _ _ => none
  | .ladderFrameTimeout _ _ _ => none
  | .ashSpillDone _ _ => none
  | .restoreRequest _ _ _ _ _ _ => none
  | .migrationStop _ => none
  | .worldSwitch _ _ _ => none
  | .counterSteal _ _ => none
  | .counterReturn _ _ => none
  | .calendarWrite _ _ => none
  | .calendarAdopt _ => none
  | .patrolScrub _ _ _ => none
  | .deviceReset => none
  | .dieReset _ => none
  | .heartbeatSend => none
  | .heartbeatMiss _ _ => none
  | .fenceDirectoryScrub _ => none
  | .fabricPacketReceive _ _ _ _ => none
  | .fabricAckReceive _ _ => none
  | .fabricCompletionReceive _ _ _ => none
  | .portFail _ => none
  | .linkRetrainDone _ => none
  | .linkRetrainRequest _ _ => none
  | .portStatusRefresh _ => none
  | .portWarnClear _ _ => none
  | .rdmaSend _ _ => none
  | .rdmaSendImmediate _ _ _ => none
  | .rdmaWrite _ _ => none
  | .rdmaWriteImmediate _ _ _ => none
  | .rdmaRead _ _ => none
  | .rdmaCompareSwap _ _ _ => none
  | .rdmaFetchAdd _ _ => none
  | .ecnMark _ => none
  | .powerOn _ _ => none
  | .bootRetry _ => none
  | .attestationQuote _ => none
  | .measurementExtend _ _ => none
  | .telemetryReport _ _ => none
  | .clockGovern _ => none
  | .stopRequest _ => none
  | .stopResume => none
  | .energyWeightWrite _ _ _ => none
  | .registerWrite _ => none
  | .systemCoreMemoryAccess _ _ => none
  | .pcieDmaAccess _ => none
  | .heartbeatReceive _ _ => none
  | .peerReadmission _ => none
  | .residenceEnergyCharge _ => none
  | .execTimeCharge _ => none

end Sys2Proof
end

