-- ==== Sys2Proof/Machine/Float.lean ====
section
/-! DEFINITION. Floating-point arithmetic, compares, functions, packed pairs, conversions (06 R143 to R149). -/

namespace Sys2Proof.Machine

/-- Operations that read A and B only, or A only, as `State.vecF` takes them. -/
def onTwo (f : Mods → Nat → Nat → Nat × Flags) (m : Mods) (x y _ : Nat) : Nat × Flags := f m x y
def onOne (f : Nat → Nat × Flags) (_ : Mods) (x _ _ : Nat) : Nat × Flags := f x

/-- FCOPYS: the sign of b on a, a bit move (R145). -/
def copySign (x y : Nat) : Nat := y / 2 ^ 31 * 2 ^ 31 + x % 2 ^ 31

/-- FADD (06 R145): a + b, rounded once. -/
def execFadd (p : BitVec 4) (d a b : BitVec 6) (n : BitVec 1) (s : State) :
    Host.Outcome State Fault Refusal :=
  s.vecF 0x08 0 1 p d a b n false (onTwo (fadd .f32))

/-- FSUB (06 R145): a − b, rounded once. -/
def execFsub (p : BitVec 4) (d a b : BitVec 6) (n : BitVec 1) (s : State) :
    Host.Outcome State Fault Refusal :=
  s.vecF 0x08 1 1 p d a b n false (onTwo (fsub .f32))

/-- FMUL (06 R145): a × b, rounded once. -/
def execFmul (p : BitVec 4) (d a b : BitVec 6) (n : BitVec 1) (s : State) :
    Host.Outcome State Fault Refusal :=
  s.vecF 0x08 2 1 p d a b n false (onTwo (fmul .f32))

/-- FFMA (06 R145): a × b + c, c the old D, rounded once. -/
def execFfma (p : BitVec 4) (d a b : BitVec 6) (n : BitVec 1) (s : State) :
    Host.Outcome State Fault Refusal :=
  s.vecF 0x08 3 1 p d a b n true (fun m x y z => ffma .f32 m false x y z)

/-- FMIN (06 R145): the smaller, −0 below +0; a NaN gives way to a number. -/
def execFmin (p : BitVec 4) (d a b : BitVec 6) (n : BitVec 1) (s : State) :
    Host.Outcome State Fault Refusal :=
  s.vecF 0x08 4 1 p d a b n false (onTwo (fun _ => fminmax .f32 false false))

/-- FMAX (06 R145): the larger, likewise. -/
def execFmax (p : BitVec 4) (d a b : BitVec 6) (n : BitVec 1) (s : State) :
    Host.Outcome State Fault Refusal :=
  s.vecF 0x08 5 1 p d a b n false (onTwo (fun _ => fminmax .f32 false true))

/-- FMNA (06 R145): c − a × b, c the old D, rounded once. -/
def execFmna (p : BitVec 4) (d a b : BitVec 6) (n : BitVec 1) (s : State) :
    Host.Outcome State Fault Refusal :=
  s.vecF 0x08 6 1 p d a b n true (fun m x y z => ffma .f32 m true x y z)

/-- FCOPYS (06 R145): the magnitude of a with the sign of b. -/
def execFcopys (p : BitVec 4) (d a b : BitVec 6) (n : BitVec 1) (s : State) :
    Host.Outcome State Fault Refusal :=
  s.vecF 0x08 7 1 p d a b n false (onTwo (fun _ x y => (copySign x y, 0)))

/-- FSET_EQ (06 R143): ordered and equal. -/
def execFsetEq (p : BitVec 4) (g : BitVec 2) (k : BitVec 3) (a b : BitVec 6) (s : State) :
    Host.Outcome State Fault Refusal :=
  s.setP 0x09 0 1 p g k a b (fun x y => fsetCond 0 x.toNat y.toNat)

/-- FSET_NE (06 R143): unordered, or not equal. -/
def execFsetNe (p : BitVec 4) (g : BitVec 2) (k : BitVec 3) (a b : BitVec 6) (s : State) :
    Host.Outcome State Fault Refusal :=
  s.setP 0x09 1 1 p g k a b (fun x y => fsetCond 1 x.toNat y.toNat)

/-- FSET_LT (06 R143): ordered and a < b. -/
def execFsetLt (p : BitVec 4) (g : BitVec 2) (k : BitVec 3) (a b : BitVec 6) (s : State) :
    Host.Outcome State Fault Refusal :=
  s.setP 0x09 2 1 p g k a b (fun x y => fsetCond 2 x.toNat y.toNat)

/-- FSET_LE (06 R143): ordered and a ≤ b. -/
def execFsetLe (p : BitVec 4) (g : BitVec 2) (k : BitVec 3) (a b : BitVec 6) (s : State) :
    Host.Outcome State Fault Refusal :=
  s.setP 0x09 3 1 p g k a b (fun x y => fsetCond 3 x.toNat y.toNat)

/-- FSET_ORD (06 R143): neither operand a NaN. -/
def execFsetOrd (p : BitVec 4) (g : BitVec 2) (k : BitVec 3) (a b : BitVec 6) (s : State) :
    Host.Outcome State Fault Refusal :=
  s.setP 0x09 4 1 p g k a b (fun x y => fsetCond 4 x.toNat y.toNat)

/-- FSET_UNORD (06 R143): either operand a NaN. -/
def execFsetUnord (p : BitVec 4) (g : BitVec 2) (k : BitVec 3) (a b : BitVec 6) (s : State) :
    Host.Outcome State Fault Refusal :=
  s.setP 0x09 5 1 p g k a b (fun x y => fsetCond 5 x.toNat y.toNat)

/-- FSET_EQU (06 R143): unordered, or equal. -/
def execFsetEqu (p : BitVec 4) (g : BitVec 2) (k : BitVec 3) (a b : BitVec 6) (s : State) :
    Host.Outcome State Fault Refusal :=
  s.setP 0x09 6 1 p g k a b (fun x y => fsetCond 6 x.toNat y.toNat)

/-- FSET_LTU (06 R143): unordered, or a < b. -/
def execFsetLtu (p : BitVec 4) (g : BitVec 2) (k : BitVec 3) (a b : BitVec 6) (s : State) :
    Host.Outcome State Fault Refusal :=
  s.setP 0x09 7 1 p g k a b (fun x y => fsetCond 7 x.toNat y.toNat)

/-- FRCP (06 R146): 1/a, within the bound of its row. -/
def execFrcp (p : BitVec 4) (d a : BitVec 6) (n : BitVec 1) (s : State) :
    Host.Outcome State Fault Refusal :=
  s.vecF 0x0A 0 2 p d a 56 n false (onOne (sfuOp 0))

/-- FRSQ (06 R146): 1/√a, within the bound of its row. -/
def execFrsq (p : BitVec 4) (d a : BitVec 6) (n : BitVec 1) (s : State) :
    Host.Outcome State Fault Refusal :=
  s.vecF 0x0A 1 2 p d a 56 n false (onOne (sfuOp 1))

/-- FSQRT (06 R146): √a, within the bound of its row. -/
def execFsqrt (p : BitVec 4) (d a : BitVec 6) (n : BitVec 1) (s : State) :
    Host.Outcome State Fault Refusal :=
  s.vecF 0x0A 2 2 p d a 56 n false (onOne (sfuOp 2))

/-- FEX2 (06 R146): 2^a, within the bound of its row. -/
def execFex2 (p : BitVec 4) (d a : BitVec 6) (n : BitVec 1) (s : State) :
    Host.Outcome State Fault Refusal :=
  s.vecF 0x0A 3 2 p d a 56 n false (onOne (sfuOp 3))

/-- FLG2 (06 R146): log2 a, within the bound of its row. -/
def execFlg2 (p : BitVec 4) (d a : BitVec 6) (n : BitVec 1) (s : State) :
    Host.Outcome State Fault Refusal :=
  s.vecF 0x0A 4 2 p d a 56 n false (onOne (sfuOp 4))

/-- FSIN (06 R146): sin a, within the bound of its row. -/
def execFsin (p : BitVec 4) (d a : BitVec 6) (n : BitVec 1) (s : State) :
    Host.Outcome State Fault Refusal :=
  s.vecF 0x0A 5 2 p d a 56 n false (onOne (sfuOp 5))

/-- FCOS (06 R146): cos a, within the bound of its row. -/
def execFcos (p : BitVec 4) (d a : BitVec 6) (n : BitVec 1) (s : State) :
    Host.Outcome State Fault Refusal :=
  s.vecF 0x0A 6 2 p d a 56 n false (onOne (sfuOp 6))

/-- FTANH (06 R146): tanh a, within the bound of its row. -/
def execFtanh (p : BitVec 4) (d a : BitVec 6) (n : BitVec 1) (s : State) :
    Host.Outcome State Fault Refusal :=
  s.vecF 0x0A 7 2 p d a 56 n false (onOne (sfuOp 7))

/-- HADD2_F16 (06 R147): element by element, a + b. -/
def execHadd2F16 (p : BitVec 4) (d a b : BitVec 6) (n : BitVec 1) (s : State) :
    Host.Outcome State Fault Refusal :=
  s.vecF 0x0B 0 3 p d a b n false (fun m x y z => packed (fun x y _ => fadd .f16 m x y) x y z)

/-- HSUB2_F16 (06 R147): element by element, a − b. -/
def execHsub2F16 (p : BitVec 4) (d a b : BitVec 6) (n : BitVec 1) (s : State) :
    Host.Outcome State Fault Refusal :=
  s.vecF 0x0B 1 3 p d a b n false (fun m x y z => packed (fun x y _ => fsub .f16 m x y) x y z)

/-- HMUL2_F16 (06 R147): element by element, a × b. -/
def execHmul2F16 (p : BitVec 4) (d a b : BitVec 6) (n : BitVec 1) (s : State) :
    Host.Outcome State Fault Refusal :=
  s.vecF 0x0B 2 3 p d a b n false (fun m x y z => packed (fun x y _ => fmul .f16 m x y) x y z)

/-- HFMA2_F16 (06 R147): element by element, a × b + c, c the old D. -/
def execHfma2F16 (p : BitVec 4) (d a b : BitVec 6) (n : BitVec 1) (s : State) :
    Host.Outcome State Fault Refusal :=
  s.vecF 0x0B 3 3 p d a b n true (fun m x y z => packed (ffma .f16 m false) x y z)

/-- HMIN2_F16 (06 R147): element by element, the smaller. -/
def execHmin2F16 (p : BitVec 4) (d a b : BitVec 6) (n : BitVec 1) (s : State) :
    Host.Outcome State Fault Refusal :=
  s.vecF 0x0B 4 3 p d a b n false (fun m x y z => packed (fun x y _ => fminmax .f16 m.sat false x y) x y z)

/-- HMAX2_F16 (06 R147): element by element, the larger. -/
def execHmax2F16 (p : BitVec 4) (d a b : BitVec 6) (n : BitVec 1) (s : State) :
    Host.Outcome State Fault Refusal :=
  s.vecF 0x0B 5 3 p d a b n false (fun m x y z => packed (fun x y _ => fminmax .f16 m.sat true x y) x y z)

/-- HDOT2_F16 (06 R147): a0 × b0 + a1 × b1 + c as F32, c the old D, one rounding. -/
def execHdot2F16 (p : BitVec 4) (d a b : BitVec 6) (n : BitVec 1) (s : State) :
    Host.Outcome State Fault Refusal :=
  s.vecF 0x0B 6 3 p d a b n true (hdot .f16)

/-- HADD2_BF16 (06 R147): element by element, a + b. -/
def execHadd2Bf16 (p : BitVec 4) (d a b : BitVec 6) (n : BitVec 1) (s : State) :
    Host.Outcome State Fault Refusal :=
  s.vecF 0x0C 0 3 p d a b n false (fun m x y z => packed (fun x y _ => fadd .bf16 m x y) x y z)

/-- HSUB2_BF16 (06 R147): element by element, a − b. -/
def execHsub2Bf16 (p : BitVec 4) (d a b : BitVec 6) (n : BitVec 1) (s : State) :
    Host.Outcome State Fault Refusal :=
  s.vecF 0x0C 1 3 p d a b n false (fun m x y z => packed (fun x y _ => fsub .bf16 m x y) x y z)

/-- HMUL2_BF16 (06 R147): element by element, a × b. -/
def execHmul2Bf16 (p : BitVec 4) (d a b : BitVec 6) (n : BitVec 1) (s : State) :
    Host.Outcome State Fault Refusal :=
  s.vecF 0x0C 2 3 p d a b n false (fun m x y z => packed (fun x y _ => fmul .bf16 m x y) x y z)

/-- HFMA2_BF16 (06 R147): element by element, a × b + c, c the old D. -/
def execHfma2Bf16 (p : BitVec 4) (d a b : BitVec 6) (n : BitVec 1) (s : State) :
    Host.Outcome State Fault Refusal :=
  s.vecF 0x0C 3 3 p d a b n true (fun m x y z => packed (ffma .bf16 m false) x y z)

/-- HMIN2_BF16 (06 R147): element by element, the smaller. -/
def execHmin2Bf16 (p : BitVec 4) (d a b : BitVec 6) (n : BitVec 1) (s : State) :
    Host.Outcome State Fault Refusal :=
  s.vecF 0x0C 4 3 p d a b n false (fun m x y z => packed (fun x y _ => fminmax .bf16 m.sat false x y) x y z)

/-- HMAX2_BF16 (06 R147): element by element, the larger. -/
def execHmax2Bf16 (p : BitVec 4) (d a b : BitVec 6) (n : BitVec 1) (s : State) :
    Host.Outcome State Fault Refusal :=
  s.vecF 0x0C 5 3 p d a b n false (fun m x y z => packed (fun x y _ => fminmax .bf16 m.sat true x y) x y z)

/-- HDOT2_BF16 (06 R147): a0 × b0 + a1 × b1 + c as F32, c the old D, one rounding. -/
def execHdot2Bf16 (p : BitVec 4) (d a b : BitVec 6) (n : BitVec 1) (s : State) :
    Host.Outcome State Fault Refusal :=
  s.vecF 0x0C 6 3 p d a b n true (hdot .bf16)

/-- CVT (06 R148): A converted as the code in the B field names, by the rounding selection of FN. -/
def execCvt (p : BitVec 4) (d a c : BitVec 6) (n : BitVec 1) (r : BitVec 3) (s : State) :
    Host.Outcome State Fault Refusal :=
  s.compute
    { vecAttr 0x0D r.toNat 3 p d a 56 n false with
      legal := dstNw d n && src a && cvtCode c && decide (r.toNat < 6) }
    (fun i s =>
      let one := fun (l : Nat) => cvtOp c.toNat r.toNat (i.op l a).1.toNat
      (s.results i d (nwOf n) (fun l => (BitVec.ofNat 32 (one l).1, (i.op l a).2))).raiseFlags i
        ((lanesOf i.act).foldl (fun (g : Flags) l => g ||| (one l).2) 0))

/-- FRND_RN (06 R149): a rounded to an integral F32 value. -/
def execFrndRn (p : BitVec 4) (d a : BitVec 6) (n : BitVec 1) (s : State) :
    Host.Outcome State Fault Refusal :=
  s.vecF 0x0E 0 3 p d a 56 n false (onOne (frnd .rn))

/-- FRND_RZ (06 R149): a rounded to an integral F32 value. -/
def execFrndRz (p : BitVec 4) (d a : BitVec 6) (n : BitVec 1) (s : State) :
    Host.Outcome State Fault Refusal :=
  s.vecF 0x0E 1 3 p d a 56 n false (onOne (frnd .rz))

/-- FRND_RD (06 R149): a rounded to an integral F32 value. -/
def execFrndRd (p : BitVec 4) (d a : BitVec 6) (n : BitVec 1) (s : State) :
    Host.Outcome State Fault Refusal :=
  s.vecF 0x0E 2 3 p d a 56 n false (onOne (frnd .rd))

/-- FRND_RU (06 R149): a rounded to an integral F32 value. -/
def execFrndRu (p : BitVec 4) (d a : BitVec 6) (n : BitVec 1) (s : State) :
    Host.Outcome State Fault Refusal :=
  s.vecF 0x0E 3 3 p d a 56 n false (onOne (frnd .ru))

/-- FFRAC (06 R149): the fraction of a, with its sign. -/
def execFfrac (p : BitVec 4) (d a : BitVec 6) (n : BitVec 1) (s : State) :
    Host.Outcome State Fault Refusal :=
  s.vecF 0x0E 4 3 p d a 56 n false (onOne ffrac)

/-- FEXP (06 R149): floor(log2 |a|) as I32. -/
def execFexp (p : BitVec 4) (d a : BitVec 6) (n : BitVec 1) (s : State) :
    Host.Outcome State Fault Refusal :=
  s.vecF 0x0E 5 3 p d a 56 n false (onOne fexp)

/-- FSCALE (06 R149): a × 2^b, rounded once. -/
def execFscale (p : BitVec 4) (d a b : BitVec 6) (n : BitVec 1) (s : State) :
    Host.Outcome State Fault Refusal :=
  s.vecF 0x0E 6 3 p d a b n false (onTwo (fun m x y => fscale m x (sextNat y 32)))

/-- FCLASS (06 R149): the one-hot class of a. -/
def execFclass (p : BitVec 4) (d a : BitVec 6) (n : BitVec 1) (s : State) :
    Host.Outcome State Fault Refusal :=
  s.vecF 0x0E 7 3 p d a 56 n false (onOne (fun x => (fclass x, 0)))

end Sys2Proof.Machine
end

