-- ==== Sys2Proof/Machine/Integer.lean ====
section
/-! DEFINITION. Integer and bit operations, integer compares, selection (06 R138 to R144). -/

namespace Sys2Proof.Machine

/-- Saturate to I32 (01 R27). -/
def satI32 (x : Int) : Word := BitVec.ofInt 32 (max (-2147483648) (min 2147483647 x))

/-- Minimum or maximum by a test of the first operand. -/
def pick (c : Bool) (x y : Word) : Word := if c then x else y

/-- SHL, SHR and SAR by a full-width count (R138). -/
def shlW (x y : Word) : Word := if 32 ≤ y.toNat then 0 else x <<< y.toNat
def shrW (x y : Word) : Word := if 32 ≤ y.toNat then 0 else x >>> y.toNat
def sarW (x y : Word) : Word := x.sshiftRight (min y.toNat 31)
def rotW (x : Word) (n : Nat) : Word := x.rotateLeft (n % 32)

/-- Number of one bits, leading zeros, bit reversal (R138). -/
def popcW (x : Word) : Word := BitVec.ofNat 32 ((List.range 32).filter (inMask x)).length
def clzW (x : Word) : Word := if x = 0 then 32 else BitVec.ofNat 32 (31 - x.toNat.log2)
def brevW (x : Word) : Word := (lanesOf x).foldl (fun r i => r ||| laneBit (31 - i)) 0

/-- Bit of a value extended past bit 31 by its sign or by 0 (R140). -/
def extBit (signed : Bool) (x : Word) (i : Nat) : Bool := inMask x (if 32 ≤ i ∧ signed then 31 else i)

/-- BFE: bits pos to pos + len − 1 of a, extended (R140). -/
def bfeW (signed : Bool) (x y : Word) : Word :=
  let pos := field y 0 8
  let len := min (field y 8 8) 32
  let f := ((List.range len).filter (fun i => extBit signed x (pos + i))).foldl (fun r i => r + 2 ^ i) 0
  if len = 0 then 0 else if signed then BitVec.ofInt 32 (sextNat f len) else BitVec.ofNat 32 f

/-- BFI: the low len bits of a put into c at pos (R140). -/
def bfiW (x y z : Word) : Word :=
  let pos := field y 0 8
  let len := min (field y 8 8) 32
  ((List.range len).filter (fun i => decide (pos + i < 32))).foldl (fun t i =>
    if inMask x i then t ||| laneBit (pos + i) else t &&& ~~~laneBit (pos + i)) z

/-- LOP3: bit i of the result is the table bit at a<i> + 2 b<i> + 4 c<i> (R141). -/
def lop3W (t : Word) (x y z : Word) : Word :=
  maskOf ((List.range 32).filter (fun i =>
    inMask t ((inMask x i).toNat + 2 * (inMask y i).toNat + 4 * (inMask z i).toNat)))

/-- PRMT: each byte of the result, chosen by a byte of the selector from the eight bytes of a and b (R141). -/
def prmtW (x y z : Word) : Word :=
  BitVec.ofNat 32 (leNat ((List.range 4).map (fun k =>
    let c := field z (8 * k) 8
    let q := field (y ++ x) (8 * (c % 8)) 8
    if natBit c 6 then 0 else if natBit c 7 then (if natBit q 7 then 0xFF else 0) else BitVec.ofNat 8 q)))

/-- IADD (06 R138): a + b. -/
def execIadd (p : BitVec 4) (d a b : BitVec 6) (n : BitVec 1) (s : State) :
    Host.Outcome State Fault Refusal :=
  s.vecI 0x00 0 p d a b n false (fun x y _ => x + y)

/-- ISUB (06 R138): a − b. -/
def execIsub (p : BitVec 4) (d a b : BitVec 6) (n : BitVec 1) (s : State) :
    Host.Outcome State Fault Refusal :=
  s.vecI 0x00 1 p d a b n false (fun x y _ => x - y)

/-- IMUL (06 R138): the low word of a × b. -/
def execImul (p : BitVec 4) (d a b : BitVec 6) (n : BitVec 1) (s : State) :
    Host.Outcome State Fault Refusal :=
  s.vecI 0x00 2 p d a b n false (fun x y _ => x * y)

/-- IMAD (06 R138): the low word of a × b + c, c the old D. -/
def execImad (p : BitVec 4) (d a b : BitVec 6) (n : BitVec 1) (s : State) :
    Host.Outcome State Fault Refusal :=
  s.vecI 0x00 3 p d a b n true (fun x y z => x * y + z)

/-- IMULH_I32 (06 R138): the high word of the signed product. -/
def execImulhI32 (p : BitVec 4) (d a b : BitVec 6) (n : BitVec 1) (s : State) :
    Host.Outcome State Fault Refusal :=
  s.vecI 0x00 4 p d a b n false (fun x y _ => BitVec.ofInt 32 (x.toInt * y.toInt / 4294967296))

/-- IMULH_N32 (06 R138): the high word of the unsigned product. -/
def execImulhN32 (p : BitVec 4) (d a b : BitVec 6) (n : BitVec 1) (s : State) :
    Host.Outcome State Fault Refusal :=
  s.vecI 0x00 5 p d a b n false (fun x y _ => BitVec.ofNat 32 (x.toNat * y.toNat / 4294967296))

/-- IADDS_I32 (06 R138): the signed sum, saturated. -/
def execIaddsI32 (p : BitVec 4) (d a b : BitVec 6) (n : BitVec 1) (s : State) :
    Host.Outcome State Fault Refusal :=
  s.vecI 0x00 6 p d a b n false (fun x y _ => satI32 (x.toInt + y.toInt))

/-- ISUBS_I32 (06 R138): the signed difference, saturated. -/
def execIsubsI32 (p : BitVec 4) (d a b : BitVec 6) (n : BitVec 1) (s : State) :
    Host.Outcome State Fault Refusal :=
  s.vecI 0x00 7 p d a b n false (fun x y _ => satI32 (x.toInt - y.toInt))

/-- IMIN_I32 (06 R138): the smaller, signed. -/
def execIminI32 (p : BitVec 4) (d a b : BitVec 6) (n : BitVec 1) (s : State) :
    Host.Outcome State Fault Refusal :=
  s.vecI 0x01 0 p d a b n false (fun x y _ => pick (x.slt y) x y)

/-- IMIN_N32 (06 R138): the smaller, unsigned. -/
def execIminN32 (p : BitVec 4) (d a b : BitVec 6) (n : BitVec 1) (s : State) :
    Host.Outcome State Fault Refusal :=
  s.vecI 0x01 1 p d a b n false (fun x y _ => pick (x.ult y) x y)

/-- IMAX_I32 (06 R138): the larger, signed. -/
def execImaxI32 (p : BitVec 4) (d a b : BitVec 6) (n : BitVec 1) (s : State) :
    Host.Outcome State Fault Refusal :=
  s.vecI 0x01 2 p d a b n false (fun x y _ => pick (x.slt y) y x)

/-- IMAX_N32 (06 R138): the larger, unsigned. -/
def execImaxN32 (p : BitVec 4) (d a b : BitVec 6) (n : BitVec 1) (s : State) :
    Host.Outcome State Fault Refusal :=
  s.vecI 0x01 3 p d a b n false (fun x y _ => pick (x.ult y) y x)

/-- IABS_I32 (06 R138): the magnitude; 0x8000_0000 stays. -/
def execIabsI32 (p : BitVec 4) (d a : BitVec 6) (n : BitVec 1) (s : State) :
    Host.Outcome State Fault Refusal :=
  s.vecI 0x01 4 p d a 56 n false (fun x _ _ => pick (x.slt 0) (-x) x)

/-- IDIFF_N32 (06 R138): the magnitude of the unsigned difference. -/
def execIdiffN32 (p : BitVec 4) (d a b : BitVec 6) (n : BitVec 1) (s : State) :
    Host.Outcome State Fault Refusal :=
  s.vecI 0x01 5 p d a b n false (fun x y _ => pick (x.ult y) (y - x) (x - y))

/-- IADD64 (06 R139): the 64-bit sum of register pairs. -/
def execIadd64 (p : BitVec 4) (d a b : BitVec 6) (s : State) :
    Host.Outcome State Fault Refusal :=
  s.vec64 6 p d a b (fun x y => x + y)

/-- ISUB64 (06 R139): the 64-bit difference of register pairs. -/
def execIsub64 (p : BitVec 4) (d a b : BitVec 6) (s : State) :
    Host.Outcome State Fault Refusal :=
  s.vec64 7 p d a b (fun x y => x - y)

/-- AND (06 R138): a & b. -/
def execAndV (p : BitVec 4) (d a b : BitVec 6) (n : BitVec 1) (s : State) :
    Host.Outcome State Fault Refusal :=
  s.vecI 0x02 0 p d a b n false (fun x y _ => x &&& y)

/-- OR (06 R138): a | b. -/
def execOrV (p : BitVec 4) (d a b : BitVec 6) (n : BitVec 1) (s : State) :
    Host.Outcome State Fault Refusal :=
  s.vecI 0x02 1 p d a b n false (fun x y _ => x ||| y)

/-- XOR (06 R138): a ^ b. -/
def execXorV (p : BitVec 4) (d a b : BitVec 6) (n : BitVec 1) (s : State) :
    Host.Outcome State Fault Refusal :=
  s.vecI 0x02 2 p d a b n false (fun x y _ => x ^^^ y)

/-- ANDN (06 R138): a & ~b. -/
def execAndn (p : BitVec 4) (d a b : BitVec 6) (n : BitVec 1) (s : State) :
    Host.Outcome State Fault Refusal :=
  s.vecI 0x02 3 p d a b n false (fun x y _ => x &&& ~~~y)

/-- SHL (06 R138): a shifted left by b; 0 from 32 on. -/
def execShl (p : BitVec 4) (d a b : BitVec 6) (n : BitVec 1) (s : State) :
    Host.Outcome State Fault Refusal :=
  s.vecI 0x02 4 p d a b n false (fun x y _ => shlW x y)

/-- SHR (06 R138): a shifted right by b, zero-filled; 0 from 32 on. -/
def execShr (p : BitVec 4) (d a b : BitVec 6) (n : BitVec 1) (s : State) :
    Host.Outcome State Fault Refusal :=
  s.vecI 0x02 5 p d a b n false (fun x y _ => shrW x y)

/-- SAR (06 R138): a shifted right by b, sign-filled; all sign from 32 on. -/
def execSar (p : BitVec 4) (d a b : BitVec 6) (n : BitVec 1) (s : State) :
    Host.Outcome State Fault Refusal :=
  s.vecI 0x02 6 p d a b n false (fun x y _ => sarW x y)

/-- ROT (06 R138): a rotated left by b<4:0>. -/
def execRot (p : BitVec 4) (d a b : BitVec 6) (n : BitVec 1) (s : State) :
    Host.Outcome State Fault Refusal :=
  s.vecI 0x02 7 p d a b n false (fun x y _ => rotW x y.toNat)

/-- POPC (06 R138): the number of 1 bits. -/
def execPopc (p : BitVec 4) (d a : BitVec 6) (n : BitVec 1) (s : State) :
    Host.Outcome State Fault Refusal :=
  s.vecI 0x03 0 p d a 56 n false (fun x _ _ => popcW x)

/-- CLZ (06 R138): the leading zeros; 32 of 0. -/
def execClz (p : BitVec 4) (d a : BitVec 6) (n : BitVec 1) (s : State) :
    Host.Outcome State Fault Refusal :=
  s.vecI 0x03 1 p d a 56 n false (fun x _ _ => clzW x)

/-- BREV (06 R138): the bits reversed. -/
def execBrev (p : BitVec 4) (d a : BitVec 6) (n : BitVec 1) (s : State) :
    Host.Outcome State Fault Refusal :=
  s.vecI 0x03 2 p d a 56 n false (fun x _ _ => brevW x)

/-- BFE_I32 (06 R140): a bit field, sign-extended. -/
def execBfeI32 (p : BitVec 4) (d a b : BitVec 6) (n : BitVec 1) (s : State) :
    Host.Outcome State Fault Refusal :=
  s.vecI 0x03 3 p d a b n false (fun x y _ => bfeW true x y)

/-- BFE_N32 (06 R140): a bit field, zero-extended. -/
def execBfeN32 (p : BitVec 4) (d a b : BitVec 6) (n : BitVec 1) (s : State) :
    Host.Outcome State Fault Refusal :=
  s.vecI 0x03 4 p d a b n false (fun x y _ => bfeW false x y)

/-- BFI (06 R140): a bit field put into the old D. -/
def execBfi (p : BitVec 4) (d a b : BitVec 6) (n : BitVec 1) (s : State) :
    Host.Outcome State Fault Refusal :=
  s.vecI 0x03 5 p d a b n true (fun x y z => bfiW x y z)

/-- LOP3 (06 R141): the bitwise function whose table is s31<7:0> of the issuing unit. -/
def execLop3 (p : BitVec 4) (d a b : BitVec 6) (n : BitVec 1) (s : State) :
    Host.Outcome State Fault Refusal :=
  s.compute { vecAttr 0x03 6 0 p d a b n true with rs := [31] } (fun i s =>
    s.results i d (nwOf n) (fun l =>
      (lop3W (i.w.sRead i.act 31) (i.op l a).1 (i.op l b).1 (i.third l d).1,
       (i.op l a).2 || (i.op l b).2 || (i.third l d).2)))

/-- PRMT (06 R141): bytes of a and b chosen by the old D. -/
def execPrmt (p : BitVec 4) (d a b : BitVec 6) (n : BitVec 1) (s : State) :
    Host.Outcome State Fault Refusal :=
  s.vecI 0x03 7 p d a b n true (fun x y z => prmtW x y z)

/-- ISET_EQ (06 R143): a = b. -/
def execIsetEq (p : BitVec 4) (g : BitVec 2) (k : BitVec 3) (a b : BitVec 6) (s : State) :
    Host.Outcome State Fault Refusal :=
  s.setP 0x04 0 0 p g k a b (fun x y => (x == y, 0))

/-- ISET_NE (06 R143): a ≠ b. -/
def execIsetNe (p : BitVec 4) (g : BitVec 2) (k : BitVec 3) (a b : BitVec 6) (s : State) :
    Host.Outcome State Fault Refusal :=
  s.setP 0x04 1 0 p g k a b (fun x y => (x != y, 0))

/-- ISET_LT_I32 (06 R143): signed a < b. -/
def execIsetLtI32 (p : BitVec 4) (g : BitVec 2) (k : BitVec 3) (a b : BitVec 6) (s : State) :
    Host.Outcome State Fault Refusal :=
  s.setP 0x04 2 0 p g k a b (fun x y => (x.slt y, 0))

/-- ISET_LE_I32 (06 R143): signed a ≤ b. -/
def execIsetLeI32 (p : BitVec 4) (g : BitVec 2) (k : BitVec 3) (a b : BitVec 6) (s : State) :
    Host.Outcome State Fault Refusal :=
  s.setP 0x04 3 0 p g k a b (fun x y => (x.sle y, 0))

/-- ISET_LT_N32 (06 R143): unsigned a < b. -/
def execIsetLtN32 (p : BitVec 4) (g : BitVec 2) (k : BitVec 3) (a b : BitVec 6) (s : State) :
    Host.Outcome State Fault Refusal :=
  s.setP 0x04 4 0 p g k a b (fun x y => (x.ult y, 0))

/-- ISET_LE_N32 (06 R143): unsigned a ≤ b. -/
def execIsetLeN32 (p : BitVec 4) (g : BitVec 2) (k : BitVec 3) (a b : BitVec 6) (s : State) :
    Host.Outcome State Fault Refusal :=
  s.setP 0x04 5 0 p g k a b (fun x y => (x.ule y, 0))

/-- ISET_TST (06 R143): (a & b) ≠ 0. -/
def execIsetTst (p : BitVec 4) (g : BitVec 2) (k : BitVec 3) (a b : BitVec 6) (s : State) :
    Host.Outcome State Fault Refusal :=
  s.setP 0x04 6 0 p g k a b (fun x y => (x &&& y != 0, 0))

/-- ISET_NTST (06 R143): (a & b) = 0. -/
def execIsetNtst (p : BitVec 4) (g : BitVec 2) (k : BitVec 3) (a b : BitVec 6) (s : State) :
    Host.Outcome State Fault Refusal :=
  s.setP 0x04 7 0 p g k a b (fun x y => (x &&& y == 0, 0))

/-- SEL (06 R144): a where the selector predicate is 1, else b. -/
def execSel (p : BitVec 4) (d a b : BitVec 6) (n : BitVec 1) (k : BitVec 3) (s : State) :
    Host.Outcome State Fault Refusal :=
  s.compute { vecAttr 0x05 k.toNat 0 p d a b n false with rp := [k.toNat] } (fun i s =>
    s.results i d (nwOf n) (fun l =>
      (pick (inMask (i.w.pred k.toNat) l) (i.op l a).1 (i.op l b).1, (i.op l a).2 || (i.op l b).2)))

/-- IADDI (06 R142): a + the immediate. -/
def execIaddi (p : BitVec 4) (d a : BitVec 6) (i : BitVec 10) (s : State) :
    Host.Outcome State Fault Refusal :=
  s.vecImm 0x06 0 true p d a (fun h x => x + h.imm i)

/-- SHLI (06 R142): a shifted left. -/
def execShli (p : BitVec 4) (d a : BitVec 6) (i : BitVec 5) (s : State) :
    Host.Outcome State Fault Refusal :=
  s.vecImm 0x07 0 false p d a (fun _ x => x <<< i.toNat)

/-- SHRI (06 R142): a shifted right, zero-filled. -/
def execShri (p : BitVec 4) (d a : BitVec 6) (i : BitVec 5) (s : State) :
    Host.Outcome State Fault Refusal :=
  s.vecImm 0x07 1 false p d a (fun _ x => x >>> i.toNat)

/-- SARI (06 R142): a shifted right, sign-filled. -/
def execSari (p : BitVec 4) (d a : BitVec 6) (i : BitVec 5) (s : State) :
    Host.Outcome State Fault Refusal :=
  s.vecImm 0x07 2 false p d a (fun _ x => x.sshiftRight i.toNat)

/-- ROTI (06 R142): a rotated left. -/
def execRoti (p : BitVec 4) (d a : BitVec 6) (i : BitVec 5) (s : State) :
    Host.Outcome State Fault Refusal :=
  s.vecImm 0x07 3 false p d a (fun _ x => rotW x i.toNat)

/-- ANDI (06 R142): a & the sign-extended immediate. -/
def execAndi (p : BitVec 4) (d a : BitVec 6) (i : BitVec 7) (s : State) :
    Host.Outcome State Fault Refusal :=
  s.vecImm 0x07 4 false p d a (fun _ x => x &&& i.signExtend 32)

/-- ORI (06 R142): a | the sign-extended immediate. -/
def execOri (p : BitVec 4) (d a : BitVec 6) (i : BitVec 7) (s : State) :
    Host.Outcome State Fault Refusal :=
  s.vecImm 0x07 5 false p d a (fun _ x => x ||| i.signExtend 32)

/-- XORI (06 R142): a ^ the sign-extended immediate. -/
def execXori (p : BitVec 4) (d a : BitVec 6) (i : BitVec 7) (s : State) :
    Host.Outcome State Fault Refusal :=
  s.vecImm 0x07 6 false p d a (fun _ x => x ^^^ i.signExtend 32)

end Sys2Proof.Machine
end

