-- ==== Sys2Proof/Machine/Sink.lean ====
section
/-! DEFINITION. Sink groups: members, form, running a group at the core, the choice of level (07 R176 to R183). -/

namespace Sys2Proof.Machine

/-! ## Members (07 R177, R178) -/

/-- What a group holds of one lane: its registers, s31, and its predicates by number, as captured at GBEGIN and as
earlier members have written them; the flags raised under CAP. -/
structure Mem where
  lane : Nat
  regs : Lane
  s31 : Word := 0
  preds : Nat := 0
  flags : Flags := 0
  deriving DecidableEq, Repr

/-- A source operand of a member: no latch. -/
def Mem.op (m : Mem) (c : BitVec 6) : Word × Bool :=
  if c.toNat < 56 then (m.regs.reg c.toNat, m.regs.tainted c.toNat)
  else if c = 57 then (BitVec.ofNat 32 m.lane, false) else (0, false)

def Mem.set (m : Mem) (d : Nat) (x : Word) (t : Bool) : Mem := { m with regs := m.regs.setReg d x t }

def Mem.intOp (m : Mem) (d a b : BitVec 6) (third : Bool) (f : Word → Word → Word → Word) : Mem :=
  let z := if third then m.op d else (0, false)
  m.set d.toNat (f (m.op a).1 (m.op b).1 z.1) ((m.op a).2 || (m.op b).2 || z.2)

def Mem.floatOp (m : Mem) (md : Mods) (d a b : BitVec 6) (third : Bool) (f : Mods → Nat → Nat → Nat → Nat × Flags) : Mem :=
  let z := if third then m.op d else (0, false)
  let r := f md (m.op a).1.toNat (m.op b).1.toNat z.1.toNat
  { m.set d.toNat (BitVec.ofNat 32 r.1) ((m.op a).2 || (m.op b).2 || z.2) with flags := m.flags ||| r.2 }

def Mem.op64 (m : Mem) (a : BitVec 6) : BitVec 64 :=
  if a = 56 then 0 else m.regs.reg (a.toNat + 1) ++ m.regs.reg a.toNat

def Mem.pairOp (m : Mem) (d a b : BitVec 6) (f : BitVec 64 → BitVec 64 → BitVec 64) : Mem :=
  let v := f (m.op64 a) (m.op64 b)
  let t := (pairRegs a ++ pairRegs b).any m.regs.tainted
  (m.set d.toNat (v.extractLsb' 0 32) t).set (d.toNat + 1) (v.extractLsb' 32 32) t

/-- An arithmetic member's effect on the lane; the flags it raises stay with the caller. -/
def Mem.compute (m : Mem) (h : Hints) : Instr → Option Mem
  | .iadd _ d a b _ => some (m.intOp d a b false (fun x y _ => x + y))
  | .isub _ d a b _ => some (m.intOp d a b false (fun x y _ => x - y))
  | .imul _ d a b _ => some (m.intOp d a b false (fun x y _ => x * y))
  | .imad _ d a b _ => some (m.intOp d a b true (fun x y z => x * y + z))
  | .imulhI32 _ d a b _ => some (m.intOp d a b false (fun x y _ => BitVec.ofInt 32 (x.toInt * y.toInt / 4294967296)))
  | .imulhN32 _ d a b _ => some (m.intOp d a b false (fun x y _ => BitVec.ofNat 32 (x.toNat * y.toNat / 4294967296)))
  | .iaddsI32 _ d a b _ => some (m.intOp d a b false (fun x y _ => satI32 (x.toInt + y.toInt)))
  | .isubsI32 _ d a b _ => some (m.intOp d a b false (fun x y _ => satI32 (x.toInt - y.toInt)))
  | .iminI32 _ d a b _ => some (m.intOp d a b false (fun x y _ => pick (x.slt y) x y))
  | .iminN32 _ d a b _ => some (m.intOp d a b false (fun x y _ => pick (x.ult y) x y))
  | .imaxI32 _ d a b _ => some (m.intOp d a b false (fun x y _ => pick (x.slt y) y x))
  | .imaxN32 _ d a b _ => some (m.intOp d a b false (fun x y _ => pick (x.ult y) y x))
  | .iabsI32 _ d a _ => some (m.intOp d a 56 false (fun x _ _ => pick (x.slt 0) (-x) x))
  | .idiffN32 _ d a b _ => some (m.intOp d a b false (fun x y _ => pick (x.ult y) (y - x) (x - y)))
  | .iadd64 _ d a b => some (m.pairOp d a b (fun x y => x + y))
  | .isub64 _ d a b => some (m.pairOp d a b (fun x y => x - y))
  | .andV _ d a b _ => some (m.intOp d a b false (fun x y _ => x &&& y))
  | .orV _ d a b _ => some (m.intOp d a b false (fun x y _ => x ||| y))
  | .xorV _ d a b _ => some (m.intOp d a b false (fun x y _ => x ^^^ y))
  | .andn _ d a b _ => some (m.intOp d a b false (fun x y _ => x &&& ~~~y))
  | .shl _ d a b _ => some (m.intOp d a b false (fun x y _ => shlW x y))
  | .shr _ d a b _ => some (m.intOp d a b false (fun x y _ => shrW x y))
  | .sar _ d a b _ => some (m.intOp d a b false (fun x y _ => sarW x y))
  | .rot _ d a b _ => some (m.intOp d a b false (fun x y _ => rotW x y.toNat))
  | .popc _ d a _ => some (m.intOp d a 56 false (fun x _ _ => popcW x))
  | .clz _ d a _ => some (m.intOp d a 56 false (fun x _ _ => clzW x))
  | .brev _ d a _ => some (m.intOp d a 56 false (fun x _ _ => brevW x))
  | .bfeI32 _ d a b _ => some (m.intOp d a b false (fun x y _ => bfeW true x y))
  | .bfeN32 _ d a b _ => some (m.intOp d a b false (fun x y _ => bfeW false x y))
  | .bfi _ d a b _ => some (m.intOp d a b true (fun x y z => bfiW x y z))
  | .lop3 _ d a b _ => some (m.intOp d a b true (lop3W m.s31))
  | .prmt _ d a b _ => some (m.intOp d a b true (fun x y z => prmtW x y z))
  | .sel _ d a b _ k => some (m.intOp d a b false (fun x y _ => pick (natBit m.preds k.toNat) x y))
  | .iaddi _ d a i => some (m.intOp d a 56 false (fun x _ _ => x + h.imm i))
  | .shli _ d a i => some (m.intOp d a 56 false (fun x _ _ => x <<< i.toNat))
  | .shri _ d a i => some (m.intOp d a 56 false (fun x _ _ => x >>> i.toNat))
  | .sari _ d a i => some (m.intOp d a 56 false (fun x _ _ => x.sshiftRight i.toNat))
  | .roti _ d a i => some (m.intOp d a 56 false (fun x _ _ => rotW x i.toNat))
  | .andi _ d a i => some (m.intOp d a 56 false (fun x _ _ => x &&& i.signExtend 32))
  | .ori _ d a i => some (m.intOp d a 56 false (fun x _ _ => x ||| i.signExtend 32))
  | .xori _ d a i => some (m.intOp d a 56 false (fun x _ _ => x ^^^ i.signExtend 32))
  | .fadd _ d a b _ => some (m.floatOp h.mods d a b false (onTwo (fadd .f32)))
  | .fsub _ d a b _ => some (m.floatOp h.mods d a b false (onTwo (fsub .f32)))
  | .fmul _ d a b _ => some (m.floatOp h.mods d a b false (onTwo (fmul .f32)))
  | .ffma _ d a b _ => some (m.floatOp h.mods d a b true (fun m x y z => ffma .f32 m false x y z))
  | .fmin _ d a b _ => some (m.floatOp h.mods d a b false (onTwo (fun _ => fminmax .f32 false false)))
  | .fmax _ d a b _ => some (m.floatOp h.mods d a b false (onTwo (fun _ => fminmax .f32 false true)))
  | .fmna _ d a b _ => some (m.floatOp h.mods d a b true (fun m x y z => ffma .f32 m true x y z))
  | .fcopys _ d a b _ => some (m.floatOp h.mods d a b false (onTwo (fun _ x y => (copySign x y, 0))))
  | _ => none

/-- The registers of a run, and those that may hold coordinates. -/
def regRun (d : BitVec 6) (n : Nat) : List Nat := (List.range n).map (d.toNat + ·)
def coordRegs (c : BitVec 6) : List Nat := ((List.range 4).map (c.toNat + ·)).filter (· < 56)

/-- What the form of a member shows (R177). -/
structure Form where
  writes : List Nat
  reads : List Nat
  /-- source codes, among which no latch may stand -/
  codes : List (BitVec 6)
  nw : Bool := false
  view : Option (BitVec 7 × BitVec 6) := none
  load : Bool := false
  store : Bool := false
  deriving DecidableEq, Repr

/-- The form of a word that may be a member; none where it may not. -/
def formOf : Instr → Option Form
  | .iadd _ d a b n => some { writes := [d.toNat], reads := codesToRegs [a, b], codes := [a, b], nw := nwOf n }
  | .isub _ d a b n => some { writes := [d.toNat], reads := codesToRegs [a, b], codes := [a, b], nw := nwOf n }
  | .imul _ d a b n => some { writes := [d.toNat], reads := codesToRegs [a, b], codes := [a, b], nw := nwOf n }
  | .imad _ d a b n => some { writes := [d.toNat], reads := codesToRegs [a, b, d], codes := [a, b], nw := nwOf n }
  | .imulhI32 _ d a b n => some { writes := [d.toNat], reads := codesToRegs [a, b], codes := [a, b], nw := nwOf n }
  | .imulhN32 _ d a b n => some { writes := [d.toNat], reads := codesToRegs [a, b], codes := [a, b], nw := nwOf n }
  | .iaddsI32 _ d a b n => some { writes := [d.toNat], reads := codesToRegs [a, b], codes := [a, b], nw := nwOf n }
  | .isubsI32 _ d a b n => some { writes := [d.toNat], reads := codesToRegs [a, b], codes := [a, b], nw := nwOf n }
  | .iminI32 _ d a b n => some { writes := [d.toNat], reads := codesToRegs [a, b], codes := [a, b], nw := nwOf n }
  | .iminN32 _ d a b n => some { writes := [d.toNat], reads := codesToRegs [a, b], codes := [a, b], nw := nwOf n }
  | .imaxI32 _ d a b n => some { writes := [d.toNat], reads := codesToRegs [a, b], codes := [a, b], nw := nwOf n }
  | .imaxN32 _ d a b n => some { writes := [d.toNat], reads := codesToRegs [a, b], codes := [a, b], nw := nwOf n }
  | .iabsI32 _ d a n => some { writes := [d.toNat], reads := codesToRegs [a], codes := [a], nw := nwOf n }
  | .idiffN32 _ d a b n => some { writes := [d.toNat], reads := codesToRegs [a, b], codes := [a, b], nw := nwOf n }
  | .iadd64 _ d a b => some { writes := [d.toNat, d.toNat + 1], reads := pairRegs a ++ pairRegs b, codes := [a, b], nw := false }
  | .isub64 _ d a b => some { writes := [d.toNat, d.toNat + 1], reads := pairRegs a ++ pairRegs b, codes := [a, b], nw := false }
  | .andV _ d a b n => some { writes := [d.toNat], reads := codesToRegs [a, b], codes := [a, b], nw := nwOf n }
  | .orV _ d a b n => some { writes := [d.toNat], reads := codesToRegs [a, b], codes := [a, b], nw := nwOf n }
  | .xorV _ d a b n => some { writes := [d.toNat], reads := codesToRegs [a, b], codes := [a, b], nw := nwOf n }
  | .andn _ d a b n => some { writes := [d.toNat], reads := codesToRegs [a, b], codes := [a, b], nw := nwOf n }
  | .shl _ d a b n => some { writes := [d.toNat], reads := codesToRegs [a, b], codes := [a, b], nw := nwOf n }
  | .shr _ d a b n => some { writes := [d.toNat], reads := codesToRegs [a, b], codes := [a, b], nw := nwOf n }
  | .sar _ d a b n => some { writes := [d.toNat], reads := codesToRegs [a, b], codes := [a, b], nw := nwOf n }
  | .rot _ d a b n => some { writes := [d.toNat], reads := codesToRegs [a, b], codes := [a, b], nw := nwOf n }
  | .popc _ d a n => some { writes := [d.toNat], reads := codesToRegs [a], codes := [a], nw := nwOf n }
  | .clz _ d a n => some { writes := [d.toNat], reads := codesToRegs [a], codes := [a], nw := nwOf n }
  | .brev _ d a n => some { writes := [d.toNat], reads := codesToRegs [a], codes := [a], nw := nwOf n }
  | .bfeI32 _ d a b n => some { writes := [d.toNat], reads := codesToRegs [a, b], codes := [a, b], nw := nwOf n }
  | .bfeN32 _ d a b n => some { writes := [d.toNat], reads := codesToRegs [a, b], codes := [a, b], nw := nwOf n }
  | .bfi _ d a b n => some { writes := [d.toNat], reads := codesToRegs [a, b, d], codes := [a, b], nw := nwOf n }
  | .lop3 _ d a b n => some { writes := [d.toNat], reads := codesToRegs [a, b, d], codes := [a, b], nw := nwOf n }
  | .prmt _ d a b n => some { writes := [d.toNat], reads := codesToRegs [a, b, d], codes := [a, b], nw := nwOf n }
  | .sel _ d a b n _ => some { writes := [d.toNat], reads := codesToRegs [a, b], codes := [a, b], nw := nwOf n }
  | .iaddi _ d a _ => some { writes := [d.toNat], reads := codesToRegs [a], codes := [a], nw := false }
  | .shli _ d a _ => some { writes := [d.toNat], reads := codesToRegs [a], codes := [a], nw := false }
  | .shri _ d a _ => some { writes := [d.toNat], reads := codesToRegs [a], codes := [a], nw := false }
  | .sari _ d a _ => some { writes := [d.toNat], reads := codesToRegs [a], codes := [a], nw := false }
  | .roti _ d a _ => some { writes := [d.toNat], reads := codesToRegs [a], codes := [a], nw := false }
  | .andi _ d a _ => some { writes := [d.toNat], reads := codesToRegs [a], codes := [a], nw := false }
  | .ori _ d a _ => some { writes := [d.toNat], reads := codesToRegs [a], codes := [a], nw := false }
  | .xori _ d a _ => some { writes := [d.toNat], reads := codesToRegs [a], codes := [a], nw := false }
  | .fadd _ d a b n => some { writes := [d.toNat], reads := codesToRegs [a, b], codes := [a, b], nw := nwOf n }
  | .fsub _ d a b n => some { writes := [d.toNat], reads := codesToRegs [a, b], codes := [a, b], nw := nwOf n }
  | .fmul _ d a b n => some { writes := [d.toNat], reads := codesToRegs [a, b], codes := [a, b], nw := nwOf n }
  | .ffma _ d a b n => some { writes := [d.toNat], reads := codesToRegs [a, b, d], codes := [a, b], nw := nwOf n }
  | .fmin _ d a b n => some { writes := [d.toNat], reads := codesToRegs [a, b], codes := [a, b], nw := nwOf n }
  | .fmax _ d a b n => some { writes := [d.toNat], reads := codesToRegs [a, b], codes := [a, b], nw := nwOf n }
  | .fmna _ d a b n => some { writes := [d.toNat], reads := codesToRegs [a, b, d], codes := [a, b], nw := nwOf n }
  | .fcopys _ d a b n => some { writes := [d.toNat], reads := codesToRegs [a, b], codes := [a, b], nw := nwOf n }
  | .ldB8I _ d c v => some { writes := regRun d 1, reads := coordRegs c, codes := [], view := some (v, c), load := true }
  | .ldB8N _ d c v => some { writes := regRun d 1, reads := coordRegs c, codes := [], view := some (v, c), load := true }
  | .ldB16I _ d c v => some { writes := regRun d 1, reads := coordRegs c, codes := [], view := some (v, c), load := true }
  | .ldB16N _ d c v => some { writes := regRun d 1, reads := coordRegs c, codes := [], view := some (v, c), load := true }
  | .ldB32 _ d c v => some { writes := regRun d 1, reads := coordRegs c, codes := [], view := some (v, c), load := true }
  | .ldB64 _ d c v => some { writes := regRun d 2, reads := coordRegs c, codes := [], view := some (v, c), load := true }
  | .ldB128 _ d c v => some { writes := regRun d 4, reads := coordRegs c, codes := [], view := some (v, c), load := true }
  | .stB8 _ d c v => some { writes := [], reads := codesToRegs [d] ++ coordRegs c, codes := [d], view := some (v, c), store := true }
  | .stB16 _ d c v => some { writes := [], reads := codesToRegs [d] ++ coordRegs c, codes := [d], view := some (v, c), store := true }
  | .stB32 _ d c v => some { writes := [], reads := codesToRegs [d] ++ coordRegs c, codes := [d], view := some (v, c), store := true }
  | .stB64 _ d c v => some { writes := [], reads := (if d = 56 then [] else regRun d 2) ++ coordRegs c, codes := [d], view := some (v, c), store := true }
  | .stB128 _ d c v => some { writes := [], reads := (if d = 56 then [] else regRun d 4) ++ coordRegs c, codes := [d], view := some (v, c), store := true }
  | .redAddI32 _ d c v => some { writes := [], reads := codesToRegs [d] ++ coordRegs c, codes := [d], view := some (v, c), store := true }
  | .redMinI32 _ d c v => some { writes := [], reads := codesToRegs [d] ++ coordRegs c, codes := [d], view := some (v, c), store := true }
  | .redMaxI32 _ d c v => some { writes := [], reads := codesToRegs [d] ++ coordRegs c, codes := [d], view := some (v, c), store := true }
  | .redAnd _ d c v => some { writes := [], reads := codesToRegs [d] ++ coordRegs c, codes := [d], view := some (v, c), store := true }
  | .redOr _ d c v => some { writes := [], reads := codesToRegs [d] ++ coordRegs c, codes := [d], view := some (v, c), store := true }
  | .redXor _ d c v => some { writes := [], reads := codesToRegs [d] ++ coordRegs c, codes := [d], view := some (v, c), store := true }
  | .redAddF32 _ d c v => some { writes := [], reads := codesToRegs [d] ++ coordRegs c, codes := [d], view := some (v, c), store := true }
  | .redAddF16x2 _ d c v => some { writes := [], reads := codesToRegs [d] ++ coordRegs c, codes := [d], view := some (v, c), store := true }
  | _ => none

/-- A memory member's operands. -/
structure MemForm where
  kind : MemOp
  d : BitVec 6
  c : BitVec 6
  v : BitVec 7
  n : Nat := 0
  deriving DecidableEq, Repr

def memForm : Instr → Option MemForm
  | .ldB8I _ d c v => some { kind := .load 1 true, d := d, c := c, v := v }
  | .ldB8N _ d c v => some { kind := .load 1 false, d := d, c := c, v := v }
  | .ldB16I _ d c v => some { kind := .load 2 true, d := d, c := c, v := v }
  | .ldB16N _ d c v => some { kind := .load 2 false, d := d, c := c, v := v }
  | .ldB32 _ d c v => some { kind := .load 4 false, d := d, c := c, v := v }
  | .ldB64 _ d c v => some { kind := .load 8 false, d := d, c := c, v := v }
  | .ldB128 _ d c v => some { kind := .load 16 false, d := d, c := c, v := v }
  | .stB8 _ d c v => some { kind := .store 1, d := d, c := c, v := v, n := 1 }
  | .stB16 _ d c v => some { kind := .store 2, d := d, c := c, v := v, n := 1 }
  | .stB32 _ d c v => some { kind := .store 4, d := d, c := c, v := v, n := 1 }
  | .stB64 _ d c v => some { kind := .store 8, d := d, c := c, v := v, n := 2 }
  | .stB128 _ d c v => some { kind := .store 16, d := d, c := c, v := v, n := 4 }
  | .redAddI32 _ d c v => some { kind := .red .add, d := d, c := c, v := v, n := 1 }
  | .redMinI32 _ d c v => some { kind := .red .minS, d := d, c := c, v := v, n := 1 }
  | .redMaxI32 _ d c v => some { kind := .red .maxS, d := d, c := c, v := v, n := 1 }
  | .redAnd _ d c v => some { kind := .red .and, d := d, c := c, v := v, n := 1 }
  | .redOr _ d c v => some { kind := .red .or, d := d, c := c, v := v, n := 1 }
  | .redXor _ d c v => some { kind := .red .xor, d := d, c := c, v := v, n := 1 }
  | .redAddF32 _ d c v => some { kind := .red .addF32, d := d, c := c, v := v, n := 1 }
  | .redAddF16x2 _ d c v => some { kind := .red .addF16x2, d := d, c := c, v := v, n := 1 }
  | _ => none

/-! ## Fetching a group (R176, R177) -/

/-- Members, each with its hint words and PC. -/
abbrev Members := List (Instr × List Word × Nat)

/-- What fetching a group finds. -/
inductive Grp where
  | ok (l : Members) (gend : Nat)
  | form
  | fault (cause acc va : Nat)
  | watch (units : List Nat)
  | hold
  | poison
  deriving DecidableEq, Repr

/-- Fetch `n` members from `pc` on, then GEND; `hs` are the hint words before the next word. Hint words between the last member and GEND
break the form: R177 leaves the members' hint words out of the count, and says nothing of GEND's (DESIGN CHOICE, notes/assumptions/90). -/
def State.fetchGroup (s : State) (core regid : Nat) (r : Region) : Nat → Nat → Nat → List Word → Members → Grp × State
  | 0, _, _, _, _ => (.form, s)
  | fuel + 1, n, pc, hs, acc =>
    match s.fetch core regid r pc with
    | (.fault c a va, s) => (.fault c a va, s)
    | (.watch u, s) => (.watch u, s)
    | (.hold, s) => (.hold, s)
    | (.poison, s) => (.poison, s)
    | (.word w, s) =>
      let s := s.keepWord core regid pc w
      if isHintWord w then s.fetchGroup core regid r fuel n (nextPc pc) (hs ++ [w]) acc
      else if n = 0 then
        (if w = 0xA9C00010 && hs.isEmpty then .ok acc.reverse pc else .form, s)
      else match decodeMember w with
        | some g => if field w 22 4 = 7 then s.fetchGroup core regid r fuel (n - 1) (nextPc pc) [] ((g, hs, pc) :: acc) else (.form, s)
        | none => (.form, s)

/-- Vector registers that a group writes, each once, in the order of the first writes. -/
def groupDests (l : Members) : List Nat := (l.flatMap (fun e => ((formOf e.1).map Form.writes).getD [])).eraseDups

/-- A group is well formed (R177), as far as its words tell. -/
def groupOk (l : Members) : Bool :=
  let forms := l.map (fun e => formOf e.1)
  let isLoad := fun (f : Option Form) => (f.map Form.load).getD false
  let isStore := fun (f : Option Form) => (f.map Form.store).getD false
  forms.all Option.isSome && isLoad (forms.headD none)
    && decide ((forms.filter isLoad).length ≤ 2) && decide ((forms.filter isStore).length ≤ 1)
    && forms.all (fun f => match f with
      | some f => !f.nw && f.codes.all (fun c => (latchCode c.toNat).isEmpty)
      | none => false)
    && decide ((groupDests l).length ≤ 4)
    && l.all (fun e => (Hints.ofWords e.2.1).stall.isNone)

/-- No member breaks its own word's rules (04 R102), hint words included. -/
def groupLegal (l : Members) : Bool :=
  l.all (fun e =>
    let h := Hints.ofWords e.2.1
    let mem := (memForm e.1).isSome
    let imm := match e.1 with
      | .iaddi _ _ _ _ => true
      | _ => false
    legalForm e.1 && !h.bad && (mem || h.hcoord.isNone) && (imm || h.himm.isNone))

/-- A group holds a store or RED. -/
def groupStores (l : List (Instr × List Word)) : Bool := l.any (fun e => match memForm e.1 with
  | some f => match f.kind with
    | .load _ _ => false
    | _ => true
  | none => false)

/-! ## Running a group for a lane (R178 to R183) -/

/-- What a group's store or RED is to do, once its members have run. -/
inductive Effect where
  | none
  | store (h : Home) (parts : List (Nat × List Byte))
  | red (h : Home) (off : Nat) (op : AtomOp) (x : Word)
  deriving DecidableEq, Repr

/-- What running the members comes to. -/
inductive Ran where
  | ok (m : Mem) (e : Effect)
  | fault (b : Bad) (va acc : Nat)
  | poison
  deriving DecidableEq, Repr

/-- Where a group runs for a lane: its core and region, the view of the lead, the lane's lead line by virtual address with
its translation and the data there; none where the lead was clipped. -/
structure Place where
  blk : Nat
  core : Nat
  regid : Nat
  r : Region
  win : Nat
  line : Option (Nat × Leaf × BitVec 1024)
  /-- it runs below level 0 -/
  below : Bool := false
  /-- the place that the line's data come from; none is its home (10 R245) -/
  src : Option Nat := none
  deriving DecidableEq, Repr

/-- A member's access: record, checks, and the lead line (R178). -/
def State.memberElems (s : State) (p : Place) (m : Mem) (f : MemForm) (h : Hints) :
    Except (Bad × Nat × Nat) (Record × List (Option Nat)) × State :=
  match s.record p.core p.regid p.r f.v.toNat with
  | (.fault c a va, s) => (.error ({ cause := c }, va, a), s)
  | (.poison, s) => (.error ({ cause := Cause.UNCORRECTABLE }, 0, 0), s)
  | (.ok r, s) =>
    let coords := coordsOf m.regs.reg f.c.toNat 4 h.offs
    let op : MemOp := match f.kind with
      | .load w g => .load w g
      | k => k
    if recSpace r != 0 then (.error ({ cause := Cause.VIEW_BAD, view := viewWord f.v.toNat 0 }, 0, 0), s)
    else match checkLane r op op.width 0 f.v.toNat p.win coords with
      | .error b => (.error (b, 0, 0), s)
      | .ok elems =>
        let strays := match p.line with
          | some (vl, _, _) => elems.any (fun e => match e with
            | some va => lineOf va != vl
            | none => false)
          | none => false
        if strays then (.error ({ cause := Cause.GROUP_FORM }, 0, 0), s)
        else match s.watchHits p.core p.r.part p.regid op.kind (touchedRuns op (min op.width (recEs r)) elems) with
          | u :: us => (.error (watchBad (u :: us), 0, 0), s)
          | [] => (.ok (r, elems), s)

/-- The home of a member's access: the lead line's, or its own translation; one that writes asks for that where it is
reached (R182). -/
def State.memberHome (s : State) (p : Place) (op : MemOp) (va : Nat) : Except (Bad × Nat × Nat) Leaf × State :=
  match p.line, op.need.w with
  | some (_, leaf, _), false => (.ok leaf, s)
  | _, _ =>
    match s.translate p.core p.r.part va op.need op.acc false with
    | (.ok l, s) => (.ok l, s)
    | (.fault c a, s) => (.error ({ cause := c }, va, a), s)

/-- A line as a later member of the group finds it, after the group's store or RED (R178): a RED at the core combines
with the word at its home, where it is performed. -/
def State.afterEffect (s : State) (p : Place) (e : Effect) (h : Home) (d : BitVec 1024) : BitVec 1024 :=
  match e with
  | .none => d
  | .store h' parts => if h'.line = h.line then parts.foldl (fun (d : BitVec 1024) x => lineWith d x.1 x.2) d else d
  | .red h' off o x =>
    if h'.line ≠ h.line then d
    else
      let d := if p.below then d else s.blockLine p.blk h (s.lineData h.line)
      lineWith d off (leBytes 4 (combine o (BitVec.ofNat 32 (leNat (bytesOfLine d off 4))) x 0).toNat)

/-- Run one member. -/
def State.runMember (s : State) (p : Place) (m : Mem) (e : Effect) (g : Instr) (h : Hints) : Ran × State :=
  match m.compute h g with
  | some m' => (.ok { m' with flags := if h.cap then m'.flags else m.flags } e, s)
  | none =>
    match memForm g with
    | none => (.fault { cause := Cause.GROUP_FORM } 0 0, s)
    | some f =>
      match s.memberElems p m f h with
      | (.error (b, va, acc), s) => (if b.cause = Cause.UNCORRECTABLE then .poison else .fault b va acc, s)
      | (.ok (r, elems), s) =>
        match elems.filterMap id with
        | [] => match f.kind with
          | .load w _ =>
            let t := (List.range (recRank r)).any (fun k => m.regs.tainted (f.c.toNat + k))
            (.ok ((regRun f.d (max 1 (w / 4))).foldl (fun (m : Mem) d => m.set d 0 t) m) e, s)
          | _ => (.ok m e, s)
        | va :: _ =>
          match s.memberHome p f.kind va with
          | (.error (b, va, acc), s) => (.fault b va acc, s)
          | (.ok leaf, s) =>
            let es := min f.kind.width (recEs r)
            match f.kind with
            | .load w g =>
              let (d, bad, s) := match p.line with
                | some (_, _, d) => (d, false, s)
                | none => s.readLine p.blk p.core (leaf.home va) h.pol
              if bad then (.poison, s)
              else
                let t := (List.range (recRank r)).any (fun k => m.regs.tainted (f.c.toNat + k))
                let s := s.readsFrom p.blk (leaf.home va).line (elemMask es elems) p.src
                let d := s.afterEffect p e (leaf.home va) d
                (.ok (((regRun f.d (max 1 (w / 4))).zip (loadWords w g (lineBytesOf d es elems))).foldl
                  (fun (m : Mem) x => m.set x.1 x.2 t) m) e, s)
            | .red o => (.ok m (.red (leaf.home va) (offOf va) o (m.op f.d).1), s)
            | _ =>
              let bytes := bytesOfWords (if f.n ≤ 1 ∨ f.d = 56 then List.replicate f.n (m.op f.d).1
                else (regRun f.d f.n).map m.regs.reg)
              let parts := (mapFrom 0 (fun i x => (i, x)) elems).filterMap (fun (x : Nat × Option Nat) =>
                x.2.map (fun a => (offOf a, (bytes.drop (x.1 * es)).take es)))
              (.ok m (.store (leaf.home va) parts), s)

/-- Run the members in order. -/
def State.runMembers (s : State) (p : Place) (m : Mem) (e : Effect) : List (Instr × List Word) → Ran × State
  | [] => (.ok m e, s)
  | (g, hs) :: rest =>
    match s.runMember p m e g (Hints.ofWords hs) with
    | (.ok m e, s) => s.runMembers p m e rest
    | r => r

/-- A lane's registers and flags as GBEGIN captured them: the registers, s31, the predicates by number, the taints. -/
def captured (x : LaneAcc) : Mem :=
  let t := (x.data.getD 58 0).toNat + (x.data.getD 59 0).toNat * 2 ^ 32
  let v : Table Word := (List.range 56).filterMap (fun n =>
    if x.data.getD n 0 = 0 then none else some (n, x.data.getD n 0))
  let regs : Lane := { v := v, taint := BitVec.ofNat 56 t }
  { lane := x.lane, s31 := x.data.getD 56 0, preds := (x.data.getD 57 0).toNat, regs := regs }

def captureLane (i : Iss) (l : Nat) : List Word :=
  let x := i.w.lane l
  (List.range 56).map x.reg ++
    [i.w.sRead i.act 31, BitVec.ofNat 32 (((List.range 8).filter (fun k => inMask (i.w.pred k) l)).foldl (fun n k => n + 2 ^ k) 0),
     x.taint.setWidth 32, (x.taint >>> 32).setWidth 32]

/-- LVL of %sinkrec for a lane (02 R40). -/
def Warp.setLevel' (w : Warp) (lane level : Nat) : Warp := { w with sinkrec := setField w.sinkrec (2 * lane) 2 level }

/-- The group's store, at the core: into the block store buffer, or a RED at the home point. -/
def State.coreEffect (s : State) (t : Site) (core lane : Nat) (e : Effect) : State :=
  match e with
  | .none => s
  | .store h parts => parts.foldl (fun (s : State) x => s.bufStore t.blk t.unit lane h x.1 x.2 ((t.a.lane? lane).bind LaneAcc.leaf)) s
  | .red h off op x =>
    let s := s.releaseLine t.blk h.line
    if s.hasConsumed t.blk then s
    else match s.rmw core t.blk (onlyLane t.blk t.unit lane) h off (fun old => some (combine op old x 0)) with
    | (some _, s) => (s.markCommitted t.blk).commitSoon t.blk
    | (none, s) => s.consume t.blk Cause.UNCORRECTABLE

/-- Write a lane's results as at GEND (R178): destinations, flags, level; a response to a lane that has exited is discarded
(05 R113). -/
def State.groupResults (s : State) (t : Site) (lane level : Nat) (m : Mem) : State :=
  let dests := (s.access t).dests
  let s := s.modUnit t.blk t.unit (fun w =>
    if (w.lane lane).status == .exited then w
    else { ((w.setLevel' lane level).modLane lane (fun l =>
        dests.foldl (fun (l : Lane) d => l.setReg d (m.regs.reg d) (m.regs.tainted d)) l)) with
      fflags := w.fflags ||| m.flags })
  let s := s.modPair t.blk t.n (fun p => { p with lvq := fillAwaiting t.id lane (dests.map m.regs.reg) p.lvq })
  match s.block? t.blk with
  | some b => s.count b.core t.blk (5 + level) 1
  | none => s

/-- Whether a group's store stays with the core (R183). -/
def State.demotes (s : State) (blk : Nat) : Bool :=
  match s.block? blk with
  | some b => match s.region? b.regid with
    | some r => r.prot || r.check
    | none => false
  | none => false

/-- Lanes of a group that wait try again. -/
def State.groupLater (s : State) (t : Site) (lanes : List LaneAcc) : State :=
  lanes.foldl (fun (s : State) x => s.push (.pageWalkDone t.id x.page)) s

/-- The buffer has no room for the effect of a group. -/
def State.effectStall (s : State) (blk : Nat) : Effect → Bool
  | .store h _ => s.roomStall blk h.line
  | _ => false

/-- Run a group at the core (level 0); one whose store finds no room in the buffer runs again later (12 R280). -/
def State.runAtCore (s : State) (t : Site) (p : Place) (x : LaneAcc) : State :=
  match s.runMembers p (captured x) .none t.a.group with
  | (.poison, s) => s.consume t.blk Cause.UNCORRECTABLE
  | (.fault b va acc, s) => s.accessFault t [(x.lane, b, va, acc)]
  | (.ok m e, s) =>
    if s.effectStall t.blk e then (s.holdBack t [x]).groupLater t [x]
    else (((s.coreEffect t p.core x.lane e).groupResults t x.lane 0 m)).laneDone t x.lane

/-- Entries of a core's sink table in use (R181). -/
def State.sinkLines (s : State) (core : Nat) : Nat := (s.sunk.filter (fun e => e.2.core == core)).length

/-- A die's slice holds a valid copy of a line for a mapping: as its home, or one that another line's mapping tracks (11 R259, R262). -/
def State.sliceServes (s : State) (die : Nat) (h : Home) : Bool :=
  s.llcHolds die h.line && (h.tracked || (h.hdie == die && h.hdev == s.devNum))

/-- The level at which a lead line's lanes run (R179; 10 R242): 0 where the block has a store to the line in its buffer. -/
def State.groupLevel (s : State) (b : Block) (h : Home) : Nat :=
  let die := dieOf b.core
  if (b.buf.get? h.line).isSome || (s.l1Copy b.core h).isSome then 0
  else if s.sliceServes die h then 1
  else if h.hdie = die ∧ h.hdev = s.devNum then 2 else 3

/-- Run a lane's group at the core, on its lead line as its block reads it: under a policy of the lead's hint word that keeps lines out of
L1 (R166), a line whose level exceeds the limit is not filled there, though R179 says that it is (DESIGN CHOICE, notes/assumptions/91). -/
def State.runLead (s : State) (t : Site) (b : Block) (r : Region) (x : LaneAcc) : State :=
  let place : Place :=
    { blk := t.blk, core := b.core, regid := b.regid, r := r, win := b.winBytes, line := none, src := some b.core }
  match x.homeOf, x.leaf with
  | some h, some leaf =>
    let (d, bad, s) := s.readLine t.blk b.core h t.a.pol
    if bad then s.consume t.blk Cause.UNCORRECTABLE else s.runAtCore t { place with line := some (x.vline, leaf, d) } x
  | _, _ => s.runAtCore t place x

/-- Start the groups of lanes that share a lead line, at one level (R179): at the core in ascending lane order, or below it.
They follow the lanes' earlier accesses to the line (10 R238, R242). Lanes that would go below while the core's table has no
room for them wait (R181; notes/assumptions/72). -/
def State.startGroup (s : State) (t : Site) (b : Block) (r : Region) (h : Home) (lanes : List LaneAcc) : State :=
  let level := s.groupLevel b h
  if s.behind t (some h.line) lanes then (s.awaitEarlier t .behind (some h.line) lanes).groupLater t lanes
  else if groupStores t.a.group && s.roomStall t.blk h.line then
    (s.holdBack t lanes).groupLater t lanes
  else if level = 0 ∨ t.a.limit < level then lanes.foldl (fun (s : State) x => s.runLead t b r x) s
  else if Config.sinkEntries < s.sinkLines b.core + lanes.length then
    (s.holdLanes t .walking lanes).groupLater t lanes
  else lanes.foldl (fun (s : State) x =>
    let (id, s) := s.fresh
    let k : Sunk := { block := t.blk, unit := t.n, entry := t.id, lane := x.lane, line := h.line, core := b.core, level := level }
    let k := { k with accepted := decide (s.sunk.length < 64) }
    { s with sunk := s.sunk.put id k }.push (.umberGroupExecute id)) s

/-- Start the groups of the lanes listed, lead line by lead line; `fuel` bounds the lines. -/
def State.startGroups (s : State) (t : Site) (b : Block) (r : Region) : Nat → List LaneAcc → State
  | 0, _ => s
  | _, [] => s
  | fuel + 1, x :: rest => match x.homeOf with
    | none => (if s.behind t none [x] then (s.awaitEarlier t .behind none [x]).groupLater t [x] else s.runLead t b r x).startGroups
        t b r fuel rest
    | some h =>
      let mate := fun (y : LaneAcc) => y.homeOf.any (fun g => g.line == h.line)
      (s.startGroup t b r h (x :: rest.filter mate)).startGroups t b r fuel (rest.filter (fun y => !mate y))

end Sys2Proof.Machine
end

