-- ==== Sys2Proof/Machine/Attempt.lean ====
section
/-! DEFINITION. Taking a logged access past its fault point: record, checks, translation, and what follows at once
(07 R161, R165 to R174; 14 R328, R330). -/

namespace Sys2Proof.Machine

/-- What the access asks of the page: a group asks for its lead load (07 R182). -/
def Access.need (a : Access) : Need := a.op.need

def Access.accCode (a : Access) : Nat := a.op.acc

/-- What the part does next for lanes that have passed their fault point: groups start; loads, stores, atomics and cache
maintenance are performed at some later step (10 R240). An SC that clip mode 1 skips makes no access: it writes 0 and leaves the lane's
reservation, a point that 07 R174 leaves open (DESIGN CHOICE, notes/assumptions/76). -/
def State.passed (s : State) (t : Site) (b : Block) (r : Region) (lanes : List Nat) : State :=
  let a := s.access t
  match a.op with
  | .sink => s.startGroups { t with a := a } b r 32 (lanes.filterMap a.lane?)
  | .load _ _ => lanes.foldl (fun (s : State) l => s.push (.loadResponse (respId t.id l))) s
  | .store _ => lanes.foldl (fun (s : State) l => s.push (.loadResponse (respId t.id l))) s
  | .maint _ => lanes.foldl (fun (s : State) l => s.push (.loadResponse (respId t.id l))) s
  | _ => lanes.foldl (fun (s : State) l => s.push (.atomicCompletion (respId t.id l))) s

/-- The lanes of one page: all translate, or all wait for the walk, or all fault; a lane's last-page register serves it
first, then the core TLB (R328). `full` walks at once. -/
inductive PageXl where
  | ok (leaves : List (Nat × Leaf))
  | walk
  | fault (cause acc : Nat)
  deriving DecidableEq, Repr

def State.translatePage (s : State) (b : Block) (r : Region) (w : Warp) (a : Access) (domain full : Bool)
    (lanes : List (Nat × Nat)) : PageXl × State :=
  let held := lanes.filterMap (fun e => (((w.lane e.1).pageHit r.part e.2 a.need).bind (fun (l : Leaf) =>
    if s.reachable (dieOf b.core) r.part domain l e.2 then some (e.1, l) else none)))
  match lanes.filter (fun e => !(held.any (fun h => h.1 == e.1))) with
  | [] => (.ok held, s)
  | (l, va) :: rest =>
    let all := fun (leaf : Leaf) => held ++ ((l, va) :: rest).map (fun e => (e.1, leaf))
    if full then
      match s.translate b.core r.part va a.need a.accCode domain with
      | (.ok leaf, s) => (.ok (all leaf), s)
      | (.fault c acc, s) => (.fault c acc, s)
    else match s.coreHit b.core r.part va a.need with
      | some leaf =>
        if leaf.allows a.need && s.reachable (dieOf b.core) r.part domain leaf va then (.ok (all leaf), s)
        else (.fault Cause.PROT a.accCode, s)
      | none => (.walk, s)

/-- Translate the lanes page by page, and let those that pass act, in ascending order; `fuel` bounds the pages. -/
def State.tryPages (s : State) (t : Site) (b : Block) (r : Region) (domain full : Bool) :
    Nat → List (Nat × Nat) → State
  | 0, _ => s
  | _, [] => s
  | fuel + 1, (l, va) :: rest =>
    let page := va / 2 ^ 16
    let (mine, others) := ((l, va) :: rest).partition (fun (e : Nat × Nat) => e.2 / 2 ^ 16 == page)
    let a := s.access t
    let s := match s.unit? t.blk t.unit with
      | none => s
      | some w =>
        match s.translatePage b r w a domain full mine with
        | (.walk, s) => s.push (.pageWalkDone t.id page)
        | (.fault c acc, s) => s.accessFault t (mine.map (fun (e : Nat × Nat) => (e.1, ({ cause := c } : Bad), e.2, acc)))
        | (.ok leaves, s) =>
          let s := leaves.foldl (fun (s : State) (e : Nat × Leaf) =>
            (s.modLaneAcc t e.1 (fun x => { x with phase := .passed, leaf := some e.2 })).modUnit t.blk t.unit
              (fun w => w.modLane e.1 (fun l => { l with lastPage := some e.2 }))) s
          s.passed t b r (mine.map Prod.fst)
    s.tryPages t b r domain full fuel others

/-- Cycles that a scratchpad access takes beyond its first: the most distinct words that its elements place in one bank, less one (07
R169; 09 R231). -/
def conflictCycles (base m : Nat) (lanes : List LaneAcc) : Nat :=
  let words := (lanes.flatMap (fun x => x.elems.flatMap (fun e => match e with
    | some a => [(base + a) / 4, (base + a + m - 1) / 4]
    | none => []))).eraseDups
  (List.range 32).foldl (fun n k => max n (words.filter (fun w => w % 32 == k)).length) 0 - 1

/-- An access stalls on an owner bit: its lanes are noted, and its timeout runs (08 R198). -/
def State.stallOwner (s : State) (blk : Nat) (u : UnitRef) (x : OwnerStall) : State :=
  match s.unit? blk u with
  | none => s
  | some w =>
    if x.lanes.isEmpty ∨ w.owners.any (fun o => o.pc == x.pc && o.entry == x.entry) then s
    else (s.modUnit blk u (fun w => { w with owners := w.owners ++ [{ x with since := s.now }] })).at (s.now + 2 ^ 20)
      (.ownerTimeoutExpiry blk u.num s.now)

/-- Lanes of a scratchpad access, in ascending order; one whose tile an engine owns, or that follows an earlier access of its lane to
the same bytes, tries again later (08 R198; 10 R240); the timeout of the first runs. -/
def State.tryScratch (s : State) (t : Site) (b : Block) (lanes : List LaneAcc) : State :=
  let a := s.access t
  let m := min a.width (recEs a.record)
  let tiles := fun (x : LaneAcc) => (x.elems.filterMap id).map (fun o => (b.winBase + o) / Config.tileBytes)
  let (owned, rest) := lanes.partition (fun x => (tiles x).any (s.core b.core).engTile)
  let (later, free) := rest.partition (fun x => s.behind t (some 0) [x])
  let s := s.count b.core t.blk 12 (conflictCycles b.winBase m free)
  let s := free.foldl (fun (s : State) x => s.doScratch t b.core b.winBase a.op m x) s
  let s := s.stallOwner t.blk t.unit
    { since := 0, pc := a.headPc, view := some a.view, entry := some t.id, lanes := owned.map (fun x => (x.lane, x.coords.headD 0, tiles x)) }
  let s := later.foldl (fun (s : State) x => s.awaitEarlier t .walking (some 0) [x]) s
  if owned.isEmpty && later.isEmpty then s else s.push (.pageWalkDone t.id 0)

/-- Take walking lanes of an access on: its record, the checks of R161, translation; what passes acts. -/
def State.tryLanes (s : State) (t : Site) (sel : LaneAcc → Bool) (full : Bool) : State :=
  match s.block? t.blk with
  | none => s
  | some b =>
    match s.region? b.regid with
    | none => s
    | some r =>
      let lanes := (s.access t).lanes.filter (fun x => (x.phase == .walking || ((x.phase == .held || x.phase == .behind || x.phase == .after) && t.a.op == .sink)) && sel x)
      match s.record b.core b.regid r t.a.view with
      | (.poison, s) => if lanes.isEmpty then s else s.consume t.blk Cause.UNCORRECTABLE
      | (.fault c acc va, s) => s.accessFault t (lanes.map (fun x => (x.lane, ({ cause := c } : Bad), va, acc)))
      | (.ok rec, s) =>
        let s := s.modAccess t (fun a => { a with record := rec })
        let seen := lanes.map (fun x => (x, checkLane rec t.a.op t.a.width t.a.dir t.a.view b.winBytes x.coords))
        let bad := seen.filterMap (fun e => match e.2 with
          | .error d => some (e.1.lane, d, 0, t.a.accCode)
          | .ok _ => none)
        let good := seen.filterMap (fun e => match e.2 with
          | .ok elems => some { e.1 with elems := if t.a.op.atomic && (elems.headD none).isNone then [] else elems }
          | .error _ => none)
        let s := good.foldl (fun (s : State) x => s.modLaneAcc t x.lane (fun y => { y with elems := x.elems })) s
        let s := s.accessFault t bad
        if t.a.op.spaces == [1] then s.tryScratch t b good
        else
          let (none', some') := good.partition (fun x => (x.elems.filterMap id).isEmpty)
          let s := none'.foldl (fun (s : State) x => s.modLaneAcc t x.lane (fun y => { y with phase := .passed })) s
          let s := s.passed t b r (none'.map LaneAcc.lane)
          s.tryPages t b r (recSpace rec == 3) full 32
            (some'.map (fun x => (x.lane, (x.elems.filterMap id).headD 0)))

/-- A memory word's operands, as it issues: what the lanes' log entries will hold. -/
structure MemIss where
  op : MemOp
  d : Nat
  dir : Nat := 0
  view : Nat
  c : Nat
  rank : Nat := 4
  pol : Nat := 0
  taint : Bool := false
  data : Iss → Nat → List Word
  group : List (Instr × List Word) := []
  limit : Nat := 0
  dests : List Nat := []
  offs : List Int := []

/-- Lanes whose checked access watch units match, with the units: they take WATCH before the access (15 R363). -/
def State.watched (s : State) (i : Iss) (m : MemIss) (width : Nat) : List (Nat × List Nat) :=
  if m.op.spaces == [1] || (s.core i.core).watches.isEmpty then []
  else match (s.record i.core i.b.regid i.r m.view).1 with
    | .ok rec => (lanesOf i.act).filterMap (fun l =>
      match checkLane rec m.op width m.dir m.view i.b.winBytes (coordsOf (i.w.lane l).reg m.c 4 m.offs) with
      | .ok elems => match s.watchHits i.core i.r.part i.b.regid m.op.kind (touchedRuns m.op (min width (recEs rec)) elems) with
        | [] => none
        | units => some (l, units)
      | .error _ => none)
    | _ => []

/-- Issue a memory word: its operands enter the log, and its lanes go as far as they can at once; a watched lane
takes its fault first. An access that tainted coordinates lead to acquires what the loads that tainted them have read, as FENCE.ACQ at
SYS scope (10 R241): those loads have bound, since their registers are read. -/
def State.startAccess (s : State) (i : Iss) (a : Attr) (m : MemIss) (headPc : Nat) : State :=
  match i.u with
  | .warp n =>
    let acc : Access :=
      { op := m.op, d := m.d, dir := m.dir, pc := i.pc, headPc := headPc, view := m.view, record := 0, c := m.c,
        offs := if m.op = .sink then m.dests.map (fun k => ((k : Nat) : Int)) else m.offs, pol := m.pol, lanes := [],
        group := m.group, limit := m.limit }
    let head := match s.unit? i.blk i.u with
      | some w => w.chain.map Chain.head
      | none => none
    let hits := s.watched i m acc.width
    let s := s.takeFaults i.blk i.u 32 (hits.map (fun e =>
      (e.1, { (i.fault 0).watching e.2 with resume := head.getD i.headPc })))
    let lanes : List LaneAcc := ((lanesOf i.act).filter (fun l => !hits.any (fun h => h.1 == l))).map (fun l =>
      { lane := l, coords := coordsOf (i.w.lane l).reg m.c 4 m.offs, data := m.data i l, elems := [],
        taint := m.taint || (List.range m.rank).any (fun k => (i.w.lane l).tainted (m.c + k)) })
    let led := lanes.any (fun x => (List.range m.rank).any (fun k => (i.w.lane x.lane).tainted (m.c + k)))
    if lanes.isEmpty then s
    else
      let s := if led then s.acquireAt i.blk i.core 5 else s
      let (id, s) := s.fresh
      let acc := { acc with lanes := lanes, chainHead := head }
      let s := s.modUnit i.blk i.u (fun w => { w with log := w.log.put id acc })
      let s := s.fillQueue i a (some id)
      s.tryLanes { blk := i.blk, n := n, id := id, a := acc } (fun _ => true) false
  | _ => s

end Sys2Proof.Machine
end

