-- ==== Sys2Proof/Machine/Order.lean ====
section
/-! DEFINITION. Fences, records of views, sink groups (07 R162, R163, R175 to R183). -/

namespace Sys2Proof.Machine

/-! ## Fences (07 R175; 11 R256, R258) -/

/-- Attributes of a word that follows the lane's earlier accesses, and acts once for the path. -/
def orderAttr (maj fn : Nat) (p : BitVec 4) (legal : Bool) : Attr :=
  { maj := maj, fn := fn, p := some p, legal := legal, front := true, serial := true, ordered := true,
    mirror := false }

/-- A fence: at DIE scope and wider it is a commit point. An acquire takes in what releases have passed on (10 R245; 11 R260). A
release passes its set C on, and its lanes wait: at CORE scope for nothing more, since their earlier accesses have been
performed; at CLUS scope until the homes have acknowledged the writes of set C that have left the buffer (notes/assumptions/12); at DIE
scope those of set C; beyond, until every sharer has (11 R256, R260). `drop`: the records that go when the fence is over. -/
def State.fenceAt (s : State) (i : Iss) (scope : Nat) (acquire release : Bool) (sc : Option Nat) (drop : Option (Option Nat) := none) :
    State :=
  let s := if 2 ≤ scope then s.commit i.blk else s
  let s := if acquire then s.acquireAt i.blk i.core scope else s
  if release then
    let s := s.shareC i.blk (scopeCores i.core scope)
    let ids := if scope = 0 then [] else if scope = 1 then s.setC i.blk else s.awaited i.blk
    (s.fenceWait i.blk i.u i.act ids sc (decide (scope < 3)) drop).passFences i.blk
  else s

def State.fence (s : State) (fn : Nat) (p e : BitVec 4) : Host.Outcome State Fault Refusal :=
  s.issue (orderAttr 0x28 fn p (decide (e.toNat < 6))) always never
    (straight (fun i s => s.fenceAt i e.toNat (fn != 1) (fn != 0) (if fn = 3 then some e.toNat else none)))

/-- FENCE_ACQ (07 R175): earlier reads come before later accesses. -/
def execFenceAcq (p e : BitVec 4) (s : State) :
    Host.Outcome State Fault Refusal :=
  s.fence 0 p e

/-- FENCE_REL (07 R175): earlier accesses come before later writes. -/
def execFenceRel (p e : BitVec 4) (s : State) :
    Host.Outcome State Fault Refusal :=
  s.fence 1 p e

/-- FENCE_AR (07 R175): both. -/
def execFenceAr (p e : BitVec 4) (s : State) :
    Host.Outcome State Fault Refusal :=
  s.fence 2 p e

/-- FENCE_SC (11 R258): both, and one order of all such fences. -/
def execFenceSc (p e : BitVec 4) (s : State) :
    Host.Outcome State Fault Refusal :=
  s.fence 3 p e

/-! ## Records of views (07 R162, R163) -/

/-- The view number in a scalar register. -/
def Iss.viewNo (i : Iss) (n : BitVec 5) : Nat := (i.s n).toNat % 128

/-- Address of a record. -/
def Iss.recordVa (i : Iss) (v : Nat) : Nat := i.r.viewTab + 64 * v

/-- VIEWF (07 R163): FENCE.AR at DIE scope, and then the core forgets a record, or all of the region: what it has fetched while the fence
waited as well. -/
def execViewf (p : BitVec 4) (sa : BitVec 5) (e : BitVec 4) (s : State) :
    Host.Outcome State Fault Refusal :=
  s.issue { orderAttr 0x2B 0 p (e == 0 || (e == 15 && sa == 0)) with rs := if e = 15 then [] else [sa.toNat] } always never
    (straight (fun i s =>
      let v := if e = 15 then none else some (i.viewNo sa)
      (s.fenceAt i 2 true true none (some v)).forgetViews i.core i.b.regid v))

/-- VIEWP on a translated record: word `e` and the generation, at the home point; its buffered stores go first. -/
def State.patchRecord (s : State) (i : Iss) (t : BitVec 5) (v e : Nat) (x : Word) (h : Home) (off : Nat) : State :=
  let s := s.releaseLine i.blk h.line
  if s.hasConsumed i.blk then s
  else if s.isPoisoned i.die h then s.consume i.blk Cause.UNCORRECTABLE
  else
    let gen := (s.rdNat (h.line * Config.lineBytes + off + 60) 2 + 1) % 2 ^ 16
    let mask := maskAt (off + 4 * e) 4 ||| maskAt (off + 60) 2
    let data := dataAt (off + 4 * e) (leBytes 4 x.toNat) ||| dataAt (off + 60) (leBytes 2 gen)
    let s := (s.write i.core i.blk h mask data).2.clearResv h.line true (fun _ _ _ => false)
    let s := (s.dropRecords i.core (fun k => k == recordKey i.b.regid v)).putS i t (BitVec.ofNat 32 gen)
    (s.markCommitted i.blk).commitSoon i.blk

/-- A precise fault of the record's page. -/
def State.recordFault (s : State) (i : Iss) (cause acc va : Nat) : State :=
  s.takeFault i.blk i.u i.act (fun _ => { i.fault cause with acc := acc, va := va })

/-- VIEWP (07 R163): a word of the record is written at the home point, its generation counts on, the core forgets the record. -/
def execViewp (p : BitVec 4) (t sa x : BitVec 5) (e : BitVec 4) (s : State) :
    Host.Outcome State Fault Refusal :=
  s.issue
    { orderAttr 0x2B 1 p (e != 15) with
      rs := [sa.toNat, x.toNat], ws := [t.toNat], outs := [.s t.toNat],
      cmp := some (fun i _ => [i.viewNo sa, e.toNat, (i.s x).toNat]) }
    always never
    (straight (fun i s =>
      let va := i.recordVa (i.viewNo sa)
      match s.watchHits i.core i.r.part i.b.regid 2 [(va, 64)] with
      | u :: us => s.takeFault i.blk i.u i.act (fun _ => { (i.fault 0).watching (u :: us) with acc := 1, va := va })
      | [] => match s.translate i.core i.r.part va { r := false, w := true } 1 false with
        | (.fault c acc, s) => s.recordFault i c acc va
        | (.ok leaf, s) => s.patchRecord i t (i.viewNo sa) e.toNat (i.s x) (leaf.home va) (leaf.key va % Config.lineBytes)))

/-- VIEWQ (07 R163): a word of the record, as the core holds it. -/
def execViewq (p : BitVec 4) (t sa : BitVec 5) (e : BitVec 4) (s : State) :
    Host.Outcome State Fault Refusal :=
  s.issue
    { maj := 0x2B, fn := 2, p := some p, legal := true, front := true, serial := true, rs := [sa.toNat], ws := [t.toNat],
      outs := [.s t.toNat], mirror := false }
    always never
    (straight (fun i s => match s.record i.core i.b.regid i.r (i.viewNo sa) with
      | (.ok r, s) => s.putS i t (BitVec.ofNat 32 (field r (32 * e.toNat) 32))
      | (.fault c acc va, s) => s.recordFault i c acc va
      | (.poison, s) => s.consume i.blk Cause.UNCORRECTABLE))

/-! ## Sink groups (07 R176 to R183) -/

/-- The PC after `n` words that are no hint words, where the last of them and every word before it can be fetched: what
GBEGIN takes for its GEND. -/
def State.groupEnd (s : State) (core regid : Nat) (r : Region) : Nat → Nat → Nat → Word? × Nat × State
  | 0, _, pc => (.word 0, pc, s)
  | fuel + 1, n, pc =>
    if n = 0 then (.word 0, pc, s)
    else match s.fetch core regid r pc with
      | (.word w, s) => s.groupEnd core regid r fuel (if isHintWord w then n else n - 1) (nextPc pc)
      | (x, s) => (x, pc, s)

/-- The level of a loop that one of the words from GBEGIN to the last member would end, for an active lane (05 R127). -/
def Iss.groupEnds (i : Iss) (gend : Nat) : Option Nat :=
  let hit := fun (x : Loop) => x.active && decide (i.pc ≤ x.endPc) && decide (x.endPc < gend) && (x.entry &&& i.act) != 0
  if hit i.w.lc1 then some 1 else if hit i.w.lc0 then some 0 else none

/-- The registers that a group's members read before any of them writes them. -/
def groupReads : List Nat → List Form → List Nat
  | _, [] => []
  | written, f :: l => f.reads.filter (fun n => !written.contains n) ++ groupReads (written ++ f.writes) l

/-- A member reads s31, or a predicate (04 R90; 06 R137). -/
def readsS31 : Instr → Bool
  | .lop3 _ _ _ _ _ => true
  | _ => false
def readsPred : Instr → List Nat
  | .sel _ _ _ _ _ k => [k.toNat]
  | _ => []

/-- What a compared group shows of each lane (12 R290): the addresses of its lead, as those of any access, and its captured sources. -/
def comparedGroup (l : Members) (i : Iss) (s : State) : List Nat :=
  let sources := (groupReads [] (l.filterMap (fun e => formOf e.1))).eraseDups
  let preds := (l.flatMap (fun e => readsPred e.1)).eraseDups
  (lanesOf i.act).flatMap (fun n =>
    (match l with
      | (g, hs, _) :: _ => match memForm g with
        | some f => match (s.record i.core i.b.regid i.r f.v.toNat).1 with
          | .ok rec => match checkLane rec f.kind f.kind.width 0 f.v.toNat i.b.winBytes
              (coordsOf (i.w.lane n).reg f.c.toNat 4 (Hints.ofWords hs).offs) with
            | .ok elems => elems.map (fun e => (e.map (· + 1)).getD 0)
            | .error _ => []
          | _ => []
        | none => []
      | [] => [])
    ++ sources.map (fun k => ((i.w.lane n).reg k).toNat)
    ++ (if l.any (fun e => readsS31 e.1) then [(i.w.sRead i.act 31).toNat] else [])
    ++ preds.map (fun k => (inMask (i.w.pred k) n).toNat))

/-- Attributes of GBEGIN with the group that it found. -/
def groupAttr (p : BitVec 4) (legal : Bool) (l : Members) (after : Option Nat) : Attr :=
  let forms := l.filterMap (fun e => formOf e.1)
  let dests := groupDests l
  { maj := 0x2A, fn := 0, p := some p, legal := legal && groupLegal l, rr := forms.flatMap Form.reads, wv := dests,
    rs := if l.any (fun e => readsS31 e.1) then [31] else [], serial := true, reads := groupStores (l.map (fun e => (e.1, e.2.1))), logs := true, cls := 7,
    outs := dests.map Out.v, after := after,
    cmp := some (comparedGroup l) }

/-- The lead's view and coordinates, and what its hint words say. -/
def leadOf (l : Members) : MemForm × Hints :=
  match l with
  | (g, hs, _) :: _ => ((memForm g).getD { kind := .sink, d := 56, c := 0, v := 0 }, Hints.ofWords hs)
  | [] => ({ kind := .sink, d := 56, c := 0, v := 0 }, {})

/-- GBEGIN's work: the form of the group, then its log entry (R177, R178). Every lane of the path stands past GEND; one that
faults goes back to GBEGIN. A word of the group that cannot be fetched, or that a watch unit matches, is a fault of every lane
of the path, those inactive at GBEGIN included (notes/assumptions/72). -/
def State.beginGroup (s : State) (i : Iss) (a : Attr) (grp : Grp) (gend limit : Nat) : State :=
  let fault := fun (m : Word) (c acc va : Nat) (coord : Word) =>
    s.takeFault i.blk i.u m (fun _ => { i.fault c with acc := acc, va := va, coord := coord })
  match i.groupEnds gend, grp with
  | some k, _ => fault i.act Cause.LOOP_FORM 0 0 (BitVec.ofNat 32 k)
  | none, .form => fault i.act Cause.GROUP_FORM 0 0 0
  | none, .fault c acc va => fault i.path c acc va 0
  | none, .watch l => s.takeFault i.blk i.u i.path (fun _ => (i.fault 0).watching l)
  | none, .hold => s
  | none, .poison => s.consume i.blk Cause.UNCORRECTABLE
  | none, .ok l _ =>
    if !groupOk l then fault i.act Cause.GROUP_FORM 0 0 0
    else
      let (f, h) := leadOf l
      let m : MemIss :=
        { op := .sink, d := f.d.toNat, view := f.v.toNat, c := f.c.toNat, pol := h.pol, data := captureLane,
          group := l.map (fun x => (x.1, x.2.1)), limit := limit, dests := groupDests l, offs := h.offs }
      s.startAccess i a m i.headPc

/-- A GBEGIN with no active lane: every lane of the path goes past the group, as far as its words can be fetched (R176). -/
def State.skipGroup (s : State) (i : Iss) (p : BitVec 4) (e : Nat) : Host.Outcome State Fault Refusal :=
  let go := fun (s : State) (after : Option Nat) => s.issue (groupAttr p true [] after) always never (straight (fun _ s => s))
  let fault := fun (s : State) (p : Park) => if i.trailing then s.hold else s.takeFault i.blk i.u i.path (fun _ => p)
  if 2 ≤ e ∧ e ≤ 8 then
    match s.groupEnd i.core i.b.regid i.r 64 e (nextPc i.pc) with
    | (.word _, gend, s) => go s (some (nextPc gend))
    | (.fault c acc va, _, s) => .next (fault s { i.fault c with acc := acc, va := va })
    | (.watch l, _, s) => .next (fault s ((i.fault 0).watching l))
    | (.hold, _, s) => .next s.hold
    | (.poison, _, s) => .next (s.consume i.blk Cause.UNCORRECTABLE)
  else go s none

/-- GBEGIN (07 R176): the group of the next words runs for the active lanes. In the trailing warp it only passes, and takes the
results of its leading warp's (12 R289). -/
def execGbegin (p : BitVec 4) (x : BitVec 5) (e : BitVec 4) (s : State) :
    Host.Outcome State Fault Refusal :=
  match s.issuer (some p) with
  | none => .refused .noIssuer
  | some i =>
    let legal := decide (2 ≤ e.toNat) && decide (e.toNat ≤ 8) && decide (x.toNat ≤ 3)
    if i.act = 0 || !(decide (2 ≤ e.toNat) && decide (e.toNat ≤ 8)) then
      (if i.act = 0 then s.skipGroup i p e.toNat else s.issue (groupAttr p false [] none) always never (straight (fun _ s => s)))
    else
      let gend := (s.groupEnd i.core i.b.regid i.r 64 e.toNat (nextPc i.pc)).2.1
      let (grp, s) := s.fetchGroup i.core i.b.regid i.r 64 e.toNat (nextPc i.pc) [] []
      let l := match grp with
        | .ok l _ => if groupOk l then l else []
        | _ => []
      let a := groupAttr p legal l (some (nextPc gend))
      s.issue a always
        (fun i s => (i.b.commitDue && i.w.hints.isEmpty) || grp == .hold || decide (Config.sinkEntries ≤ s.sinkLines i.core))
        (straight (fun i s => if i.trailing then s else s.beginGroup i a grp gend x.toNat))

/-- GEND (07 R177): outside a group it is a fault. -/
def execGend (p : BitVec 4) (s : State) :
    Host.Outcome State Fault Refusal :=
  s.issue { maj := 0x2A, fn := 1, p := some p, legal := true, serial := true } always never
    (straight (fun i s => s.takeFault i.blk i.u i.act (fun _ => i.fault Cause.GROUP_FORM)))

end Sys2Proof.Machine
end

