-- ==== Sys2Proof/Machine/Respond.lean ====
section
/-! DEFINITION. What comes back: responses, walks, sunk groups, acknowledgements, leases, timeouts of issue (07 R165 to R183; 11 R254 to R260). -/

namespace Sys2Proof.Machine

/-- A response crosses the fabric, and no link is up. -/
def State.respWaits (s : State) (blk core : Nat) (op : MemOp) (x : LaneAcc) : Bool :=
  match op, x.homeOf with
  | .load _ _, some h => s.readsAway core h && s.cutHome (dieOf core) h 1 (s.partOf blk)
  | .maint _, some h => (s.block? blk).any (fun b => (b.buf.get? h.line).any (s.lineWaits blk b h.line))
  | _, _ => false

/-- LOAD_RESPONSE (07 R165, R170): what a lane's passed access has still to do is done: a load binds, an atomic or scratchpad
access writes its register, a store enters the buffer, a line is maintained. -/
def execLoadResponse (id : Nat) (s : State) :
    Host.Outcome State Fault Refusal :=
  match s.site? (id / 32) with
  | none => .next s
  | some t => match t.a.lane? (id % 32), s.block? t.blk with
    | some x, some b =>
      if !x.past then .next s
      else match x.value, t.a.op with
        | some v, op =>
          let s := (s.raiseLtime b.core x.time).putResult t x.lane t.a.dests v x.taint
          let s := if op.spaces == [1] then s else s.commitSoon t.blk
          .next (s.laneDone t x.lane)
        | none, .load w signed =>
          .next (if s.respWaits t.blk b.core t.a.op x then s.push (.loadResponse id) else s.bindLoad t b.core w signed x)
        | none, .store _ =>
          .next (s.bindStore t true (fun y s => s.doStore t b.core (min t.a.width (recEs t.a.record)) t.a.pol y) x)
        | none, .maint fn => .next (if s.respWaits t.blk b.core t.a.op x then s.push (.loadResponse id) else s.bindStore t false (fun y s => s.doMaint t b.core fn y) x)
        | none, _ => .next s
    | _, _ => .next s

/-- ATOMIC_COMPLETION (07 R172 to R174): an atomic is performed at its home, for the lowest of the access's lanes on the line
that await it, and its value comes back. -/
def execAtomicCompletion (id : Nat) (s : State) :
    Host.Outcome State Fault Refusal :=
  match s.site? (id / 32) with
  | none => .next s
  | some t => match t.a.lane? (id % 32), s.block? t.blk with
    | some x, some b =>
      if !x.past ∨ x.value.isSome then .next s
      else match x.homeOf with
        | none => .next (s.atomicDone t t.a.op x (some 0) false 0)
        | some h =>
          let lanes := t.a.mates h.line
          let y := lanes.headD x
          if s.behind t (some h.line) lanes then
            .next ((s.awaitEarlier t .passed (some h.line) lanes).push (.atomicCompletion id))
          else if s.cutHome (dieOf b.core) h 3 (s.partOf t.blk) then .next (s.push (.atomicCompletion id))
          else
            let s := if y.lane = x.lane then s else s.push (.atomicCompletion id)
            let (v, s) := (if h.hdev = s.devNum then s else s.sendTo t.blk (dieOf b.core) h.hdev 3).doAtomic t b.core t.a.op y
            let idle := t.a.op == .sc && v == some 1
            .next (s.atomicDone t t.a.op y v (h.hdie != dieOf b.core || h.hdev != s.devNum)
              (if idle then 0 else s.homeTime b.core h))
    | _, _ => .next s

/-- Lanes of an access that are to issue it again do so: each after its earlier ones (14 R334). -/
def State.reissue (s : State) (t : Site) : State :=
  match s.unit? t.blk t.unit with
  | none => s
  | some w =>
    let first := fun (lane : Nat) => !w.log.any (fun e => decide (e.1 < t.id) && e.2.lanes.any (fun y => y.lane == lane && y.phase == .again))
    let s := s.modAccess t (fun a => { a with lanes := a.lanes.map (fun x =>
      if x.phase == .again && first x.lane then { x with phase := .walking } else x) })
    if (s.access t).lanes.any (fun x => x.phase == .again) then s.push (.pageWalkDone t.id 0) else s

/-- PAGE_WALK_DONE (14 R330): the walk of a page that a logged access awaits is over: its lanes go on, or fault. -/
def execPageWalkDone (id page : Nat) (s : State) :
    Host.Outcome State Fault Refusal :=
  match s.site? id with
  | none => .next s
  | some t => .next ((s.reissue t).tryLanes t (fun x => x.elems.isEmpty || x.page == page) true)

/-! ## Sunk groups (07 R178 to R183) -/

/-- A lane's lead line as the executor of a level finds it: the data, its poison, the place that they come from, and the logical time of
the response; its lease is renewed for the requester (11 R255). A copy of the die serves level 1; at level 3 the die gives up one that
has come since, which may be older (10 R238). -/
def State.sunkLine (s : State) (k : Sunk) (h : Home) : BitVec 1024 × Bool × Option Nat × Nat × State :=
  let die := dieOf k.core
  match if k.level = 1 ∧ h.tracked then ((s.die die).llc.get? h.line).filter (fun c => c.serves && !c.home) else none with
  | some c =>
    let rts := time48 (max c.rts ((s.core k.core).ltime + 64))
    (c.data, c.poison || s.fencedBy die (s.peerOf h), some (farPlace die), max c.wts (rts - 64),
      s.setLlc die h.line { c with rts := rts })
  | none =>
    let s := if k.level = 1 then s else if h.tracked then (s.dramRead k.block h).dropFarCopy die h.line else s.dramRead k.block h
    let s := s.lease k.block k.core h (k.level == 1)
    (s.lineData h.line, s.isPoisoned die h, none, s.homeTime k.core h, s)

/-- A sunk store or RED, performed at the level where the group runs (R180): its wts. One whose line is poisoned at home is not performed
(12 R276); above level 1 no slice takes the line for it (R179; 12 R270). -/
def State.sunkEffect (s : State) (t : Site) (k : Sunk) (e : Effect) : Nat × State :=
  let put := fun (h : Home) (mask : BitVec 128) (data : BitVec 1024) =>
    if s.isPoisoned (dieOf k.core) h then (0, s.consume t.blk Cause.UNCORRECTABLE)
    else
      let (wts, s) := s.writeBelow k.core t.blk h (k.level == 1) mask data
      (wts, (s.clearResv h.line true (onlyLane t.blk t.unit k.lane)).markCommitted t.blk)
  match e with
  | .none => (0, s)
  | .store h parts =>
    put h (parts.foldl (fun (m : BitVec 128) x => m ||| maskAt x.1 x.2.length) 0)
      (parts.foldl (fun (d : BitVec 1024) x => lineWith d x.1 x.2) 0)
  | .red h off op x =>
    let old : Word := BitVec.ofNat 32 (s.rdNat (h.line * Config.lineBytes + off) 4)
    put h (maskAt off 4) (dataAt off (leBytes 4 (combine op old x 0).toNat))

/-- What a demoted group takes back to its core: it is recorded at level 0 (R183). -/
def Sunk.demote (k : Sunk) : Effect → Sunk
  | .none => { k with level := 0 }
  | .store _ parts => { k with level := 0, parts := parts }
  | .red _ off op x => { k with level := 0, red := some (off, op, x) }

/-- A lower lane of the same group waits on the same line (R179). -/
def State.sunkBefore (s : State) (k : Sunk) : Bool :=
  s.sunk.any (fun e => e.2.entry == k.entry && e.2.line == k.line && decide (e.2.lane < k.lane) && e.2.result.isNone)

/-- Run a lane's group at its level. -/
def State.runSunk (s : State) (id : Nat) (k : Sunk) (t : Site) (b : Block) (r : Region) (x : LaneAcc) (h : Home)
    (leaf : Leaf) : State :=
  let (data, bad, src, lt, s) := s.sunkLine k h
  if bad then s.consume t.blk Cause.UNCORRECTABLE
  else
    let p : Place :=
      { blk := t.blk, core := k.core, regid := b.regid, r := r, win := b.winBytes, line := some (x.vline, leaf, data), below := true
        src := src }
    match s.runMembers p (captured x) .none t.a.group with
    | (.poison, s) => s.consume t.blk Cause.UNCORRECTABLE
    | (.fault f va acc, s) => { s with sunk := s.sunk.erase id }.accessFault t [(x.lane, f, va, acc)]
    | (.ok m e, s) =>
      let s := s.addEnergy t.blk 10 1
      let demoted := s.demotes t.blk && groupStores t.a.group
      let (wts, s) := if demoted then (0, s) else s.sunkEffect t k e
      let k := if demoted then k.demote e else k
      let k := { k with
        result := some (t.a.dests.map (fun d => (d, m.regs.reg d)))
        taints := t.a.dests.filter m.regs.tainted
        flags := m.flags
        wts := max lt wts }
      { s with sunk := s.sunk.put id k }.push (.sinkGroupResponse id)

/-- The groups of one access on one line that have still to run, as the table has them. -/
def State.sunkMates (s : State) (k : Sunk) : List (Nat × Sunk) :=
  s.sunk.filter (fun e => e.2.entry == k.entry && e.2.line == k.line && e.2.result.isNone)

/-- The choice of a level is made afresh, for all of them together (R179). -/
def State.resink (s : State) (k : Sunk) (t : Site) (b : Block) (r : Region) (h : Home) : State :=
  let mates := s.sunkMates k
  let s := { s with sunk := s.sunk.filter (fun (e : Nat × Sunk) => !mates.any (fun m => m.1 == e.1)) }
  s.startGroup t b r h (mates.filterMap (fun (e : Nat × Sunk) => t.a.lane? e.2.lane))

/-- The unit that runs a group: the slice's umber-L, the umber-M of the line's pseudo-channel, or the home's umber-F (12 R268 to
R270). -/
def State.umberUnit (s : State) (k : Sunk) (h : Home) : Nat × Nat × Nat :=
  match k.level with
  | 1 => (1, dieOf k.core, sliceOf k.line)
  | 2 => (2, h.hdie, umberOf k.line)
  | _ => (3, if h.hdev = s.devNum then h.hdie else 4 + 4 * h.hdev + h.hdie, 0)

/-- Groups that an umber unit holds at once (12 R270). -/
def umberGroups : Nat := 64

/-- A unit has room for a group. -/
def State.umberRoom (s : State) (k : Sunk) (h : Home) : Bool :=
  let home := fun (e : Sunk) => ((s.site? e.entry).bind (fun t => (t.a.lane? e.lane).bind LaneAcc.homeOf)).getD h
  decide ((s.sunk.filter (fun e => e.2.accepted && e.2.result.isNone && s.umberUnit e.2 (home e.2) == s.umberUnit k h)).length
    < umberGroups)

/-- UMBER_GROUP_EXECUTE (07 R179, R180): a lane's group runs at its level; where its line has left the slice, or its block has
since buffered a store to it (10 R242), the level is chosen afresh. One that its unit has had no room for waits for room (12
R270). -/
def execUmberGroupExecute (id : Nat) (s : State) :
    Host.Outcome State Fault Refusal :=
  match s.sunk.get? id with
  | none => .next s
  | some k =>
    if k.result.isSome then .next s
    else if s.sunkBefore k then .next (s.push (.umberGroupExecute id))
    else match s.site? k.entry with
      | none => .next s
      | some t => match t.a.lane? k.lane, s.block? t.blk with
        | some x, some b => match s.region? b.regid, x.homeOf, x.leaf with
          | some r, some h, some leaf =>
            if (b.buf.get? h.line).isSome || (k.level == 1 && !s.sliceServes (dieOf b.core) h) then .next (s.resink k t b r h)
            else if k.level = 3 ∧ s.cutHome (dieOf b.core) h 3 (s.partOf t.blk) then .next (s.push (.umberGroupExecute id))
            else if !k.accepted then
              .next ((if s.umberRoom k h then { s with sunk := s.sunk.put id { k with accepted := true } } else s).push
                (.umberGroupExecute id))
            else .next ((if k.level = 3 then s.sendTo t.blk (dieOf b.core) h.hdev 3 else s).runSunk id k t b r x h leaf)
          | _, _, _ => .next s
        | _, _ => .next s

/-- What a returned group leaves: results, level and a demoted store. The logical time of the response ends the leases of the copies that
its store made stale; an untracked copy, which has none, leaves the core's L1 (10 R242, R250). -/
def State.sunkReturn (s : State) (k : Sunk) (t : Site) (x : LaneAcc) (h : Home) (regs : List (Nat × Word)) : State :=
  let s := s.raiseLtime k.core k.wts
  let s := if !h.tracked && groupStores t.a.group then s.l1Drop k.core h.line else s
  let s := if k.parts.isEmpty then s else s.coreEffect t k.core x.lane (.store h k.parts)
  let s := match k.red with
    | some (off, op, v) => s.coreEffect t k.core x.lane (.red h off op v)
    | none => s
  let lane := regs.foldl (fun (l : Lane) e => l.setReg e.1 e.2 (k.taints.contains e.1)) {}
  (s.groupResults t x.lane k.level { lane := x.lane, regs := lane, flags := k.flags }).laneDone t x.lane

/-- SINK_GROUP_RESPONSE (07 R178): a lane's results come back. A demoted store that finds no room in the buffer has its group run
again later (notes/assumptions/21). -/
def execSinkGroupResponse (id : Nat) (s : State) :
    Host.Outcome State Fault Refusal :=
  match s.sunk.get? id with
  | none => .next s
  | some k => match k.result, s.site? k.entry with
    | some regs, some t => match t.a.lane? k.lane with
      | some x => match x.homeOf with
        | some h =>
          let s := { s with sunk := s.sunk.erase id }
          .next (if !k.parts.isEmpty && s.roomStall t.blk h.line then
            (s.holdBack t [x]).push (.pageWalkDone t.id x.page) else s.sunkReturn k t x h regs)
        | none => .next s
      | none => .next s
    | _, _ => .next s

/-! ## Acknowledgements and leases (11 R254 to R260) -/

/-- STORE_ACKNOWLEDGE (11 R255, R260): a write that has been performed is acknowledged to its core; it is complete once every
sharer has given the line up. -/
def execStoreAcknowledge (id : Nat) (s : State) :
    Host.Outcome State Fault Refusal :=
  match s.acks.get? id with
  | none => .next s
  | some a =>
    let home : Home := { line := a.line, hdie := a.die, hdev := devOfLine a.line, tracked := false }
    if a.core < 384 && s.cutHome (dieOf a.core) home 0 then .next (s.push (.storeAcknowledge id))
    else
      let s := if a.dies ≠ 0 ∨ a.devs ≠ 0 then { s with acks := s.acks.put id { a with acked := true } }
        else { s with acks := s.acks.erase id }
      let s := if a.core < 384 ∧ a.acked = false then s.raiseLtime a.core a.wts else s
      let s := s.ladders.foldl (fun (s : State) e => if e.2.owed.any (fun x => x.2 == id) then s.ladderSettle e.1 else s) s
      .next (s.passAllFences.answerOwed.askCompletion a.block)

/-- A sharer has acknowledged: `die` is a die of the package, or 4 + a device's number. -/
def State.sharerGone (s : State) (die line id : Nat) : State :=
  let bit4 : BitVec 4 := BitVec.ofNat 4 (2 ^ die)
  let bit64 : BitVec 64 := BitVec.ofNat 64 (2 ^ (die - 4))
  let drop := fun (e : DirEntry) => if die < 4 then { e with dies := e.dies &&& ~~~bit4 } else { e with devs := e.devs &&& ~~~bit64 }
  let s := { s with dies := s.dies.mapVals (fun d =>
    { d with dir := (d.dir.modify line drop).filter (fun e => e.2 != ({} : DirEntry)) }) }
  let s := { s with acks := s.acks.modify id (fun a =>
    if die < 4 then { a with dies := a.dies &&& ~~~bit4 } else { a with devs := a.devs &&& ~~~bit64 }) }
  match s.acks.get? id with
  | some a => if a.dies = 0 ∧ a.devs = 0 then s.push (.storeAcknowledge id) else s
  | none => s

/-- DIRECTORY_INVALIDATE (11 R260): a die gives up its copy of a line, and later copies of remote lines come no earlier than its
lease; a peer that does not reach the home has not acknowledged, and one that the home has fenced is no sharer, once the scrub has passed (12 R298, R299). -/
def execDirectoryInvalidate (die line id : Nat) (s : State) :
    Host.Outcome State Fault Refusal :=
  match s.acks.get? id with
  | none => .next s
  | some a =>
    if s.fencedBy a.die die then
      .next (if s.agenda.contains (.fenceDirectoryScrub ⟨a.die, die⟩) then s else s.sharerGone die line id)
    else if die < 4 then
      if s.fencedBy die a.die then .next (s.push (.directoryInvalidate die line id))
      else .next ((s.dropFarCopy die line).sharerGone die line id)
    else if s.cutOff a.die (die - 4) 0 then .next (s.push (.directoryInvalidate die line id))
    else .next (s.sharerGone die line id)

/-- LTIME_TICK (11 R254): every core of a die counts one tick. -/
def execLtimeTick (die : Nat) (s : State) :
    Host.Outcome State Fault Refusal :=
  .next ((List.range Config.coresPerDie).foldl (fun (s : State) c =>
    s.modCore (die * Config.coresPerDie + c) (fun x => { x with ltime := (x.ltime + 1) % 2 ^ 48 })) s)

/-- LR_RESERVATION_EXPIRY (07 R174): a reservation ends 1,024 cycles after its LR. -/
def execLrReservationExpiry (blk warp lane stamp : Nat) (s : State) :
    Host.Outcome State Fault Refusal :=
  .next (s.modUnit blk (.warp warp) (fun w => w.modLane lane (fun l =>
    if l.resv.map Resv.stamp = some stamp then { l with resv := none } else l)))

/-! ## Timeouts of issue (05 R122; 08 R198; 12 R291) -/

/-- The lanes of a stall on owner bits that still stall (08 R198): those whose tiles are the engines', of an access that is still to be
performed. -/
def State.stillOwned (s : State) (b : Block) (w : Warp) (o : OwnerStall) : List (Nat × Word × List Nat) :=
  o.lanes.filter (fun e => e.2.2.any (s.core b.core).engTile && (match o.entry with
    | none => true
    | some k => (w.log.get? k).any (fun a => a.lanes.any (fun x => x.lane == e.1 && x.phase == .walking))))

/-- OWNER_TIMEOUT_EXPIRY (08 R198): lanes that still stall on an engine's tile take OWNER_TIMEOUT. -/
def execOwnerTimeoutExpiry (blk unit stamp : Nat) (s : State) :
    Host.Outcome State Fault Refusal :=
  let u := UnitRef.ofNum unit
  match s.block? blk, s.unit? blk u with
  | some b, some w => match w.owners.find? (fun o => o.since == stamp) with
    | none => .next s
    | some o =>
      let still := s.stillOwned b w o
      let s := s.modUnit blk u (fun w => { w with owners := w.owners.filter (fun x => x.since != stamp) })
      match still with
      | [] => .next s
      | (_, c, _) :: _ =>
        let view : Word := match o.view with
          | some v => viewWord v 0
          | none => 0
        match o.entry.bind s.site? with
        | some t => .next (s.accessFault t (still.map (fun e => (e.1, { cause := Cause.OWNER_TIMEOUT, view := view, coord := c }, 0, t.a.op.acc))))
        | none => .next (s.takeFault blk u (maskOf (still.map Prod.fst)) (fun _ =>
          { cause := Cause.OWNER_TIMEOUT, pc := o.pc, resume := o.pc, view := view, coord := c, stamp := 0 }))
  | _, _ => .next s

/-- ORPHAN_DETECTION (05 R122): a warp whose lanes all wait, one at a JWAIT at least, takes ORPHAN_SET in the lanes at a JWAIT. -/
def execOrphanDetection (blk warp : Nat) (s : State) :
    Host.Outcome State Fault Refusal :=
  match s.unit? blk (.warp warp) with
  | none => .next s
  | some w =>
    if !w.orphaned then .next s
    else
      let sets := (List.range 16).filter (fun n => w.waitingOn n != 0)
      let n := sets.headD 0
      let mask := sets.foldl (fun (m : Word) k => m ||| w.waitingOn k) 0
      let pc := (w.lane (lowest (w.waitingOn n))).pc
      .next (s.takeFault blk (.warp warp) mask (fun l =>
        { cause := Cause.ORPHAN_SET, pc := pc, resume := (w.lane l).pc, view := 0, coord := BitVec.ofNat 32 n, stamp := 0 }))

/-- TRAILING_LAG_TIMEOUT (12 R291): a leading warp that its lag has held for 65,536 cycles: a mismatch. -/
def execTrailingLagTimeout (blk warp stamp : Nat) (s : State) :
    Host.Outcome State Fault Refusal :=
  match s.block? blk with
  | none => .next s
  | some b =>
    if b.loc = .live ∧ ((b.ctx.pairs[warp]?).getD {}).since = some stamp ∧ stamp + 65536 ≤ s.now then .next (s.consume blk Cause.CHECK_MISMATCH)
    else .next s

end Sys2Proof.Machine
end

