-- ==== Sys2Proof/Machine/Engine.lean ====
section
/-! DEFINITION. Engine commands from capture to DONE: parameter blocks, views, elements, units, tokens, page requests
(08 R187 to R209; 10 R236; 11 R264; 20 R377; 21 R380). Units are performed in order, each whole or not at all
(notes/assumptions/22). -/

namespace Sys2Proof.Machine

/-! ## Parameter blocks (R199, R203 to R208) -/

namespace Detail
def PARAM : Nat := 0x01
def BOUNDS : Nat := 0x06
def BAD : Nat := 0x07
def PAGE : Nat := 0x08
def PROT : Nat := 0x09
def ALIGN : Nat := 0x0A
def UNCORRECTABLE : Nat := 0x12
def OWNER : Nat := 0x20
def WFORMAT : Nat := 0x21
def EMPTY : Nat := 0x22
def ABORT : Nat := 0x23
end Detail

/-- What ends a command: DETAIL, OPND, SRCN (R191). -/
structure Defect where
  detail : Nat
  opnd : Nat := 0
  srcn : Nat := 0
  deriving DecidableEq, Repr

/-- A field of the parameter block, and a signed one. -/
def Cmd.par (c : Cmd) (lo n : Nat) : Nat := field c.params lo n
def Cmd.parS (c : Cmd) (lo : Nat) : Int := fieldS c.params lo 32

/-- A defect that belongs to no one operand: its OPND is open (notes/assumptions/27). -/
def Cmd.openDefect (c : Cmd) (detail : Nat) : Defect := { detail := detail, opnd := (Config.statOpnd c.params detail).toNat }

/-- A view that a command names: its number, OPND, SRCN and the spaces it accepts. -/
structure CmdView where
  view : Nat
  opnd : Nat
  srcn : Nat := 0
  spaces : List Nat
  deriving DecidableEq, Repr

/-- Sources of REDE. -/
def Cmd.nsrc (c : Cmd) : Nat := c.par 144 4 + 1

/-- MMRUN reads activation scales. -/
def Cmd.xs (c : Cmd) : Bool := c.par 4 1 == 1

def Cmd.views (c : Cmd) : List CmdView :=
  let src := c.par 0 7
  let dst := c.par 8 7
  match c.op with
  | .cpy => [{ view := src, opnd := 0, spaces := [0, 1, 3] }, { view := dst, opnd := 1, spaces := [0, 1, 2, 3] }]
  | .cpyaF32 => [{ view := src, opnd := 0, spaces := [0, 1, 3] }, { view := dst, opnd := 1, spaces := [0, 1, 3] }]
  | .cpyaF16 => [{ view := src, opnd := 0, spaces := [0, 1, 3] }, { view := dst, opnd := 1, spaces := [0, 1, 3] }]
  | .cpyg => [{ view := src, opnd := 0, spaces := [0, 3] }, { view := dst, opnd := 1, spaces := [0, 1, 3] },
      { view := c.par 16 7, opnd := 2, spaces := [0, 1, 3] }]
  | .csld => [{ view := c.par 32 7, opnd := 0, spaces := [0] }, { view := c.par 40 7, opnd := 2, spaces := [0] }]
  | .mmld => []
  | .mmrun => { view := dst, opnd := 0, spaces := [0, 1] } ::
      (if c.xs then [{ view := c.par 16 7, opnd := 2, spaces := [0, 1] }] else [])
  | .mmdrain => [{ view := dst, opnd := 1, spaces := [0, 1, 3] }]
  | .rede => { view := c.par 128 7, opnd := 1, spaces := [0] } :: { view := c.par 136 7, opnd := 3, spaces := [0] } ::
      (List.range c.nsrc).map (fun k => { view := c.par (8 * k) 7, opnd := 0, srcn := k, spaces := [0] })

def Cmd.viewRec (c : Cmd) (view : Nat) : Record := c.records.getD 0 view

/-- Bits that must be zero: first bit, count (R191). -/
def Cmd.reserved (c : Cmd) : List (Nat × Nat) :=
  match c.op with
  | .cpyg => [(7, 1), (15, 1), (23, 9), (448, 32)]
  | .csld => [(2, 6), (15, 1), (19, 13), (39, 1), (47, 17), (192, 288)]
  | .mmld => [(3, 5), (15, 1), (19, 461)]
  | .mmrun => [(5, 3), (15, 1), (23, 9), (43, 21), (76, 20), (192, 288)] ++ (if c.xs then [] else [(16, 7)])
  | .mmdrain => [(3, 5), (15, 17), (43, 21), (76, 20), (105, 23), (138, 22), (224, 256)]
  | .rede => (List.range 16).map (fun k => (8 * k + 7, 1)) ++ [(135, 1), (143, 1), (150, 10), (192, 288)]
      ++ ((List.range 16).filter (fun k => decide (c.nsrc ≤ k))).map (fun k => (8 * k, 7))
  | _ => [(7, 1), (15, 1), (16, 7), (23, 9), (416, 32), (448, 32)]

/-- Box extents and origins of a copy. -/
def Cmd.boxN (c : Cmd) : List Nat := (List.range 4).map (fun k => c.par (32 + 32 * k) 32)
def Cmd.srcO (c : Cmd) : List Int := (List.range 4).map (fun k => c.parS (160 + 32 * k))
def Cmd.dstO (c : Cmd) : List Int := (List.range 4).map (fun k => c.parS (288 + 32 * k))

/-- Fields in range, as the block alone tells (R199 to R208). -/
def Cmd.fieldsOk (c : Cmd) : Bool :=
  let rows := decide (1 ≤ c.par 64 12) && decide (c.par 32 11 + c.par 64 12 ≤ 2048)
  match c.op with
  | .csld => decide (c.par 16 3 ≤ 5)
  | .mmld => decide (c.par 16 3 ≤ 5)
  | .mmrun => rows
  | .mmdrain => rows && decide (1 ≤ c.par 128 10) && decide (c.par 96 9 + c.par 128 10 ≤ 512)
  | .rede => true
  | _ => c.boxN.all (fun n => decide (1 ≤ n) && decide (n < 2 ^ 31))

/-- Type code of a weight format (R203; 03 R61). -/
def weightType (w : Nat) : Nat :=
  match w with
  | 0 => 0
  | 1 => 9
  | 2 => 10
  | 3 => 7
  | 4 => 8
  | _ => 11

/-- Types, ranks and extents of the views (R199, R203, R205, R206, R208): the operand at fault. -/
def Cmd.shapeBad (c : Cmd) : Option Defect :=
  let bad (opnd srcn : Nat) : Option Defect := some { detail := Detail.PARAM, opnd := opnd, srcn := srcn }
  match c.op, c.views.map (fun v => c.viewRec v.view) with
  | .cpyg, [src, dst, idx] =>
    if recRank idx ≠ 1 ∨ !([4, 5].contains (recType idx)) then bad 2 0
    else if recRank src ≠ 2 then bad 0 0
    else if recRank dst ≠ 2 then bad 1 0
    else if recEs src ≠ recEs dst ∨ (c.boxN.drop 2).any (fun n => n != 1) then some (c.openDefect Detail.PARAM)
    else none
  | .csld, [wv, sv] =>
    if recRank wv ≠ 2 ∨ recType wv ≠ weightType (c.par 16 3) then bad 0 0
    else if recRank sv ≠ 2 ∨ recType sv ≠ 8 then bad 2 0
    else none
  | .mmld, _ => none
  | .mmrun, x :: scales =>
    if recRank x ≠ 2 ∨ !([0, 7, 8, 9, 10].contains (recType x)) then bad 0 0
    else if scales.any (fun r => recRank r != 1 || recType r != 7) then bad 2 0
    else none
  | .mmdrain, [d] =>
    if recRank d ≠ 2 ∨ !((if c.par 2 1 = 1 then [6, 7] else [6, 7, 8]).contains (recType d)) then bad 1 0 else none
  | .rede, dst :: flg :: srcs =>
    if !([6, 7, 8].contains (recType dst)) then bad 1 0
    else if !([4, 5].contains (recType flg)) then bad 3 0
    else
      let same := fun (r : Record) => recType r == recType dst && recRank r == recRank dst
        && (List.range (recRank dst)).all (fun k => recExt r k == recExt dst k)
      match (List.range srcs.length).find? (fun k => !same (srcs.getD k 0)) with
      | some k => bad 0 k
      | none => none
  | op, [src, dst] =>
    let t := if op = .cpyaF32 then 6 else 7
    if recRank src ≠ recRank dst ∨ (c.boxN.drop (recRank dst)).any (fun n => n != 1)
        ∨ (op = .cpy ∧ recEs src ≠ recEs dst) then some (c.openDefect Detail.PARAM)
    else if op = .cpy then none
    else if recType src ≠ t then bad 0 0
    else if recType dst ≠ t then bad 1 0
    else none
  | _, _ => none

/-- The destination record, where there is a view of one. -/
def Cmd.dst? (c : Cmd) : Option Record := (c.views.find? (fun v => v.opnd == 1)).bind (fun v => c.records.get? v.view)

/-- The box of a command that copies: extents. -/
def Cmd.box (c : Cmd) : List Nat :=
  match c.op with
  | .mmdrain => [c.par 128 10, c.par 64 12, 1, 1]
  | .rede => let d := c.dst?.getD 0
    (List.range 4).map (fun k => if k < recRank d then recExt d k else 1)
  | _ => c.boxN

/-- Elements of one chunk, and chunks of one row (R192). -/
def Cmd.chunkLen (c : Cmd) : Nat := max 1 (128 / recEs (c.dst?.getD 0))
def Cmd.rowChunks (c : Cmd) : Nat := (c.box.getD 0 0 + c.chunkLen - 1) / c.chunkLen

/-- Units of the command (R185, R192). -/
def Cmd.units (c : Cmd) : Nat :=
  match c.op with
  | .csld => 512
  | .mmld => 512
  | .mmrun => c.par 64 12
  | _ => c.rowChunks * c.box.getD 1 1 * c.box.getD 2 1 * c.box.getD 3 1

/-- Box coordinates of the elements of a chunk: coordinate 1 varies fastest among rows (R192). -/
def Cmd.chunk (c : Cmd) (k : Nat) : List (List Nat) :=
  let row := k / c.rowChunks
  let i1 := row % c.box.getD 1 1
  let i2 := row / c.box.getD 1 1 % c.box.getD 2 1
  let i3 := row / c.box.getD 1 1 / c.box.getD 2 1
  let lo := k % c.rowChunks * c.chunkLen
  (List.range (min c.chunkLen (c.box.getD 0 0 - lo))).map (fun i => [lo + i, i1, i2, i3])

/-! ## Grants of arrays (R201) -/

/-- Array `a` is granted to a region on a die. -/
def Region.array (r : Region) (die a : Nat) : Bool := natBit r.arrMask.toNat a && natBit r.dieMask.toNat die
def Region.rows (r : Region) (a first n : Nat) : Bool :=
  let g := r.agrant.getD a 0
  decide (bitsOf g 4 0 * 64 ≤ first) && decide (first + n ≤ (bitsOf g 4 0 + bitsOf g 10 5) * 64)
def Region.slotOk (r : Region) (a slot : Nat) : Bool :=
  let g := r.agrant.getD a 0
  decide (bitsOf g 17 11 ≤ slot) && decide (slot < bitsOf g 17 11 + bitsOf g 25 18)

/-- A column-store byte lies in a granted slot (R199, R202). -/
def Region.columnOk (r : Region) (die o : Nat) : Bool :=
  let a := o / Config.arrayColumnBytes
  decide (a < 4) && r.array die a && r.slotOk a (o % 196608 / 1536)

/-- The grant that an array command needs. -/
def Cmd.granted (c : Cmd) (r : Region) : Bool :=
  let die := dieOf c.core
  let a := c.par 0 2
  match c.op with
  | .csld => r.array die a && r.slotOk a (c.par 8 7)
  | .mmld => r.array die a && r.slotOk a (c.par 8 7)
  | .mmrun => r.array die a && r.rows a (c.par 32 11) (c.par 64 12)
  | .mmdrain => r.array die a && r.rows a (c.par 32 11) (c.par 64 12)
  | _ => true

/-- What the captured command is rejected for before any access (R191, R199, R201): reserved fields and ranges, records,
shapes, the count of units, the grant. -/
def Cmd.check (c : Cmd) (r : Region) : Option Defect :=
  if c.reserved.any (fun f => c.par f.1 f.2 != 0) || !c.fieldsOk then some (c.openDefect Detail.PARAM)
  else match c.views.find? (fun v => !(recordOk (c.viewRec v.view) && v.spaces.contains (recSpace (c.viewRec v.view)))) with
    | some v => some { detail := Detail.BAD, opnd := v.opnd, srcn := v.srcn }
    | none => match c.shapeBad with
      | some d => some d
      | none => if 2 ^ 28 ≤ c.units then some (c.openDefect Detail.PARAM)
        else if !c.granted r then some (c.openDefect Detail.PROT) else none

/-! ## Page requests (R195; 14 R338) -/

/-- A request for a page that is still outstanding. -/
def State.pageReq? (s : State) (die part page : Nat) : Option Nat :=
  (s.pageReqs.find? (fun e => e.2.die == die && e.2.part == part && e.2.page == page)).map Prod.fst

/-- Post a page request for an engine of a die. -/
def State.postPage (s : State) (die part va acc regid core : Nat) : State :=
  match s.pageReq? die part (va / 2 ^ 16) with
  | some _ => s
  | none =>
    let (id, s) := s.fresh
    let req : PageReq := { die := die, part := part, page := va / 2 ^ 16, seq := (s.die die).seq }
    let hint := s.hintOf die part va
    { s with pageReqs := s.pageReqs.put id req }.postFault die part
      (fun seq => faultRecord Cause.PAGE false true acc part hint regid va 0 0 core 0 seq)
      (fun seq => { die := die, seq := seq, block := 0, unit := 0, lanes := 0, double := false, request := some id,
                    since := s.now })

/-! ## Elements (R200) -/

/-- Where an element lies. -/
inductive ELoc where
  | skip
  | mem (l : Leaf) (va : Nat)
  | tile (a : Nat)
  | col (a : Nat)
  deriving DecidableEq, Repr

/-- What finding an element comes to: its place and whether it was clipped, or a defect, or a page whose request is
outstanding, with the defect if it is declined. -/
inductive EFind where
  | at (l : ELoc) (clipped : Bool)
  | bad (d : Defect)
  | wait (req : Nat) (d : Defect)
  deriving DecidableEq, Repr

/-- Coordinates against the extents: an address, or skipped; a destination is never clamped (R159, R200). -/
def engAddr (r : Record) (e : List Int) (dest : Bool) : Except Unit (Option Int × Bool) :=
  let e := e.take (recRank r)
  if (List.range (recRank r)).any (fun k => recExt r k == 0) then .error ()
  else
    let out := (mapFrom 0 (fun k x => decide (x < 0) || decide ((recExt r k : Int) ≤ x)) e).any id
    if dest && out then (if recClip r = 0 then .error () else .ok (none, true))
    else match clipAll r 0 e [] with
      | .error _ => .error ()
      | .ok x => .ok (x.map (elemAddr r), out)

/-- Find an element of a view for a command: `opnd` and `srcn` name it. A column-store byte outside the grant ends the command at the unit
that reaches it: R201's end with PROG 0 is of a command that names an array or slot in its block, and whether it is of a CPY too the
spec does not say (DESIGN CHOICE, notes/assumptions/95). -/
def State.engFind (s : State) (c : Cmd) (b : Block) (r : Region) (v : Record) (opnd srcn : Nat) (dest : Bool) (need : Need)
    (e : List Int) : EFind × State :=
  let bad (d : Nat) : EFind := .bad { detail := d, opnd := opnd, srcn := srcn }
  let es := recEs v
  let die := dieOf c.core
  match engAddr v e dest with
  | .error _ => (bad Detail.BOUNDS, s)
  | .ok (none, cl) => (.at .skip cl, s)
  | .ok (some a, cl) =>
    match recSpace v with
    | 1 =>
      if a < 0 ∨ ((b.winBytes : Nat) : Int) < a + ((es : Nat) : Int) then (bad Detail.PROT, s)
      else if a % ((es : Nat) : Int) ≠ 0 then (bad Detail.ALIGN, s)
      else
        let o := b.winBase + a.toNat
        if (s.core b.core).engTile (o / Config.tileBytes) then (.at (.tile o) cl, s) else (bad Detail.OWNER, s)
    | 2 =>
      if a < 0 ∨ !((List.range es).all (fun i => r.columnOk die (a.toNat + i))) then (bad Detail.PROT, s)
      else if a % ((es : Nat) : Int) ≠ 0 then (bad Detail.ALIGN, s)
      else (.at (.col a.toNat) cl, s)
    | sp =>
      if a < 0 ∨ ((2 ^ 52 : Nat) : Int) ≤ a then (bad Detail.PROT, s)
      else if a % ((es : Nat) : Int) ≠ 0 then (bad Detail.ALIGN, s)
      else
        let va := a.toNat
        match s.translateEngine die r.part va need (if dest then 5 else 4) (sp == 3) with
        | (.ok l, s) =>
          if s.fencedBy die (s.peerOf (l.home va)) then (bad Detail.UNCORRECTABLE, s)
          else if s.cutHome die (l.home va) 384 (some r.part) then (.wait 0 { detail := 0 }, s)
          else (.at (.mem l va) cl, s)
        | (.fault cause acc, s) =>
          if cause ≠ Cause.PAGE then (bad Detail.PROT, s)
          else match s.pageReq? die r.part (va / 2 ^ 16) with
            | some q => (.wait q { detail := Detail.PROT, opnd := opnd, srcn := srcn }, s)
            | none => (bad Detail.PAGE, s.postPage die r.part va acc c.regid 0)

/-- A word of the column store among those of a range has an error beyond its code (12 R274). -/
def Die.colFlawed (d : Die) (a n : Nat) : Bool := (d.colBad ++ d.colPoison).any (fun w => decide (a < 8 * w + 8) && decide (8 * w < a + n))

/-- Write bytes to the column store; a word written whole has no error. -/
def Die.colWrite (d : Die) (a : Nat) (l : List Byte) : Die :=
  { d with
    colStore := Memory.write d.colStore a l
    colBad := d.colBad.filter (fun w => !(decide (a ≤ 8 * w) && decide (8 * w + 8 ≤ a + l.length)))
    colPoison := d.colPoison.filter (fun w => !(decide (a ≤ 8 * w) && decide (8 * w + 8 ≤ a + l.length))) }

/-- The value of an element; none where its line is poisoned, or its word beyond its code. -/
def State.engRead (s : State) (c : Cmd) (b : Block) (es : Nat) : ELoc → Option Nat
  | .skip => some 0
  | .mem l va => if s.isPoisoned (dieOf c.core) (l.home va) then none else some (s.rdNat (l.key va) es)
  | .tile a => if (s.core b.core).spFlawed a es then none else some (leNat ((s.core b.core).spRead a es))
  | .col a => if (s.die (dieOf c.core)).colFlawed a es then none
    else some (leNat (Memory.read (s.die (dieOf c.core)).colStore a es))

/-- A unit of a command fetches a line: a home slice that does not hold it takes it from DRAM, and one of another device is asked for
over the link, once for the unit, both charged to the block (15 R366). An engine moves no line to an L1. -/
def State.engFetch (s : State) (c : Cmd) (h : Home) : State :=
  let blk := c.dest.block
  if h.hdev = s.devNum then
    if s.llcHolds h.hdie h.line then s else (s.dramRead blk h).llcFill blk h.hdie h.line ((s.llcLine h.hdie h).fill h)
  else match s.cmds.get? c.id with
    | none => s
    | some k =>
      if k.fetched.contains h.line then s
      else (s.sendTo blk (dieOf c.core) h.hdev 1).modCmd c.id (fun k => { k with fetched := h.line :: k.fetched })

/-- The open writes that an element's read returns join the command's set C (10 R245). -/
def State.engReads (s : State) (c : Cmd) (es : Nat) : ELoc → State
  | .mem l va => (s.engFetch c (l.home va)).readsFrom c.id (l.home va).line (maskAt (va % Config.lineBytes) es) none
  | _ => s

/-- What an unreadable element does beside ending its command: a scratchpad word's error is consumed by the block that owns the
window, a DRAM location's is found (12 R274, R293). -/
def State.engFlaw (s : State) (c : Cmd) : ELoc → State
  | .tile _ => s.consume c.dest.block Cause.UNCORRECTABLE 2
  | .mem l va => s.demandAt (l.home va)
  | _ => s

/-- What a piece of a unit comes to. -/
inductive Got (α : Type) where
  | ok (x : α) (clipped : Bool)
  | bad (d : Defect)
  /-- for the answer to a page request, or with 0 for the link to a far home -/
  | wait (req : Nat) (d : Defect)

/-- Find and read an element. -/
def State.engGet (s : State) (c : Cmd) (b : Block) (r : Region) (v : Record) (opnd srcn : Nat) (e : List Int) :
    Got Nat × State :=
  match s.engFind c b r v opnd srcn false { r := true } e with
  | (.bad d, s) => (.bad d, s)
  | (.wait q x, s) => (.wait q x, s)
  | (.at l cl, s) => match s.engRead c b (recEs v) l with
    | some x => (.ok x cl, s.engReads c (recEs v) l)
    | none => (.bad { detail := Detail.UNCORRECTABLE, opnd := opnd, srcn := srcn }, s.engFlaw c l)

/-- Read a list of elements in order. -/
def State.engGets (s : State) (c : Cmd) (b : Block) (r : Region) (v : Record) (opnd srcn : Nat) :
    List (List Int) → Got (List Nat) × State
  | [] => (.ok [] false, s)
  | e :: rest =>
    match s.engGet c b r v opnd srcn e with
    | (.bad d, s) => (.bad d, s)
    | (.wait q x, s) => (.wait q x, s)
    | (.ok x cl, s) =>
      match s.engGets c b r v opnd srcn rest with
      | (.ok l cl', s) => (.ok (x :: l) (cl || cl'), s)
      | r => r

/-- The largest time kept for a die (11 R264). -/
def Cmd.kept (c : Cmd) (die : Nat) : Nat := c.wts.getD 0 die

/-- The largest of all the times that it keeps, those of other devices' homes among them: what the flag of REDE comes after (08 R209). -/
def Cmd.keptAll (c : Cmd) : Nat := c.wts.foldl (fun n e => max n e.2) 0

/-- Write bytes of one line for a command at its home, at no earlier time than one given (11 R255, R264). -/
def State.engLine (s : State) (cmd : Nat) (c : Cmd) (least : Nat) (h : Home) (mask : BitVec 128) (data : BitVec 1024) : State :=
  let key := if h.hdev = s.devNum then h.hdie else 4 + h.hdev
  let t := max least (max (s.core c.core).ltime (c.kept key))
  let (_, wts, s) := s.stampWrite noCore c.dest.block t h mask [] true cmd
  let s := (s.homeWrite h mask data).clearResv h.line true (fun _ _ _ => false)
  s.modCmd cmd (fun c => { c with wts := c.wts.put key (max wts (c.kept key)) })

/-- Write an element outside memory. -/
def State.engLocal (s : State) (c : Cmd) (b : Block) (bytes : List Byte) : ELoc → State
  | .tile a => s.modCore b.core (fun k => k.spWrite a bytes)
  | .col a => s.modDie (dieOf c.core) (fun d => d.colWrite a bytes)
  | _ => s

/-- Lines that a list of places in memory covers, each with its home. -/
def homesOf (l : List (ELoc × Nat)) : List Home :=
  (l.filterMap (fun e => match e.1 with
    | .mem leaf va => some (leaf.home va)
    | _ => none)).eraseDups

/-- Send packets over the links to far homes, one for each line; their completions come back (21 R380). -/
def State.sendFar (s : State) (cmd unit : Nat) (homes : List Home) : State :=
  match s.cmds.get? cmd with
  | none => s
  | some c => (homes.filter (fun h => h.hdev != s.devNum)).foldl (fun (s : State) h =>
      let k := unit * 64 + h.hdev
      let s := s.modCmd cmd (fun c => { c with far := c.far.put k (c.far.getD 0 k + 1) })
      (s.sendTo c.dest.block (dieOf c.core) h.hdev 3).push (.fabricCompletionReceive cmd unit h.hdev)) s

/-- Write the elements of a unit, at no earlier time than one given (R193, R200). -/
def State.engWrite (s : State) (cmd unit es : Nat) (b : Block) (l : List (ELoc × Nat)) (least : Nat := 0) : State :=
  let homes := homesOf l
  let s := homes.foldl (fun (s : State) h =>
    let mine := l.filterMap (fun e => match e.1 with
      | .mem leaf va => if (leaf.home va).line = h.line then some (va % Config.lineBytes, e.2) else none
      | _ => none)
    let mask := mine.foldl (fun (m : BitVec 128) x => m ||| maskAt x.1 es) 0
    let data := mine.foldl (fun (d : BitVec 1024) x => lineWith d x.1 (leBytes es x.2)) 0
    match s.cmds.get? cmd with
    | some c => s.engLine cmd c least h mask data
    | none => s) s
  let s := l.foldl (fun (s : State) e => match s.cmds.get? cmd with
    | some c => s.engLocal c b (leBytes es e.2) e.1
    | none => s) s
  s.sendFar cmd unit homes

/-- Add to one element what is there (R200). -/
def State.engAdd (s : State) (cmd : Nat) (f : Fmt) (b : Block) (e : ELoc × Nat) : State :=
  let es := f.width / 8
  match s.cmds.get? cmd with
  | none => s
  | some c =>
    let old := (s.engRead c b es e.1).getD 0
    let bytes := leBytes es (fadd f {} old e.2).1
    match e.1 with
    | .mem leaf va => s.engLine cmd c 0 (leaf.home va) (maskAt (va % Config.lineBytes) es) (dataAt (va % Config.lineBytes) bytes)
    | x => s.engLocal c b bytes x

/-- Find a unit's destination element; a sum's target must not be poisoned, nor beyond its code (12 R274, R276). -/
def State.engPlace (s : State) (c : Cmd) (b : Block) (r : Region) (v : Record) (opnd : Nat) (adds : Bool) (e : List Int) :
    Got ELoc × State :=
  match s.engFind c b r v opnd 0 true { r := adds, w := true } e with
  | (.bad d, s) => (.bad d, s)
  | (.wait q x, s) => (.wait q x, s)
  | (.at l cl, s) =>
    if !adds then (.ok l cl, s)
    else if (s.engRead c b (recEs v) l).isNone then (.bad { detail := Detail.UNCORRECTABLE, opnd := opnd }, s.engFlaw c l)
    else (.ok l cl, s.engReads c (recEs v) l)

/-- Plan a unit, element by element in order: what each element is to receive, and where. -/
def State.engPlan (s : State) (one : State → List Nat → Got (ELoc × Nat) × State) :
    List (List Nat) → Got (List (ELoc × Nat)) × State
  | [] => (.ok [] false, s)
  | e :: rest =>
    match one s e with
    | (.bad d, s) => (.bad d, s)
    | (.wait q x, s) => (.wait q x, s)
    | (.ok x cl, s) =>
      match s.engPlan one rest with
      | (.ok l cl', s) => (.ok (x :: l) (cl || cl'), s)
      | y => y

/-- A value, then its place. -/
def engPair (c : Cmd) (b : Block) (r : Region) (v : Record) (adds : Bool) (dest : List Int) :
    Got Nat × State → Got (ELoc × Nat) × State
  | (.bad d, s) => (.bad d, s)
  | (.wait q x, s) => (.wait q x, s)
  | (.ok x cl, s) =>
    match s.engPlace c b r v 1 adds dest with
    | (.ok l cl', s) => (.ok (l, x) (cl || cl'), s)
    | (.bad d, s) => (.bad d, s)
    | (.wait q x, s) => (.wait q x, s)

end Sys2Proof.Machine
end

