-- ==== Sys2Proof/Machine/Memory.lean ====
section
/-! DEFINITION. Loads, stores, scratchpad, atomics, prefetch and maintenance (07 R164 to R174). -/

namespace Sys2Proof.Machine

/-- Rank of a view of the issuing region, as its record stands; where the record cannot be had, the most that the registers from the
first coordinate on allow: the access that is logged with them may read them all (R167). -/
def State.rankOf (s : State) (v : BitVec 7) (c : BitVec 6) : Nat :=
  let most := max 1 (min 4 (56 - c.toNat))
  match s.issuer none with
  | some i => match (s.record i.core i.b.regid i.r v.toNat).1 with
    | .ok r => recRank r
    | _ => most
  | none => most

/-- The rank's coordinate registers. -/
def coordRun (c : BitVec 6) (rank : Nat) : List Nat := (List.range rank).map (c.toNat + ·)

/-- The coordinates lie within v55 (04 R89). -/
def coordsFit (c : BitVec 6) (rank : Nat) : Bool := decide (c.toNat + rank ≤ 56)

/-- Attributes of a memory word. -/
def memAttr (maj fn : Nat) (p : BitVec 4) (legal : Bool) (c : BitVec 6) (rank : Nat) : Attr :=
  { maj := maj, fn := fn, p := some p, legal := legal && vreg c, rr := coordRun c rank, hcoord := true, cls := 7,
    logs := true, mirror := false }

/-- What a compared access shows of each lane: the addresses of its elements, each with one added and 0 where clip mode 1 skips,
which are its byte mask too, and its data (12 R290); coordinates where they make no address. -/
def comparedAccess (op : MemOp) (dir : Nat) (v : BitVec 7) (c : BitVec 6) (rank : Nat) (data : Iss → Nat → List Word)
    (i : Iss) (s : State) : List Nat :=
  let seen := (s.record i.core i.b.regid i.r v.toNat).1
  (lanesOf i.act).flatMap (fun l =>
    let coords := coordsOf (i.w.lane l).reg c.toNat rank i.h.offs
    let plain := coords.map BitVec.toNat
    (match seen with
      | .ok rec => match checkLane rec op op.width dir v.toNat i.b.winBytes coords with
        | .ok elems => elems.map (fun e => (e.map (· + 1)).getD 0)
        | .error _ => plain
      | _ => plain) ++ (data i l).map BitVec.toNat)

/-- Data registers of a store: one source operand, or a run, or zeros (07 R164). -/
def storeData (d : BitVec 6) (n : Nat) (i : Iss) (l : Nat) : List Word :=
  if n = 1 then [(i.op l d).1]
  else if d = 56 then List.replicate n 0
  else (regRun d n).map (i.w.lane l).reg

/-- Operand codes and registers that such data reads. -/
def dataCodes (d : BitVec 6) (n : Nat) : List (BitVec 6) := if n = 1 then [d] else []
def dataRegs (d : BitVec 6) (n : Nat) : List Nat := if n = 1 ∨ d = 56 then [] else regRun d n

def noData (_ : Iss) (_ : Nat) : List Word := []

/-- Issue a memory word whose accesses are translated. -/
def State.memory (s : State) (a : Attr) (c : BitVec 6) (rank : Nat) (m : MemIss) (pol : Option Nat) :
    Host.Outcome State Fault Refusal :=
  s.issue a (fun _ _ => coordsFit c rank) (fun i _ => i.b.commitDue && i.w.hints.isEmpty)
    (straight (fun i s => s.startAccess i a { m with rank := rank, offs := i.h.offs, pol := pol.getD i.h.pol } i.headPc))

/-! ## Loads and stores (07 R164 to R167) -/

/-- A load of `w` bytes into the registers from D on. -/
def State.load (s : State) (maj fn w : Nat) (signed taint : Bool) (pol : Option Nat) (p : BitVec 4) (d c : BitVec 6)
    (v : BitVec 7) : Host.Outcome State Fault Refusal :=
  let rank := s.rankOf v c
  let regs := regRun d (max 1 (w / 4))
  s.memory { memAttr maj fn p (run d (max 1 (w / 4))) c rank with wv := regs, value := true, outs := regs.map Out.v } c rank
    { op := .load w signed, d := d.toNat, view := v.toNat, c := c.toNat, taint := taint, data := noData } pol

/-- A store of `w` bytes from `n` registers. -/
def State.store (s : State) (maj fn w n : Nat) (pol : Option Nat) (p : BitVec 4) (d c : BitVec 6) (v : BitVec 7) :
    Host.Outcome State Fault Refusal :=
  let rank := s.rankOf v c
  let a := memAttr maj fn p (data d n) c rank
  s.memory { a with
      rv := dataCodes d n, rr := a.rr ++ dataRegs d n, serial := true, reads := true,
      cmp := some (comparedAccess (.store w) 0 v c rank (storeData d n)) } c rank
    { op := .store w, d := d.toNat, view := v.toNat, c := c.toNat, data := storeData d n } pol

/-! ## The scratchpad (07 R168, R169; 08 R198) -/

/-- Lanes of a scratchpad word that touch a tile an engine owns: lane, first coordinate, tiles. -/
def State.ownedLanes (s : State) (i : Iss) (m : MemIss) : List (Nat × Word × List Nat) :=
  match (s.record i.core i.b.regid i.r m.view).1 with
  | .ok rec => (lanesOf i.act).filterMap (fun l =>
    let coords := coordsOf (i.w.lane l).reg m.c 4 i.h.offs
    match checkLane rec m.op m.op.width m.dir m.view i.b.winBytes coords with
    | .ok elems =>
      let tiles := (elems.filterMap id).map (fun o => (i.b.winBase + o) / Config.tileBytes)
      if tiles.any (s.core i.core).engTile then some (l, coords.headD 0, tiles) else none
    | .error _ => none)
  | _ => []

/-- A word stalls on an owner bit (R198). -/
def State.noteOwner (s : State) (i : Iss) (view : Option Nat) (lanes : List (Nat × Word × List Nat)) : State :=
  s.stallOwner i.blk i.u { since := 0, pc := i.headPc, view := view, lanes := lanes }

/-- Issue a scratchpad word. -/
def State.scratch (s : State) (a : Attr) (c : BitVec 6) (rank : Nat) (m : MemIss) : Host.Outcome State Fault Refusal :=
  let m := { m with rank := rank }
  s.issue
    { a with cls := 11,
             onStall := fun i s => s.noteOwner i (some m.view) (s.ownedLanes i m) }
    (fun _ _ => coordsFit c rank) (fun i s => (i.b.commitDue && i.w.hints.isEmpty) || !(s.ownedLanes i m).isEmpty)
    (straight (fun i s => s.startAccess i a { m with offs := i.h.offs } i.headPc))

def State.lds (s : State) (fn w dir : Nat) (p : BitVec 4) (d c : BitVec 6) (v : BitVec 7) :
    Host.Outcome State Fault Refusal :=
  let rank := s.rankOf v c
  let regs := regRun d (max 1 (w / 4))
  s.scratch { memAttr 0x22 fn p (run d (max 1 (w / 4))) c rank with wv := regs, value := true, outs := regs.map Out.v } c rank
    { op := .lds w, d := d.toNat, dir := dir, view := v.toNat, c := c.toNat, data := noData }

def State.sts (s : State) (fn w n dir : Nat) (p : BitVec 4) (d c : BitVec 6) (v : BitVec 7) :
    Host.Outcome State Fault Refusal :=
  let rank := s.rankOf v c
  let a := memAttr 0x23 fn p (data d n) c rank
  s.scratch { a with
      rv := dataCodes d n, rr := a.rr ++ dataRegs d n, serial := true, reads := true,
      cmp := some (comparedAccess (.sts w) dir v c rank (storeData d n)) } c rank
    { op := .sts w, d := d.toNat, dir := dir, view := v.toNat, c := c.toNat, data := storeData d n }

/-! ## Atomics and reservations (07 R171 to R174) -/

/-- Operands of an atomic: the old D, and the register after it for CAS. -/
def atomData (d : BitVec 6) (n : Nat) (i : Iss) (l : Nat) : List Word := (regRun d n).map (i.w.lane l).reg

/-- Attributes of an atomic that returns a value; it reads `n` registers from D on. -/
def atomAttr (maj fn n : Nat) (op : MemOp) (p : BitVec 4) (d c : BitVec 6) (v : BitVec 7) (rank : Nat) : Attr :=
  let a := memAttr maj fn p (run d (max 1 n)) c rank
  { a with rr := a.rr ++ regRun d n, wv := [d.toNat], value := true, serial := true, reads := true,
           outs := [.v d.toNat], cmp := some (comparedAccess op 0 v c rank (atomData d n)) }

/-- An atomic that returns a value. Its result is tainted as its coordinates are; 07 R172 does not say that a tainted data operand
taints it, and here it does not (DESIGN CHOICE, notes/assumptions/76). -/
def State.atom (s : State) (maj fn n : Nat) (op : MemOp) (p : BitVec 4) (d c : BitVec 6) (v : BitVec 7) :
    Host.Outcome State Fault Refusal :=
  let rank := s.rankOf v c
  s.memory (atomAttr maj fn n op p d c v rank) c rank
    { op := op, d := d.toNat, view := v.toNat, c := c.toNat, data := atomData d n,
      taint := false } none

def State.red (s : State) (fn : Nat) (op : AtomOp) (p : BitVec 4) (d c : BitVec 6) (v : BitVec 7) :
    Host.Outcome State Fault Refusal :=
  let rank := s.rankOf v c
  s.memory { memAttr 0x26 fn p (data d 1) c rank with
      rv := [d], serial := true, reads := true, cmp := some (comparedAccess (.red op) 0 v c rank (storeData d 1)) } c rank
    { op := .red op, d := d.toNat, view := v.toNat, c := c.toNat, data := storeData d 1 } none

def State.atoms (s : State) (fn n : Nat) (op : AtomOp) (p : BitVec 4) (d c : BitVec 6) (v : BitVec 7) :
    Host.Outcome State Fault Refusal :=
  let rank := s.rankOf v c
  s.scratch (atomAttr 0x27 fn n (.atoms op) p d c v rank) c rank
    { op := .atoms op, d := d.toNat, view := v.toNat, c := c.toNat, data := atomData d n }

/-! ## Prefetch and cache maintenance (07 R170) -/

/-- A prefetch of one lane: what would fault, clip or miss translation does nothing, and so does a poisoned line. Under clip mode 2 a
coordinate out of range is clamped, and the clamped line is fetched: whether R170 means that as a clip, which does nothing, is open (DESIGN
CHOICE, notes/assumptions/92). -/
def State.prefetch (s : State) (i : Iss) (rec : Record) (v c : Nat) (llcOnly : Bool) (l : Nat) : State :=
  match checkLane rec (.maint 0) 1 0 v i.b.winBytes (coordsOf (i.w.lane l).reg c 4 i.h.offs) with
  | .ok elems => match elems.filterMap id with
    | va :: _ => match s.coreHit i.core i.r.part va { r := true } with
      | some leaf =>
        let h := leaf.home va
        if !leaf.allows { r := true } || !s.reachable (dieOf i.core) i.r.part (recSpace rec == 3) leaf va || s.isPoisoned (dieOf i.core) h then s
        else
          let s := s.dramRead i.blk h
          let s := if h.hdev = s.devNum then s.llcFill i.blk h.hdie h.line ((s.llcLine h.hdie h).fill h) else s
          if llcOnly then s else (s.loadLine i.blk i.core h i.h.pol).2.2.2
      | none => s
    | [] => s
  | .error _ => s

def State.pref (s : State) (fn : Nat) (llcOnly : Bool) (p : BitVec 4) (c : BitVec 6) (v : BitVec 7) :
    Host.Outcome State Fault Refusal :=
  let rank := s.rankOf v c
  s.issue { memAttr 0x29 fn p true c rank with logs := false } (fun _ _ => coordsFit c rank) never
    (straight (fun i s => match s.record i.core i.b.regid i.r v.toNat with
      | (.ok rec, s) => (lanesOf i.act).foldl (fun (s : State) l => s.prefetch i rec v.toNat c.toNat llcOnly l) s
      | (_, s) => s))

/-- CWB, CINV and CWBI: they fault as a load (R170). -/
def State.maint (s : State) (fn : Nat) (p : BitVec 4) (c : BitVec 6) (v : BitVec 7) :
    Host.Outcome State Fault Refusal :=
  let rank := s.rankOf v c
  s.memory { memAttr 0x29 fn p true c rank with serial := true, ordered := true } c rank
    { op := .maint fn, d := 56, view := v.toNat, c := c.toNat, data := noData } none

/-- LD_B8_I (07 R165): load 1 byte, sign-extended. -/
def execLdB8I (p : BitVec 4) (d c : BitVec 6) (v : BitVec 7) (s : State) :
    Host.Outcome State Fault Refusal :=
  s.load 0x20 0 1 true false none p d c v

/-- LD_B8_N (07 R165): load 1 byte. -/
def execLdB8N (p : BitVec 4) (d c : BitVec 6) (v : BitVec 7) (s : State) :
    Host.Outcome State Fault Refusal :=
  s.load 0x20 1 1 false false none p d c v

/-- LD_B16_I (07 R165): load 2 bytes, sign-extended. -/
def execLdB16I (p : BitVec 4) (d c : BitVec 6) (v : BitVec 7) (s : State) :
    Host.Outcome State Fault Refusal :=
  s.load 0x20 2 2 true false none p d c v

/-- LD_B16_N (07 R165): load 2 bytes. -/
def execLdB16N (p : BitVec 4) (d c : BitVec 6) (v : BitVec 7) (s : State) :
    Host.Outcome State Fault Refusal :=
  s.load 0x20 3 2 false false none p d c v

/-- LD_B32 (07 R165): load 4 bytes. -/
def execLdB32 (p : BitVec 4) (d c : BitVec 6) (v : BitVec 7) (s : State) :
    Host.Outcome State Fault Refusal :=
  s.load 0x20 4 4 false false none p d c v

/-- LD_B64 (07 R165): load 8 bytes. -/
def execLdB64 (p : BitVec 4) (d c : BitVec 6) (v : BitVec 7) (s : State) :
    Host.Outcome State Fault Refusal :=
  s.load 0x20 5 8 false false none p d c v

/-- LD_B128 (07 R165): load 16 bytes. -/
def execLdB128 (p : BitVec 4) (d c : BitVec 6) (v : BitVec 7) (s : State) :
    Host.Outcome State Fault Refusal :=
  s.load 0x20 6 16 false false none p d c v

/-- LDC_B32 (07 R167): load 4 bytes, the result tainted. -/
def execLdcB32 (p : BitVec 4) (d c : BitVec 6) (v : BitVec 7) (s : State) :
    Host.Outcome State Fault Refusal :=
  s.load 0x20 7 4 false true none p d c v

/-- ST_B8 (07 R165): store 1 byte. -/
def execStB8 (p : BitVec 4) (d c : BitVec 6) (v : BitVec 7) (s : State) :
    Host.Outcome State Fault Refusal :=
  s.store 0x21 0 1 1 none p d c v

/-- ST_B16 (07 R165): store 2 bytes. -/
def execStB16 (p : BitVec 4) (d c : BitVec 6) (v : BitVec 7) (s : State) :
    Host.Outcome State Fault Refusal :=
  s.store 0x21 1 2 1 none p d c v

/-- ST_B32 (07 R165): store 4 bytes. -/
def execStB32 (p : BitVec 4) (d c : BitVec 6) (v : BitVec 7) (s : State) :
    Host.Outcome State Fault Refusal :=
  s.store 0x21 2 4 1 none p d c v

/-- ST_B64 (07 R165): store 8 bytes. -/
def execStB64 (p : BitVec 4) (d c : BitVec 6) (v : BitVec 7) (s : State) :
    Host.Outcome State Fault Refusal :=
  s.store 0x21 3 8 2 none p d c v

/-- ST_B128 (07 R165): store 16 bytes. -/
def execStB128 (p : BitVec 4) (d c : BitVec 6) (v : BitVec 7) (s : State) :
    Host.Outcome State Fault Refusal :=
  s.store 0x21 4 16 4 none p d c v

/-- LDS_B32_ROW (07 R168): load 4 bytes of the scratchpad along coordinate 0. -/
def execLdsB32Row (p : BitVec 4) (d c : BitVec 6) (v : BitVec 7) (s : State) :
    Host.Outcome State Fault Refusal :=
  s.lds 0 4 0 p d c v

/-- LDS_B32_COL (07 R168): load 4 bytes of the scratchpad along coordinate 1. -/
def execLdsB32Col (p : BitVec 4) (d c : BitVec 6) (v : BitVec 7) (s : State) :
    Host.Outcome State Fault Refusal :=
  s.lds 1 4 1 p d c v

/-- LDS_B64_ROW (07 R168): load 8 bytes of the scratchpad along coordinate 0. -/
def execLdsB64Row (p : BitVec 4) (d c : BitVec 6) (v : BitVec 7) (s : State) :
    Host.Outcome State Fault Refusal :=
  s.lds 2 8 0 p d c v

/-- LDS_B64_COL (07 R168): load 8 bytes of the scratchpad along coordinate 1. -/
def execLdsB64Col (p : BitVec 4) (d c : BitVec 6) (v : BitVec 7) (s : State) :
    Host.Outcome State Fault Refusal :=
  s.lds 3 8 1 p d c v

/-- LDS_B16_ROW (07 R168): load 2 bytes of the scratchpad along coordinate 0. -/
def execLdsB16Row (p : BitVec 4) (d c : BitVec 6) (v : BitVec 7) (s : State) :
    Host.Outcome State Fault Refusal :=
  s.lds 4 2 0 p d c v

/-- LDS_B16_COL (07 R168): load 2 bytes of the scratchpad along coordinate 1. -/
def execLdsB16Col (p : BitVec 4) (d c : BitVec 6) (v : BitVec 7) (s : State) :
    Host.Outcome State Fault Refusal :=
  s.lds 5 2 1 p d c v

/-- LDS_B8_ROW (07 R168): load 1 bytes of the scratchpad along coordinate 0. -/
def execLdsB8Row (p : BitVec 4) (d c : BitVec 6) (v : BitVec 7) (s : State) :
    Host.Outcome State Fault Refusal :=
  s.lds 6 1 0 p d c v

/-- LDS_B128_ROW (07 R168): load 16 bytes of the scratchpad along coordinate 0. -/
def execLdsB128Row (p : BitVec 4) (d c : BitVec 6) (v : BitVec 7) (s : State) :
    Host.Outcome State Fault Refusal :=
  s.lds 7 16 0 p d c v

/-- STS_B32_ROW (07 R168): store 4 bytes to the scratchpad along coordinate 0. -/
def execStsB32Row (p : BitVec 4) (d c : BitVec 6) (v : BitVec 7) (s : State) :
    Host.Outcome State Fault Refusal :=
  s.sts 0 4 1 0 p d c v

/-- STS_B32_COL (07 R168): store 4 bytes to the scratchpad along coordinate 1. -/
def execStsB32Col (p : BitVec 4) (d c : BitVec 6) (v : BitVec 7) (s : State) :
    Host.Outcome State Fault Refusal :=
  s.sts 1 4 1 1 p d c v

/-- STS_B64_ROW (07 R168): store 8 bytes to the scratchpad along coordinate 0. -/
def execStsB64Row (p : BitVec 4) (d c : BitVec 6) (v : BitVec 7) (s : State) :
    Host.Outcome State Fault Refusal :=
  s.sts 2 8 2 0 p d c v

/-- STS_B64_COL (07 R168): store 8 bytes to the scratchpad along coordinate 1. -/
def execStsB64Col (p : BitVec 4) (d c : BitVec 6) (v : BitVec 7) (s : State) :
    Host.Outcome State Fault Refusal :=
  s.sts 3 8 2 1 p d c v

/-- STS_B16_ROW (07 R168): store 2 bytes to the scratchpad along coordinate 0. -/
def execStsB16Row (p : BitVec 4) (d c : BitVec 6) (v : BitVec 7) (s : State) :
    Host.Outcome State Fault Refusal :=
  s.sts 4 2 1 0 p d c v

/-- STS_B16_COL (07 R168): store 2 bytes to the scratchpad along coordinate 1. -/
def execStsB16Col (p : BitVec 4) (d c : BitVec 6) (v : BitVec 7) (s : State) :
    Host.Outcome State Fault Refusal :=
  s.sts 5 2 1 1 p d c v

/-- STS_B8_ROW (07 R168): store 1 bytes to the scratchpad along coordinate 0. -/
def execStsB8Row (p : BitVec 4) (d c : BitVec 6) (v : BitVec 7) (s : State) :
    Host.Outcome State Fault Refusal :=
  s.sts 6 1 1 0 p d c v

/-- STS_B128_ROW (07 R168): store 16 bytes to the scratchpad along coordinate 0. -/
def execStsB128Row (p : BitVec 4) (d c : BitVec 6) (v : BitVec 7) (s : State) :
    Host.Outcome State Fault Refusal :=
  s.sts 7 16 4 0 p d c v

/-- ATOM_ADD (07 R172): combine (add) at the home point, the old value returned. -/
def execAtomAdd (p : BitVec 4) (d c : BitVec 6) (v : BitVec 7) (s : State) :
    Host.Outcome State Fault Refusal :=
  s.atom 0x24 0 1 (.atom .add) p d c v

/-- ATOM_MIN_I32 (07 R172): combine (minS) at the home point, the old value returned. -/
def execAtomMinI32 (p : BitVec 4) (d c : BitVec 6) (v : BitVec 7) (s : State) :
    Host.Outcome State Fault Refusal :=
  s.atom 0x24 1 1 (.atom .minS) p d c v

/-- ATOM_MAX_I32 (07 R172): combine (maxS) at the home point, the old value returned. -/
def execAtomMaxI32 (p : BitVec 4) (d c : BitVec 6) (v : BitVec 7) (s : State) :
    Host.Outcome State Fault Refusal :=
  s.atom 0x24 2 1 (.atom .maxS) p d c v

/-- ATOM_MIN_N32 (07 R172): combine (minU) at the home point, the old value returned. -/
def execAtomMinN32 (p : BitVec 4) (d c : BitVec 6) (v : BitVec 7) (s : State) :
    Host.Outcome State Fault Refusal :=
  s.atom 0x24 3 1 (.atom .minU) p d c v

/-- ATOM_MAX_N32 (07 R172): combine (maxU) at the home point, the old value returned. -/
def execAtomMaxN32 (p : BitVec 4) (d c : BitVec 6) (v : BitVec 7) (s : State) :
    Host.Outcome State Fault Refusal :=
  s.atom 0x24 4 1 (.atom .maxU) p d c v

/-- ATOM_AND (07 R172): combine (and) at the home point, the old value returned. -/
def execAtomAnd (p : BitVec 4) (d c : BitVec 6) (v : BitVec 7) (s : State) :
    Host.Outcome State Fault Refusal :=
  s.atom 0x24 5 1 (.atom .and) p d c v

/-- ATOM_OR (07 R172): combine (or) at the home point, the old value returned. -/
def execAtomOr (p : BitVec 4) (d c : BitVec 6) (v : BitVec 7) (s : State) :
    Host.Outcome State Fault Refusal :=
  s.atom 0x24 6 1 (.atom .or) p d c v

/-- ATOM_XOR (07 R172): combine (xor) at the home point, the old value returned. -/
def execAtomXor (p : BitVec 4) (d c : BitVec 6) (v : BitVec 7) (s : State) :
    Host.Outcome State Fault Refusal :=
  s.atom 0x24 7 1 (.atom .xor) p d c v

/-- ATOM_EXCH (07 R172): exchange at the home point. -/
def execAtomExch (p : BitVec 4) (d c : BitVec 6) (v : BitVec 7) (s : State) :
    Host.Outcome State Fault Refusal :=
  s.atom 0x25 0 1 (.atom .exch) p d c v

/-- ATOM_CAS (07 R172): compare with D, and where equal store D + 1. -/
def execAtomCas (p : BitVec 4) (d c : BitVec 6) (v : BitVec 7) (s : State) :
    Host.Outcome State Fault Refusal :=
  s.atom 0x25 1 2 (.atom .cas) p d c v

/-- ATOM_ADD_F32 (07 R172): F32 addition at the home point. -/
def execAtomAddF32 (p : BitVec 4) (d c : BitVec 6) (v : BitVec 7) (s : State) :
    Host.Outcome State Fault Refusal :=
  s.atom 0x25 2 1 (.atom .addF32) p d c v

/-- LR_B32 (07 R174): load at the home point and reserve the line. -/
def execLrB32 (p : BitVec 4) (d c : BitVec 6) (v : BitVec 7) (s : State) :
    Host.Outcome State Fault Refusal :=
  s.atom 0x25 3 0 .lr p d c v

/-- SC_B32 (07 R174): store where the reservation holds; 0 for success, 1 for failure. -/
def execScB32 (p : BitVec 4) (d c : BitVec 6) (v : BitVec 7) (s : State) :
    Host.Outcome State Fault Refusal :=
  s.atom 0x25 4 1 .sc p d c v

/-- RED_ADD_I32 (07 R172): combine (add) at the home point, nothing returned. -/
def execRedAddI32 (p : BitVec 4) (d c : BitVec 6) (v : BitVec 7) (s : State) :
    Host.Outcome State Fault Refusal :=
  s.red 0 .add p d c v

/-- RED_MIN_I32 (07 R172): combine (minS) at the home point, nothing returned. -/
def execRedMinI32 (p : BitVec 4) (d c : BitVec 6) (v : BitVec 7) (s : State) :
    Host.Outcome State Fault Refusal :=
  s.red 1 .minS p d c v

/-- RED_MAX_I32 (07 R172): combine (maxS) at the home point, nothing returned. -/
def execRedMaxI32 (p : BitVec 4) (d c : BitVec 6) (v : BitVec 7) (s : State) :
    Host.Outcome State Fault Refusal :=
  s.red 2 .maxS p d c v

/-- RED_AND (07 R172): combine (and) at the home point, nothing returned. -/
def execRedAnd (p : BitVec 4) (d c : BitVec 6) (v : BitVec 7) (s : State) :
    Host.Outcome State Fault Refusal :=
  s.red 3 .and p d c v

/-- RED_OR (07 R172): combine (or) at the home point, nothing returned. -/
def execRedOr (p : BitVec 4) (d c : BitVec 6) (v : BitVec 7) (s : State) :
    Host.Outcome State Fault Refusal :=
  s.red 4 .or p d c v

/-- RED_XOR (07 R172): combine (xor) at the home point, nothing returned. -/
def execRedXor (p : BitVec 4) (d c : BitVec 6) (v : BitVec 7) (s : State) :
    Host.Outcome State Fault Refusal :=
  s.red 5 .xor p d c v

/-- RED_ADD_F32 (07 R172): combine (addF32) at the home point, nothing returned. -/
def execRedAddF32 (p : BitVec 4) (d c : BitVec 6) (v : BitVec 7) (s : State) :
    Host.Outcome State Fault Refusal :=
  s.red 6 .addF32 p d c v

/-- RED_ADD_F16X2 (07 R172): combine (addF16x2) at the home point, nothing returned. -/
def execRedAddF16x2 (p : BitVec 4) (d c : BitVec 6) (v : BitVec 7) (s : State) :
    Host.Outcome State Fault Refusal :=
  s.red 7 .addF16x2 p d c v

/-- ATOMS_ADD (07 R172): combine (add) at the scratchpad bank. -/
def execAtomsAdd (p : BitVec 4) (d c : BitVec 6) (v : BitVec 7) (s : State) :
    Host.Outcome State Fault Refusal :=
  s.atoms 0 1 .add p d c v

/-- ATOMS_MIN_I32 (07 R172): combine (minS) at the scratchpad bank. -/
def execAtomsMinI32 (p : BitVec 4) (d c : BitVec 6) (v : BitVec 7) (s : State) :
    Host.Outcome State Fault Refusal :=
  s.atoms 1 1 .minS p d c v

/-- ATOMS_MAX_I32 (07 R172): combine (maxS) at the scratchpad bank. -/
def execAtomsMaxI32 (p : BitVec 4) (d c : BitVec 6) (v : BitVec 7) (s : State) :
    Host.Outcome State Fault Refusal :=
  s.atoms 2 1 .maxS p d c v

/-- ATOMS_EXCH (07 R172): combine (exch) at the scratchpad bank. -/
def execAtomsExch (p : BitVec 4) (d c : BitVec 6) (v : BitVec 7) (s : State) :
    Host.Outcome State Fault Refusal :=
  s.atoms 3 1 .exch p d c v

/-- ATOMS_CAS (07 R172): combine (cas) at the scratchpad bank. -/
def execAtomsCas (p : BitVec 4) (d c : BitVec 6) (v : BitVec 7) (s : State) :
    Host.Outcome State Fault Refusal :=
  s.atoms 4 2 .cas p d c v

/-- ATOMS_ADD_F32 (07 R172): combine (addF32) at the scratchpad bank. -/
def execAtomsAddF32 (p : BitVec 4) (d c : BitVec 6) (v : BitVec 7) (s : State) :
    Host.Outcome State Fault Refusal :=
  s.atoms 5 1 .addF32 p d c v

/-- ATOMS_OR (07 R172): combine (or) at the scratchpad bank. -/
def execAtomsOr (p : BitVec 4) (d c : BitVec 6) (v : BitVec 7) (s : State) :
    Host.Outcome State Fault Refusal :=
  s.atoms 6 1 .or p d c v

/-- ATOMS_AND (07 R172): combine (and) at the scratchpad bank. -/
def execAtomsAnd (p : BitVec 4) (d c : BitVec 6) (v : BitVec 7) (s : State) :
    Host.Outcome State Fault Refusal :=
  s.atoms 7 1 .and p d c v

/-- PREF (07 R170): ask for the line in L1 and the home LLC. -/
def execPref (p : BitVec 4) (c : BitVec 6) (v : BitVec 7) (s : State) :
    Host.Outcome State Fault Refusal :=
  s.pref 0 false p c v

/-- PREF_LLC (07 R170): ask for the line in the home LLC. -/
def execPrefLlc (p : BitVec 4) (c : BitVec 6) (v : BitVec 7) (s : State) :
    Host.Outcome State Fault Refusal :=
  s.pref 1 true p c v

/-- CWB (07 R170): write a dirty line back to DRAM. -/
def execCwb (p : BitVec 4) (c : BitVec 6) (v : BitVec 7) (s : State) :
    Host.Outcome State Fault Refusal :=
  s.maint 2 p c v

/-- CINV (07 R170): drop the L1 copy of the line. -/
def execCinv (p : BitVec 4) (c : BitVec 6) (v : BitVec 7) (s : State) :
    Host.Outcome State Fault Refusal :=
  s.maint 3 p c v

/-- CWBI (07 R170): write back, and drop the L1 and home LLC copies. -/
def execCwbi (p : BitVec 4) (c : BitVec 6) (v : BitVec 7) (s : State) :
    Host.Outcome State Fault Refusal :=
  s.maint 4 p c v

/-- LDNT_B32 (07 R166): LD.B32 under policy 2. -/
def execLdntB32 (p : BitVec 4) (d c : BitVec 6) (v : BitVec 7) (s : State) :
    Host.Outcome State Fault Refusal :=
  s.load 0x29 5 4 false false (some 2) p d c v

/-- STNT_B32 (07 R166): ST.B32 under policy 2. -/
def execStntB32 (p : BitVec 4) (d c : BitVec 6) (v : BitVec 7) (s : State) :
    Host.Outcome State Fault Refusal :=
  s.store 0x29 6 4 1 (some 2) p d c v

end Sys2Proof.Machine
end

