-- ==== Sys2Proof/Machine/Engines.lean ====
section
/-! DEFINITION. Engine commands: units, ends, issue, owner bits (chapter 08). -/

namespace Sys2Proof.Machine

/-! ## Copies, drains and reductions (R200, R206, R209) -/

/-- Coordinates of a box element from origins. -/
def fromOrigin (o : List Int) (i : List Nat) : List Int := (o.zip i).map (fun e => e.1 + ((e.2 : Nat) : Int))

/-- The element of an accumulator in the destination's format (R206). -/
def drainValue (t : Nat) (x : Word) : Nat :=
  (roundTo (if t = 6 then .f32 else if t = 7 then .f16 else .bf16) .rn (readF .f32 x.toNat)).1

def State.array (s : State) (die n : Nat) : ArrayUnit := (s.die die).arrays.getD {} n
def State.modArray (s : State) (die n : Nat) (f : ArrayUnit → ArrayUnit) : State :=
  s.modDie die (fun d => { d with arrays := d.arrays.put n (f (d.arrays.getD {} n)) })

/-- The larger of two F32 values: the canonical NaN where either is a NaN (03 R80). -/
def redeMax (x y : Nat) : Nat :=
  if (readF .f32 x).isNan || (readF .f32 y).isNan then Fmt.canonNan .f32 else (fminmax .f32 false true x y).1

/-- The tree result over the sources of a destination element; a NaN, that of a single source included, is canonical
(03 R66, R80; R209). -/
def redeValue (t : Nat) (max : Bool) (l : List Nat) : Nat :=
  let add := fun (x y : Nat) => if max then redeMax x y else (fadd .f32 {} x y).1
  if t = 6 then
    let x := treeSum add 0 5 l
    if (readF .f32 x).isNan then Fmt.canonNan .f32 else x
  else
    let f : Fmt := if t = 7 then .f16 else .bf16
    (cvtFF .f32 f .rn false (treeSum add 0 5 (l.map (fun x => (cvtFF f .f32 .rn false x).1)))).1

/-- Read an element of every source of REDE. -/
def State.redeGets (s : State) (c : Cmd) (b : Block) (r : Region) (e : List Int) :
    List CmdView → Got (List Nat) × State
  | [] => (.ok [] false, s)
  | v :: rest =>
    match s.engGet c b r (c.viewRec v.view) 0 v.srcn e with
    | (.bad d, s) => (.bad d, s)
    | (.wait q x, s) => (.wait q x, s)
    | (.ok x cl, s) =>
      match s.redeGets c b r e rest with
      | (.ok l cl', s) => (.ok (x :: l) (cl || cl'), s)
      | y => y

/-- The value of a box element. -/
def State.boxValue (s : State) (c : Cmd) (b : Block) (r : Region) (i : List Nat) : Got Nat × State :=
  match c.op with
  | .cpyg =>
    match s.engGet c b r (c.viewRec (c.par 16 7)) 2 0 [c.parS 416 + ((i.getD 1 0 : Nat) : Int)] with
    | (.bad d, s) => (.bad d, s)
    | (.wait q x, s) => (.wait q x, s)
    | (.ok x cl, s) =>
      match s.engGet c b r (c.viewRec (c.par 0 7)) 0 0
          [c.srcO.getD 0 0 + ((i.getD 0 0 : Nat) : Int), c.srcO.getD 1 0 + sextNat x 32] with
      | (.ok v cl', s) => (.ok v (cl || cl'), s)
      | y => y
  | .mmdrain =>
    let a := s.array (dieOf c.core) (c.par 0 2)
    let k := (c.par 32 11 + i.getD 1 0) * 512 + c.par 96 9 + i.getD 0 0
    let x := a.acc.getD 0 k
    if a.accBad.contains k then (.bad { detail := Detail.UNCORRECTABLE }, s)
    else (.ok (drainValue (recType (c.dst?.getD 0)) x) false, s)
  | .rede =>
    match s.redeGets c b r (i.map (fun n => ((n : Nat) : Int))) (c.views.drop 2) with
    | (.ok l cl, s) => (.ok (redeValue (recType (c.dst?.getD 0)) (c.par 148 1 == 1) l) cl, s)
    | (.bad d, s) => (.bad d, s)
    | (.wait q x, s) => (.wait q x, s)
  | _ => s.engGet c b r (c.viewRec (c.par 0 7)) 0 0 (fromOrigin c.srcO i)

/-- Origin of the destination. -/
def Cmd.destO (c : Cmd) : List Int :=
  match c.op with
  | .mmdrain => [c.parS 160, c.parS 192, 0, 0]
  | .rede => [0, 0, 0, 0]
  | _ => c.dstO

/-- The format in which elements are added, where the command adds. -/
def Cmd.adds (c : Cmd) : Option Fmt :=
  match c.op with
  | .cpyaF32 => some .f32
  | .cpyaF16 => some .f16
  | .mmdrain => if c.par 2 1 = 1 then some (if recType (c.dst?.getD 0) = 6 then .f32 else .f16) else none
  | _ => none

/-- A unit of a copy, drain or reduction: what it needs is found first, so that a unit that fails does nothing (R193); where it
adds, each element's value is read after the adds of the elements before it (R200). -/
def State.boxUnit (s : State) (cmd : Nat) (c : Cmd) (b : Block) (r : Region) : Got Unit × State :=
  let dst := c.dst?.getD 0
  if (List.range (recRank dst)).any (fun k => recExt dst k == 0) then (.bad { detail := Detail.BOUNDS, opnd := 1 }, s)
  else
    let one := fun (s : State) i => engPair c b r dst c.adds.isSome (fromOrigin c.destO i) (s.boxValue c b r i)
    match s.engPlan one (c.chunk c.prog) with
    | (.bad d, s) => (.bad d, s)
    | (.wait q x, s) => (.wait q x, s)
    | (.ok l cl, s) =>
      let s := s.addEnergy c.dest.block 12 1
      (.ok () cl, match c.adds with
        | some f =>
          let s := (c.chunk c.prog).foldl (fun (s : State) i => match one s i with
            | (.ok e _, s) => s.engAdd cmd f b e
            | (_, s) => s) s
          s.sendFar cmd c.prog (homesOf l)
        | none => s.engWrite cmd c.prog (recEs dst) b l)

/-! ## The arrays (R201 to R207; 03 R74 to R78) -/

/-- Offset in the column store of a slot of a column. -/
def slotAt (a j t : Nat) : Nat := a * Config.arrayColumnBytes + j * 196608 + t * 1536

/-- K and the bytes of a weight element, by weight format (R202). -/
def weightK (w : Nat) : Nat := if w = 5 then 1024 else 512
def weightBytes (w : Nat) : Nat := if w = 3 ∨ w = 4 then 2 else 1

/-- A unit of CSLD: one column of a slot (R203). Bytes of the column that R203 names neither as written from a source nor as zero stand as
they were: 8 to 15 where K has four scales, 576 to 1,087 of the formats of one byte and of N4X (DESIGN CHOICE, notes/assumptions/93). -/
def State.csldUnit (s : State) (c : Cmd) (b : Block) (r : Region) : Got Unit × State :=
  let w := c.par 16 3
  let n := if w = 5 then 512 else weightK w
  let at' := fun (o0 o1 : Int) (k : Nat) => [o0 + ((k : Nat) : Int), o1 + ((c.prog : Nat) : Int)]
  match s.engGets c b r (c.viewRec (c.par 32 7)) 0 0 ((List.range n).map (at' (c.parS 64) (c.parS 96))) with
  | (.bad d, s) => (.bad d, s)
  | (.wait q x, s) => (.wait q x, s)
  | (.ok ws cl, s) =>
    match s.engGets c b r (c.viewRec (c.par 40 7)) 2 0 ((List.range (weightK w / 128)).map (at' (c.parS 128) (c.parS 160))) with
    | (.bad d, s) => (.bad d, s)
    | (.wait q x, s) => (.wait q x, s)
    | (.ok ss cl', s) =>
      let o := slotAt (c.par 0 2) c.prog (c.par 8 7)
      let put := fun (d : Die) (k : Nat) (l : List Byte) => d.colWrite (o + k) l
      let s := s.addEnergy c.dest.block 12 1
      (.ok () (cl || cl'), s.modDie (dieOf c.core) (fun d =>
        put (put (put (put d 0 (ss.flatMap (leBytes 2))) 16 (List.replicate 48 0)) 64 (ws.flatMap (leBytes (weightBytes w)))) 1088
          (List.replicate 448 0)))

/-- Decode a block of N4X from its 32 slots: values, none where a marker or payload is malformed (03 R75). -/
def n4xDecode : Nat → Nat → List Nat → Option (List FVal)
  | 0, _, _ => some []
  | _, _, [] => some []
  | fuel + 1, i, x :: l =>
    if x = 8 then
      match l with
      | lo :: hi :: rest =>
        let f := hi * 16 + lo
        if 30 ≤ i ∨ f = 0x7F ∨ f = 0xFF then none
        else (n4xDecode fuel (i + 3) rest).map (fun r =>
          readF .f8e4 f :: .fin false 0 0 :: .fin false 0 0 :: r)
      | _ => none
    else (n4xDecode fuel (i + 1) l).map (fun r => .fin (decide (8 < x)) (x % 8) 0 :: r)

def n4xBlock (bytes : List Byte) : Option (List FVal) :=
  n4xDecode 33 0 (bytes.flatMap (fun b => [b.toNat % 16, b.toNat / 16]))

/-- Decode the N4X blocks of a column. -/
def n4xColumn (slot : Table Byte) (base : Nat) : Option (List FVal) :=
  (List.range 32).foldl (fun (acc : Option (List FVal)) k =>
    match acc, n4xBlock (Memory.read slot (base + 16 * k) 16) with
    | some l, some x => some (l ++ x)
    | _, _ => none) (some [])

/-- An I8 value. -/
def intVal (x : Nat) : FVal := let v := sextNat x 8; .fin (decide (v < 0)) v.natAbs 0

/-- The weights of a latched column, by weight format. -/
def weightsOf (w : Nat) (slot : Table Byte) (j : Nat) : Option (List FVal) :=
  let base := j * 1536 + 64
  if w = 5 then n4xColumn slot base
  else some ((List.range 512).map (fun k =>
    let x := leNat (Memory.read slot (base + weightBytes w * k) (weightBytes w))
    match w with
    | 0 => intVal x
    | 1 => readF .f8e4 x
    | 2 => readF .f8e5 x
    | 3 => readF .f16 x
    | _ => readF .bf16 x))

/-- Weight scale of a K block. -/
def scaleOf (slot : Table Byte) (j q : Nat) : FVal := readF .bf16 (leNat (Memory.read slot (j * 1536 + 2 * q) 2))

def FVal.finite : FVal → Bool
  | .fin _ _ _ => true
  | _ => false

/-- A column passes the checks of MMLD (R204). -/
def columnGood (w : Nat) (slot : Table Byte) (j : Nat) : Bool :=
  (List.range (weightK w / 128)).all (fun q => (scaleOf slot j q).finite) && (weightsOf w slot j).isSome

/-- The bytes of a slot as a bank latches them. -/
def latchSlot (col : Table Byte) (a t : Nat) : Table Byte :=
  (col.filter (fun e => decide (a * Config.arrayColumnBytes ≤ e.1) && decide (e.1 < (a + 1) * Config.arrayColumnBytes)
    && e.1 % Config.arrayColumnBytes % 196608 / 1536 == t)).map (fun e =>
      (e.1 % Config.arrayColumnBytes / 196608 * 1536 + e.1 % 1536, e.2))

/-- An activation in its declared format. -/
def actVal (t x : Nat) : FVal :=
  match t with
  | 0 => intVal x
  | 7 => readF .f16 x
  | 8 => readF .bf16 x
  | 9 => readF .f8e4 x
  | _ => readF .f8e5 x

/-- Split a list into chunks of 32. -/
def chunks32 {α : Type} : Nat → List α → List (List α)
  | 0, _ => []
  | n + 1, l => l.take 32 :: chunks32 n (l.drop 32)

/-- One accumulator element of a row (03 R78). -/
def accumulate (w : Nat) (slot : Table Byte) (j : Nat) (acts : List FVal) (xs : FVal) (acc : Nat) : Nat :=
  let ws := (weightsOf w slot j).getD []
  let n := weightK w / 32
  (mapFrom 0 (fun q e => (q, e)) ((chunks32 n ws).zip (chunks32 n acts))).foldl (fun (acc : Nat) e =>
    accChunk acc (chunkSum (e.2.1.zip e.2.2)) (scaleOf slot j (32 * e.1 / 128)) xs) acc

/-- A unit of MMRUN: one row (R205). A bank whose parity fails is invalid from then on, and an accumulator beyond its code ends the
command (12 R274). -/
def State.mmrunUnit (s : State) (c : Cmd) (b : Block) (r : Region) : Got Unit × State :=
  let die := dieOf c.core
  let a := s.array die (c.par 0 2)
  let bank := a.banks.getD {} (c.par 2 1)
  let xv := c.viewRec (c.par 8 7)
  if bank.valid && bank.bad then
    (.bad { detail := Detail.UNCORRECTABLE }, s.modArray die (c.par 0 2) (fun u => { u with banks := u.banks.put (c.par 2 1) {} }))
  else if !bank.valid then (.bad { detail := Detail.EMPTY }, s)
  else if c.par 3 1 = 1 ∧ a.accBad.any (fun k => k / 512 == c.par 32 11 + c.prog) then (.bad { detail := Detail.UNCORRECTABLE }, s)
  else
    let row := ((c.prog : Nat) : Int)
    match s.engGets c b r xv 0 0 ((List.range (weightK bank.fmt)).map (fun k => [c.parS 96 + ((k : Nat) : Int), c.parS 128 + row])) with
    | (.bad d, s) => (.bad d, s)
    | (.wait q x, s) => (.wait q x, s)
    | (.ok acts cl, s) =>
      let scale := if c.xs then s.engGet c b r (c.viewRec (c.par 16 7)) 2 0 [c.parS 160 + row] else (.ok (oneBits .f16) false, s)
      match scale with
      | (.bad d, s) => (.bad d, s)
      | (.wait q x, s) => (.wait q x, s)
      | (.ok x cl', s) =>
        let xs := acts.map (actVal (recType xv))
        let key := fun (j : Nat) => (c.par 32 11 + c.prog) * 512 + j
        let new := (List.range 512).map (fun j =>
          (j, accumulate bank.fmt bank.slot j xs (readF .f16 x) (if c.par 3 1 = 1 then (a.acc.getD 0 (key j)).toNat else 0)))
        let wide := recEs xv == 2 || weightBytes bank.fmt == 2
        let s := s.addEnergy c.dest.block 13 (if wide then 16 else 4)
        (.ok () (cl || cl'), s.modArray die (c.par 0 2) (fun u =>
          { u with
            acc := new.foldl (fun (t : Table Word) e => t.putD 0 (key e.1) (BitVec.ofNat 32 e.2)) u.acc
            accBad := u.accBad.filter (fun k => k / 512 != c.par 32 11 + c.prog) }))

/-! ## Tiles, tokens and the end of a command (R189 to R191, R198, R210, R211) -/

/-- Coordinates of a box. -/
def boxCoords : List Nat → List (List Nat)
  | [] => [[]]
  | n :: rest => (boxCoords rest).flatMap (fun l => (List.range n).map (fun i => i :: l))

/-- Tiles of the window that hold an element of a box of a scratchpad view. -/
def boxTiles (b : Block) (v : Record) (dest : Bool) (o : List Int) (n : List Nat) : List Nat :=
  if recSpace v ≠ 1 ∨ !recordOk v then []
  else ((boxCoords (n.take (recRank v))).filterMap (fun i =>
    match engAddr v (fromOrigin o i) dest with
    | .ok (some a, _) =>
      if 0 ≤ a ∧ a + ((recEs v : Nat) : Int) ≤ ((b.winBytes : Nat) : Int) then some (a.toNat / Config.tileBytes) else none
    | _ => none)).eraseDups

/-- Commands of one engine, in queue order. -/
def State.queueOf (s : State) (e : Engine) : List (Nat × Cmd) := s.cmds.filter (fun x => x.2.engine == e)

/-- Tiles of a command's destination, and of its sources, relative to the window. -/
def Cmd.destTiles (c : Cmd) (b : Block) : List Nat :=
  match c.dst? with
  | some v => boxTiles b v true c.destO c.box
  | none => []

/-- The weight format that a bank has when a command runs: that of the last MMLD into it ahead in the queue, or as it stands. -/
def State.bankFmt (s : State) (c : Cmd) : Nat :=
  let ahead := (s.queueOf c.engine).filter (fun e => decide (e.1 < c.id) && e.2.op == .mmld && e.2.par 2 1 == c.par 2 1)
  match ahead.getLast? with
  | some e => e.2.par 16 3
  | none => ((s.array (dieOf c.core) (c.par 0 2)).banks.getD {} (c.par 2 1)).fmt

def State.srcTiles (s : State) (c : Cmd) (b : Block) : List Nat :=
  let rec1 := c.viewRec (c.par 0 7)
  match c.op with
  | .cpyg => boxTiles b (c.viewRec (c.par 16 7)) false [c.parS 416] [c.box.getD 1 0]
  | .mmrun => boxTiles b (c.viewRec (c.par 8 7)) false [c.parS 96, c.parS 128] [weightK (s.bankFmt c), c.par 64 12] ++
      (if c.xs then boxTiles b (c.viewRec (c.par 16 7)) false [c.parS 160] [c.par 64 12] else [])
  | .cpy => boxTiles b rec1 false c.srcO c.boxN
  | .cpyaF32 => boxTiles b rec1 false c.srcO c.boxN
  | .cpyaF16 => boxTiles b rec1 false c.srcO c.boxN
  | _ => []

/-- A unit receives the word of its token, where it still awaits it (R190; 02 R58). -/
def Warp.takeToken (reg tok : Nat) (x : Word) (t : Nat) (w : Warp) : Warp :=
  if w.pend.get? reg = some tok then
    let w := { w with pend := w.pend.erase reg, acq := w.acq.put reg { time := t } }
    w.sPut reg x
  else w

/-- DELIVER a token word to the register; a trailing warp takes it from the load-value queue when it reads it (R190; 12
R289). -/
def State.deliver (s : State) (d : TokenDest) (tok : Nat) (x : Word) (t : Nat) : State :=
  let s := s.modBlock d.block (fun b => { b with finals := b.finals.put tok (x, t) })
  s.modUnit d.block (UnitRef.ofNum d.unit) (Warp.takeToken d.reg tok x t)

/-- The first unit not known complete (21 R380). -/
def Cmd.awaits (c : Cmd) : Nat := match c.far with
  | (k, _) :: _ => min (k / 64) c.prog
  | [] => c.prog

/-- Progress (R189): of a command that adds, a unit that has been performed counts, whether its completion has come or not, so that none
is performed twice (R193; 11 R265). -/
def Cmd.progress (c : Cmd) : Nat := if c.adds.isSome then c.prog else c.awaits

/-- END a command (R191, R198): STAT on a fault or an abort, the destination's tiles, the token; the next one may
start. -/
def State.endCmd (s : State) (cmd : Nat) : State :=
  match s.cmds.get? cmd with
  | none => s
  | some c =>
    let s := match s.block? c.dest.block with
      | none => s
      | some b =>
        let s := if c.status % 2 = 1 ∧ c.poff + 64 ≤ b.winBytes then
            s.modCore b.core (fun k => k.spWrite (b.winBase + c.poff + 60)
              (leBytes 4 (c.detail + c.opnd * 2 ^ 8 + c.srcn * 2 ^ 10)))
          else s
        (c.destTiles b).foldl (fun (s : State) t => s.modCore b.core (fun k => k.setTile (b.tile0 + t) false)) s
    let word : Word := BitVec.ofNat 32 (2 ^ 31 + c.status * 2 ^ 28 + c.progress % 2 ^ 28)
    let s := { s with cmds := s.cmds.erase cmd }
    let s := s.deliver c.dest cmd word (max (c.kept (dieOf c.core)) (s.die (dieOf c.core)).floor)
    let s := s.askCompletion c.dest.block
    match s.queueOf c.engine with
    | (k, _) :: _ => s.pushOnce (.engineUnit k)
    | [] => s

/-- A command is to end with a status. -/
def State.finishCmd (s : State) (cmd status : Nat) (d : Defect) : State :=
  (s.modCmd cmd (fun c =>
    { c with state := .ending, status := status, detail := d.detail, opnd := d.opnd, srcn := d.srcn })).push (.engineCommandEnd cmd)

/-- The flag of REDE, once its writes are acknowledged: it comes after all of them, on whatever die they are homed (R209; 11 R264). -/
def State.redeFlag (s : State) (cmd : Nat) (c : Cmd) (b : Block) (r : Region) : State :=
  let v := c.viewRec (c.par 136 7)
  match s.engPlace c b r v 3 false [0, 0, 0, 0] with
  | (.bad d, s) => s.finishCmd cmd 1 d
  | (.wait q d, s) =>
    if q = 0 then s.pushOnce (.engineUnit cmd)
    else s.modCmd cmd (fun c => { c with state := .waitPage q, detail := d.detail, opnd := d.opnd })
  | (.ok l _, s) =>
    let s := s.engWrite cmd c.prog 4 b [(l, c.par 160 32)] c.keptAll
    (s.modCmd cmd (fun c => { c with flagged := true })).finishCmd cmd (if c.clipped then 2 else 0) { detail := 0 }

/-- Perform the next unit of a command. -/
def State.nextUnit (s : State) (cmd : Nat) (c : Cmd) (b : Block) (r : Region) : State :=
  let s := s.modCmd cmd (fun c => { c with fetched := [] })
  let res := match c.op with
    | .csld => s.csldUnit c b r
    | .mmrun => s.mmrunUnit c b r
    | _ => s.boxUnit cmd c b r
  match res with
  | (.bad d, s) =>
    (if d.detail = Detail.EMPTY then s.modCmd cmd (fun c => { c with prog := 0 }) else s).finishCmd cmd 1 d
  | (.wait q d, s) =>
    if q = 0 then s.pushOnce (.engineUnit cmd)
    else s.modCmd cmd (fun c => { c with state := .waitPage q, detail := d.detail, opnd := d.opnd, srcn := d.srcn })
  | (.ok _ cl, s) => (s.modCmd cmd (fun c => { c with prog := c.prog + 1, clipped := c.clipped || cl })).pushOnce (.engineUnit cmd)

/-- The window of units in flight (R193), at least one. -/
def Cmd.window (c : Cmd) : Nat := if c.adds.isSome ∨ c.op = .rede ∨ c.op = .mmrun then 1 else 64

/-- What capturing a record finds: it, the defect that the token reports, or that its page has an outstanding request. -/
inductive Captured where
  | ok (x : Record)
  | bad (d : Defect)
  | wait (req : Nat)
  deriving DecidableEq, Repr

/-- Fetch the record of a view: a PAGE or PROT posts a page request, or awaits the one that is outstanding (R188, R195). -/
def State.captureView (s : State) (c : Cmd) (r : Region) (v : CmdView) : Captured × State :=
  let bad := fun (d : Nat) => Captured.bad { detail := d, opnd := v.opnd, srcn := v.srcn }
  match s.record c.core c.regid r v.view with
  | (.ok x, s) => (.ok x, s)
  | (.poison, s) => (bad Detail.UNCORRECTABLE, s)
  | (.fault cause acc va, s) => match s.pageReq? (dieOf c.core) r.part (va / 2 ^ 16) with
    | some q => (.wait q, s)
    | none => (bad (if cause = Cause.PAGE then Detail.PAGE else Detail.PROT),
        s.postPage (dieOf c.core) r.part va (if acc = 6 then 6 else 4) c.regid 0)

/-- Capture every view in turn; the first defect is what the token will report. One whose page is awaited is captured
later, with PROT as its defect should the request be declined (R195); those after it are captured now (20 R377). -/
def State.captureViews (s : State) (c : Cmd) (r : Region) : List CmdView → Cmd × State
  | [] => (c, s)
  | v :: rest =>
    match s.captureView c r v with
    | (.ok x, s) => s.captureViews { c with records := c.records.put v.view x } r rest
    | (.wait q, s) =>
      let (c, s) := s.captureViews c r rest
      ({ c with uncaptured := some q, status := 0, detail := Detail.PROT, opnd := v.opnd, srcn := v.srcn }, s)
    | (.bad d, s) =>
      let (c, s) := s.captureViews c r rest
      ({ c with uncaptured := none, status := 1, detail := d.detail, opnd := d.opnd, srcn := d.srcn }, s)

/-- Resolve those of a command's views that it has not yet (R187, R188). One that ends with PARAM for a reserved field has its records looked up for the
tiles of its destination alone (R198). -/
def State.resolveViews (s : State) (c : Cmd) (r : Region) : Cmd × State :=
  if c.reserved.any (fun f => c.par f.1 f.2 != 0) then
    c.views.foldl (fun (a : Cmd × State) v => match a.2.record c.core c.regid r v.view with
      | (.ok x, s) => ({ a.1 with records := a.1.records.put v.view x }, s)
      | (_, s) => (a.1, s)) (c, s)
  else s.captureViews { c with uncaptured := none, detail := 0, opnd := 0, srcn := 0 } r
    (c.views.filter (fun v => (c.records.get? v.view).isNone))

/-- Begin a command at the head of its queue: what it was captured with, its checks, its resume offset (R191, R194). -/
def State.beginCmd (s : State) (cmd : Nat) (c : Cmd) (r : Region) : State :=
  let defect := if c.status = 1 then some { detail := c.detail, opnd := c.opnd, srcn := c.srcn } else c.check r
  match defect with
  | some d => (s.modCmd cmd (fun c => { c with prog := 0 })).finishCmd cmd 1 d
  | none =>
    let c := { c with state := .running, total := c.units, prog := min c.resume c.units }
    let s := { s with cmds := s.cmds.put cmd c }
    if c.op = .mmld then
      (s.modArray (dieOf c.core) (c.par 0 2) (fun u => { u with banks := u.banks.put (c.par 2 1) {} })).push (.mmldBankValid cmd)
    else s.pushOnce (.engineUnit cmd)

/-- A command begins; one whose capture awaits a page request waits for the answer first (R195). -/
def State.startCmd (s : State) (cmd : Nat) (c : Cmd) (r : Region) : State :=
  match c.uncaptured with
  | none => s.beginCmd cmd c r
  | some q =>
    if (s.pageReqs.get? q).isSome then s.modCmd cmd (fun c => { c with state := .waitPage q })
    else
      let (c, s) := s.resolveViews c r
      let s := { s with cmds := s.cmds.put cmd c }
      if c.uncaptured.isSome then s.pushOnce (.engineUnit cmd) else s.beginCmd cmd c r

/-- The arrays of a region's grant that are enabled on a die (00 R4; 15 R358). -/
def State.enabledOn (s : State) (die : Nat) (r : Region) : Region :=
  { r with arrMask := r.arrMask &&& s.boot.arr.extractLsb' (4 * die) 4 }

/-- ENGINE_UNIT (08 R193): the command at the head of an engine's queue begins, or performs its next unit. -/
def execEngineUnit (cmd : Nat) (s : State) :
    Host.Outcome State Fault Refusal :=
  match s.cmds.get? cmd with
  | none => .next s
  | some c =>
    if (s.queueOf c.engine).head?.map Prod.fst ≠ some cmd then .next s
    else match s.block? c.dest.block, s.region? c.regid with
      | some b, some r =>
        let r := s.enabledOn (dieOf c.core) r
        match c.state with
        | .queued => .next (s.startCmd cmd c r)
        | .running =>
          if c.op = .mmld then .next s
          else if c.total ≤ c.prog then
            if c.op = .rede ∧ !c.flagged then
              .next (if (s.setC cmd).isEmpty then s.redeFlag cmd c b r else s.pushOnce (.engineUnit cmd))
            else .next (s.finishCmd cmd (if c.clipped then 2 else 0) { detail := 0 })
          else if !c.far.isEmpty ∧ c.awaits + c.window ≤ c.prog then .next s
          else .next (s.nextUnit cmd c b r)
        | _ => .next s
      | _, _ => .next s

/-- MMLD_BANK_VALID (08 R204): every column is checked; the bank becomes valid, or the load ends at the lowest failing column. -/
def execMmldBankValid (cmd : Nat) (s : State) :
    Host.Outcome State Fault Refusal :=
  match s.cmds.get? cmd with
  | none => .next s
  | some c =>
    if c.op ≠ .mmld ∨ c.state ≠ .running then .next s
    else
      let w := c.par 16 3
      let slot := latchSlot (s.die (dieOf c.core)).colStore (c.par 0 2) (c.par 8 7)
      let flawed := fun (j : Nat) => (s.die (dieOf c.core)).colFlawed (slotAt (c.par 0 2) j (c.par 8 7)) 1536
      match (List.range 512).find? (fun j => flawed j || !columnGood w slot j) with
      | some j => .next ((s.modCmd cmd (fun c => { c with prog := j })).finishCmd cmd 1
          { detail := if flawed j then Detail.UNCORRECTABLE else Detail.WFORMAT })
      | none =>
        let bank : LatchBank := { valid := true, fmt := w, slot := slot }
        let s := s.modArray (dieOf c.core) (c.par 0 2) (fun u => { u with banks := u.banks.put (c.par 2 1) bank })
        .next ((s.modCmd cmd (fun c => { c with prog := 512 })).finishCmd cmd 0 { detail := 0 })

/-- ENGINE_COMMAND_END (08 R191): a command whose writes are acknowledged ends. -/
def execEngineCommandEnd (cmd : Nat) (s : State) :
    Host.Outcome State Fault Refusal :=
  match s.cmds.get? cmd with
  | none => .next s
  | some c =>
    if c.state ≠ .ending then .next s
    else if !(s.acksOf cmd).isEmpty ∨ !c.far.isEmpty then .next (s.push (.engineCommandEnd cmd))
    else .next (s.endCmd cmd)

/-- The answer to the request that a command's capture, or its unit, awaits. One whose capture it ends is queued on, and ends with PROT
and PROG 0 when its turn comes where the request is declined (R188, R195). -/
def State.answerCmd (s : State) (req : Nat) (granted : Bool) (cmd : Nat) (c : Cmd) : State :=
  if c.uncaptured = some req then
    (s.modCmd cmd (fun c =>
      if granted then { c with state := .queued } else { c with state := .queued, uncaptured := none, status := 1 })).pushOnce (.engineUnit cmd)
  else if c.state ≠ .waitPage req then s
  else if granted then (s.modCmd cmd (fun c => { c with state := .running, detail := 0, opnd := 0, srcn := 0 })).pushOnce (.engineUnit cmd)
  else s.finishCmd cmd 1 { detail := c.detail, opnd := c.opnd, srcn := c.srcn }

/-- ENGINE_PAGE_ANSWER (08 R195): the request is over: commands that wait for the page go on, or end with PROT. -/
def execEnginePageAnswer (req : Nat) (granted : Bool) (s : State) :
    Host.Outcome State Fault Refusal :=
  match s.pageReqs.get? req with
  | none => .next s
  | some _ =>
    let s := { s with
      pageReqs := s.pageReqs.erase req
      waiting := s.waiting.filter (fun (e : Nat × Waiting) => e.2.request != some req) }
    .next (s.cmds.foldl (fun (s : State) e => s.answerCmd req granted e.1 e.2) s)

/-- FABRIC_COMPLETION_RECEIVE (21 R380): a far home has performed a packet of a unit; a link that retrains holds the
completion back. -/
def execFabricCompletionReceive (cmd unit dev : Nat) (s : State) :
    Host.Outcome State Fault Refusal :=
  let k := unit * 64 + dev
  match s.cmds.get? cmd with
  | none => .next s
  | some c => match c.far.get? k with
    | none => .next s
    | some n =>
      if s.cutOff (dieOf c.core) dev 0 then .next (s.push (.fabricCompletionReceive cmd unit dev))
      else
        let far := if n ≤ 1 then c.far.erase k else c.far.put k (n - 1)
        .next ((s.modCmd cmd (fun c => { c with far := far })).pushOnce (.engineUnit cmd))

/-! ## Issue (R185 to R188, R195; 20 R377) -/

/-- The queue that a command goes to. -/
def engineOf (op : CmdOp) (core arr : Nat) : Engine :=
  match op with
  | .mmld => .array (dieOf core) arr
  | .mmrun => .array (dieOf core) arr
  | .mmdrain => .array (dieOf core) arr
  | .rede => .reduce (dieOf core)
  | _ => .copy (dieOf core) (clusterOf core)

def Engine.cap : Engine → Nat
  | .copy _ _ => 16
  | _ => 8

/-- Byte of the scratchpad where the parameter block at an offset stands. -/
def Iss.paramAt (i : Iss) (sa : BitVec 5) : Nat := i.b.winBase + (i.s sa).toNat

/-- The offset of the parameter block is usable (R188). -/
def Iss.paramBad (i : Iss) (sa : BitVec 5) : Option Nat :=
  let o := (i.s sa).toNat
  if o % 64 ≠ 0 then some Cause.ALIGN else if i.b.winBytes < o + 64 then some Cause.PROT else none

/-- The read of the parameter block meets an engine's tile (07 R169). -/
def State.paramOwned (s : State) (i : Iss) (sa : BitVec 5) : Bool :=
  (i.paramBad sa).isNone && (s.core i.core).engTile (i.paramAt sa / Config.tileBytes)

/-- A word of the parameter block has an error beyond its code (12 R274). -/
def State.paramFlawed (s : State) (i : Iss) (sa : BitVec 5) : Bool :=
  (i.paramBad sa).isNone && (s.core i.core).spFlawed (i.paramAt sa) 64

def State.paramBlock (s : State) (i : Iss) (sa : BitVec 5) : BitVec 512 :=
  BitVec.ofNat 512 (leNat ((s.core i.core).spRead (i.paramAt sa) 64))

/-- The engine's queue is full. -/
def State.queueFull (s : State) (i : Iss) (op : CmdOp) (sa : BitVec 5) : Bool :=
  let e := engineOf op i.core (field (s.paramBlock i sa) 0 2)
  (i.paramBad sa).isNone && !s.paramFlawed i sa && decide (e.cap ≤ (s.queueOf e).length)

/-- Capture a command (R187): its release has come first. A parameter block that cannot be read is an error that the block consumes (12
R277). -/
def State.capture (s : State) (i : Iss) (op : CmdOp) (t sa : BitVec 5) (resume : Nat) : State :=
  match i.paramBad sa with
  | some cause => s.faultAct i cause
  | none =>
    if s.paramFlawed i sa then s.consume i.blk Cause.UNCORRECTABLE 2
    else
    let params := s.paramBlock i sa
    let (id, s) := s.fresh
    let dest : TokenDest := { block := i.blk, unit := i.u.num, reg := i.w.sKey i.act t.toNat }
    let c : Cmd :=
      { id := id, op := op, engine := engineOf op i.core (field params 0 2), dest := dest, core := i.core, regid := i.b.regid,
        poff := (i.s sa).toNat, params := params, resume := resume, prog := resume }
    let (c, s) := s.resolveViews c i.r
    let s := { s with cmds := s.cmds.put id c }
    let s := (s.putS i t 0).modUnit i.blk i.u (fun w =>
      { w with pend := w.pend.put dest.reg id, acq := w.acq.erase dest.reg })
    ((s.markCommitted i.blk).commitSoon i.blk).pushOnce (.engineUnit id)

/-- What an engine command that waits notes: its release, then the owner bit that holds the read of its parameter block (R187,
R198). Every active lane stalls on that read, which is of the lowest: whether the others take OWNER_TIMEOUT with it the spec does not
say (DESIGN CHOICE, notes/assumptions/94). -/
def State.engineWait (sa : BitVec 5) (a : Attr) (i : Iss) (s : State) : State :=
  if a.first i s || i.tokenStall a s then s.releaseFirst a i
  else if s.paramOwned i sa then
    s.noteOwner i none ((lanesOf i.act).map (fun l => (l, i.s sa, [i.paramAt sa / Config.tileBytes])))
  else s

/-- Attributes of an engine command: operands T, SA and, with RES, SB. The trailing check compares them and the parameter block
(R211). -/
def engineAttr (maj fn : Nat) (p : BitVec 4) (t sa x : BitVec 5) (r : BitVec 1) : Attr :=
  let a : Attr :=
    { maj := maj, fn := fn, p := some p, legal := r == 1 || x == 0, rs := sa.toNat :: (if r = 1 then [x.toNat] else []),
      ws := [t.toNat], front := true, hmod := false, serial := true, ordered := true, mirror := false, token := some t.toNat
      first := Iss.releasing, commits := true
      cmp := some (fun i s => [t.toNat, (i.s sa).toNat, if r = 1 then (i.s x).toNat else 0] ++
        (if (i.paramBad sa).isSome then [] else [(s.paramBlock i sa).toNat])) }
  { a with onStall := State.engineWait sa a }

/-- Issue an engine command. -/
def State.engine (s : State) (maj fn : Nat) (op : CmdOp) (p : BitVec 4) (t sa x : BitVec 5) (r : BitVec 1) :
    Host.Outcome State Fault Refusal :=
  s.issue (engineAttr maj fn p t sa x r) always
    (fun i s => s.paramOwned i sa || s.queueFull i op sa)
    (straight (fun i s => s.capture i op t sa (if r = 1 then (i.s x).toNat else 0)))

/-- CPY (08 R200): copy a box. -/
def execCpy (p : BitVec 4) (t sa x : BitVec 5) (r : BitVec 1) (s : State) :
    Host.Outcome State Fault Refusal :=
  s.engine 0x2C 0 .cpy p t sa x r

/-- CPYA_F32 (08 R200): add a box of F32. -/
def execCpyaF32 (p : BitVec 4) (t sa x : BitVec 5) (r : BitVec 1) (s : State) :
    Host.Outcome State Fault Refusal :=
  s.engine 0x2C 1 .cpyaF32 p t sa x r

/-- CPYA_F16 (08 R200): add a box of F16. -/
def execCpyaF16 (p : BitVec 4) (t sa x : BitVec 5) (r : BitVec 1) (s : State) :
    Host.Outcome State Fault Refusal :=
  s.engine 0x2C 2 .cpyaF16 p t sa x r

/-- CPYG (08 R200): gather rows through an index view. -/
def execCpyg (p : BitVec 4) (t sa x : BitVec 5) (r : BitVec 1) (s : State) :
    Host.Outcome State Fault Refusal :=
  s.engine 0x2C 3 .cpyg p t sa x r

/-- CSLD (08 R203): load a slot of the column store. -/
def execCsld (p : BitVec 4) (t sa x : BitVec 5) (r : BitVec 1) (s : State) :
    Host.Outcome State Fault Refusal :=
  s.engine 0x2E 0 .csld p t sa x r

/-- MMLD (08 R204): latch a slot into a bank. -/
def execMmld (p : BitVec 4) (t sa : BitVec 5) (s : State) :
    Host.Outcome State Fault Refusal :=
  s.engine 0x2E 1 .mmld p t sa 0 0

/-- MMRUN (08 R205): stream rows through a bank. -/
def execMmrun (p : BitVec 4) (t sa x : BitVec 5) (r : BitVec 1) (s : State) :
    Host.Outcome State Fault Refusal :=
  s.engine 0x2E 2 .mmrun p t sa x r

/-- MMDRAIN (08 R206): write accumulator rows. -/
def execMmdrain (p : BitVec 4) (t sa x : BitVec 5) (r : BitVec 1) (s : State) :
    Host.Outcome State Fault Refusal :=
  s.engine 0x2E 3 .mmdrain p t sa x r

/-- REDE (08 R209): reduce sources into a destination, then write a flag. -/
def execRede (p : BitVec 4) (t sa x : BitVec 5) (r : BitVec 1) (s : State) :
    Host.Outcome State Fault Refusal :=
  s.engine 0x2E 5 .rede p t sa x r

/-! ## Owner bits (R196, R197) -/

/-- Attributes of an owner-bit word. -/
def ownAttr (fn : Nat) (p : BitVec 4) (sa x : BitVec 5) : Attr :=
  { maj := 0x2D, fn := fn, p := some p, legal := true, rs := [sa.toNat, x.toNat], front := true,
    serial := true, ordered := true, mirror := false }

/-- Tiles named, relative to the window. -/
def Iss.tiles (i : Iss) (sa x : BitVec 5) : List Nat := (List.range (i.s x).toNat).map ((i.s sa).toNat + ·)
def Iss.tilesBad (i : Iss) (sa x : BitVec 5) : Bool :=
  (i.s x) != 0 && decide (i.b.ntile < (i.s sa).toNat + (i.s x).toNat)

/-- A command of the block in flight names one of the tiles. -/
def State.tilesBusy (s : State) (i : Iss) (l : List Nat) : Bool :=
  s.cmds.any (fun e => e.2.dest.block == i.blk && (e.2.destTiles i.b ++ s.srcTiles e.2 i.b).any l.contains)

def State.setTiles (s : State) (i : Iss) (sa x : BitVec 5) (eng : Bool) : State :=
  if i.tilesBad sa x then s.faultAct i Cause.PROT
  else (i.tiles sa x).foldl (fun (s : State) t => s.modCore i.core (fun k => k.setTile (i.b.tile0 + t) eng)) s

/-- OWN_E (08 R197): after a release at CORE scope, the named tiles go to the engines. -/
def execOwnE (p : BitVec 4) (sa x : BitVec 5) (s : State) :
    Host.Outcome State Fault Refusal :=
  s.issue (ownAttr 0 p sa x) always never (straight (fun i s => (s.shareC i.blk (scopeCores i.core 0)).setTiles i sa x true))

/-- OWN_T (08 R197): the named tiles come back, once no command in flight names them; an acquire. -/
def execOwnT (p : BitVec 4) (sa x : BitVec 5) (s : State) :
    Host.Outcome State Fault Refusal :=
  s.issue (ownAttr 1 p sa x) always (fun i s => !i.tilesBad sa x && s.tilesBusy i (i.tiles sa x))
    (straight (fun i s => (s.acquireAt i.blk i.core 0).setTiles i sa x false))

/-- OWNQ (08 R197): owner bits of 32 tiles from one on; 0 outside the window. -/
def execOwnq (p : BitVec 4) (t sa : BitVec 5) (s : State) :
    Host.Outcome State Fault Refusal :=
  s.issue
    { maj := 0x2D, fn := 2, p := some p, legal := true, rs := [sa.toNat], ws := [t.toNat], front := true,
      serial := true, outs := [.s t.toNat], mirror := false }
    always never
    (straight (fun i s => s.putS i t (maskOf ((List.range 32).filter (fun k =>
      decide ((i.s sa).toNat + k < i.b.ntile) && (s.core i.core).engTile (i.b.tile0 + (i.s sa).toNat + k))))))

end Sys2Proof.Machine
end

