-- ==== Sys2Proof/Machine/Observe.lean ====
section
/-! DEFINITION. The joined entity, which names what a stop, and every report of one, stands for (15 R362, R364). -/

namespace Sys2Proof.Machine

/-- The joined entity (15 R362). -/
structure Entity where
  part : Nat
  /-- a system core, not a device thread -/
  side : Bool
  pid : Nat
  tid : Nat
  regid : Nat
  block : Nat × Nat × Nat
  warp : Nat
  core : Nat
  deriving DecidableEq, Repr

/-- Its 24 bytes; the reserved fields read as zero. -/
def Entity.word (e : Entity) : BitVec 192 :=
  let put := fun (w : BitVec 192) (x : Nat × Nat × Nat) => setField w x.1 x.2.1 x.2.2
  [(0, 5, e.part), (5, 1, if e.side then 1 else 0), (16, 32, e.pid), (48, 32, e.tid), (80, 32, e.regid), (112, 16, e.block.1),
   (128, 16, e.block.2.1), (144, 16, e.block.2.2), (160, 5, e.warp), (165, 9, e.core)].foldl put 0

/-- Process and thread of a region: from its launch record (R362; 13 R321), where that can be reached; else free
(notes/assumptions/74). -/
def State.launchIds (s : State) (r : Region) : Nat × Nat :=
  let ids := match s.translateEngine r.die r.part r.lrec { r := true } 5 false with
    | (.ok l, _) => s.rdNat (l.key r.lrec) 8
    | (.fault _ _, _) => (Config.lostIds r.lrec).toNat
  (ids % 2 ^ 32, ids / 2 ^ 32)

/-- The entity of a unit of a block: 16 names the front thread. -/
def State.entityOf (s : State) (b : Block) (r : Region) (unit : Nat) : Entity :=
  let (pid, tid) := s.launchIds r
  { part := r.part, side := false, pid := pid, tid := tid, regid := b.regid, block := (b.x, b.y, b.z), warp := unit, core := b.core }

/-- The entity of a system core: what it runs is the system software's, and free (notes/assumptions/74). -/
def State.sysEntity (s : State) (core : Nat) : Entity :=
  let w := Config.sysIdentity core s.now
  { part := field w 0 5, side := true, pid := field w 16 32, tid := field w 48 32, regid := field w 80 32
    block := (field w 112 16, field w 128 16, field w 144 16), warp := field w 160 5, core := core % 16 }

/-- A pattern names an entity: each field is a wildcard or equals the entity's (R364). -/
def StopPattern.names (p : StopPattern) (e : Entity) : Bool :=
  p.side.all (· == e.side) && p.part.all (· == e.part) && p.pid.all (· == e.pid) && p.tid.all (· == e.tid)
    && p.regid.all (· == e.regid) && p.block.all (· == e.block) && p.warp.all (· == e.warp) && p.core.all (· == e.core)

/-- A stop holds an entity: one that waits for no trigger. -/
def State.stopped (s : State) (e : Entity) : Bool := s.stops.any (fun p => p.pat.trigger.isNone && p.pat.names e)

/-- Every entity that a stop can name: the units of the bound blocks, and the system cores. -/
def State.entities (s : State) : List Entity :=
  s.blocks.flatMap (fun e => match s.region? e.2.regid with
    | some r => (16 :: List.range e.2.ctx.warps.length).map (s.entityOf e.2 r)
    | none => [])
  ++ (List.range 16).map s.sysEntity

/-- Reports of the stops that have come into force (R362, R364). -/
def State.reportStops (s : State) : State :=
  if s.stops.all (fun p => p.reported || p.pat.trigger.isSome) then s
  else
    let due := s.stops.filter (fun p => !p.reported && p.pat.trigger.isNone)
    let new := s.entities.filter (fun e => due.any (fun p => p.pat.names e))
    { s with
      reports := s.reports ++ new.map Entity.word
      stops := s.stops.map (fun p => if p.pat.trigger.isNone then { p with reported := true } else p) }

end Sys2Proof.Machine
end

