-- ==== Sys2Proof/Machine/Recover.lean ====
section
/-! DEFINITION. How a block ends before its time, and how it starts again: KILL, consumed errors, relaunch, rollback
(08 R211; 09 R228; 12 R277, R282, R286, R291). -/

namespace Sys2Proof.Machine

/-- A block's commands end with ABORT; one that has met its fault, or has ended but for acknowledgements of writes that are all complete,
ends as it stands (08 R193, R211). -/
def State.abortCmds (s : State) (blk : Nat) : State :=
  (s.cmds.filter (fun e => e.2.dest.block == blk)).foldl (fun (s : State) e =>
    (if e.2.state = .ending ∧ (e.2.status % 2 = 1 ∨ (s.acksOf e.1).isEmpty ∧ e.2.far.isEmpty) then s
      else s.modCmd e.1 (fun c =>
        { c with
          status := 3, detail := Detail.ABORT, opnd := (c.openDefect Detail.ABORT).opnd, srcn := 0
          prog := if c.state = .queued then c.resume else c.prog })).endCmd e.1) s

/-- Counter banks that a block holds are free (09 R230); one stolen from it stays stolen. -/
def State.freeBanks (s : State) (core blk : Nat) : State :=
  s.modCore core (fun k => { k with
    banks := Table.mapVals (k.banks.filter (fun e => e.2.holder != some blk || e.2.stolen)) (fun b =>
      if b.holder = some blk then { stolen := true } else b) })

/-- What the part still does for a block's threads is dropped: groups below level 0, faults that await an answer
(notes/assumptions/31). -/
def State.dropPending (s : State) (blk : Nat) : State :=
  { s with
    sunk := s.sunk.filter (fun (e : Nat × Sunk) => e.2.block != blk)
    waiting := s.waiting.filter (fun (e : Nat × Waiting) => e.2.block != blk || e.2.request.isSome) }

/-- A unit all of whose lanes have exited. -/
def Warp.ended (w : Warp) : Warp :=
  { w with
    lanes := w.lanes.map (fun l =>
      { l with status := .exited, wait := .none, park := none, held := none, resv := none, item := none, frame := none })
    log := [], pend := [], hints := [], unitLanes := 0, owners := [], handler := none, chain := none }

def Ctx.ended (c : Ctx) : Ctx :=
  { c with warps := c.warps.map Warp.ended, trailing := c.trailing.map Warp.ended, front := c.front.ended,
           pairs := c.pairs.map (fun _ => {}) }

/-- THE END OF A BLOCK as KILL leaves it (09 R228): its status, every thread exited, unreleased stores gone, commands
aborted, items lost. -/
def State.killBlock (s : State) (blk status : Nat) (fate : Fate) : State :=
  match s.block? blk with
  | none => s
  | some b =>
    if b.fate ≠ .running then s
    else
      let s := s.modBlock blk (fun (b : Block) =>
        { b with
          status := BitVec.ofNat 8 (max b.status.toNat status)
          fate := fate, buf := [], commitDue := false, releasing := false, consumed := none })
      let s := (s.abortCmds blk).loseItems blk 0xFFFFFFFF
      let s := (s.dropPending blk).modBlock blk (fun b => { b with ctx := b.ctx.ended })
      (s.freeBanks b.core blk).push (.blockCompletion blk)

/-! ## Relaunch and rollback (12 R282, R286) -/

/-- The items of a rung warp stay with its lanes. -/
def Warp.itemsOnly (w : Warp) : Warp :=
  { lanes := w.lanes.map (fun l => { item := l.item, frame := l.frame, status := .exited : Lane }) }

/-- A core on which a region has no block any longer gives up its records (02 R53). -/
def State.leaveRecords (s : State) (core regid : Nat) : State :=
  if (s.onCore core).any (fun e => e.2.regid == regid) then s else s.dropRecords core (fun k => k / 128 == regid)

/-- What the block's LADRs have still to submit is given up: they are executed again (12 R286). -/
def State.dropSubmissions (s : State) (blk : Nat) : State :=
  { s with ladders := s.ladders.mapVals (fun l => { l with arrivals := l.arrivals.filter (fun x => x.block != blk) }) }

/-- A block leaves its core and waits to be bound again, with a status. -/
def State.unbind (s : State) (blk : Nat) (b : Block) (ctx : Ctx) (status : BitVec 8) : State :=
  let s := { s with timers := s.timers.filter (fun e => e.2 != Instr.residenceEnergyCharge blk) }
  let s := (((s.dropPending blk).dropSubmissions blk).freeBanks b.core blk).modBlock blk (fun (b : Block) =>
    { b with
      loc := .unbound, status := status, ctx := ctx, buf := [], committed := false, bypassed := false, commitDue := false, consumed := none
      releasing := false
      exiting := false
      relaunches := b.relaunches + 1, finals := [] })
  let s := (s.leaveRecords b.core b.regid).modRegion b.regid (fun r => { r with nrelaunch := r.nrelaunch + 1 })
  match b.rung with
  | none => s.modRegion b.regid (fun r => { r with relaunch := r.relaunch ++ [blk] })
  | some _ => s

/-- Back to the dispatch state (02 R55). -/
def State.relaunchPlain (s : State) (blk : Nat) (b : Block) : State :=
  s.unbind blk b (if b.rung.isSome then { warps := b.ctx.warps.map Warp.itemsOnly } else {}) 0

/-- The words that tokens have received since the snapshot reach the registers that it holds pending (08 R211). -/
def Warp.finish (finals : Table (Word × Nat)) (w : Warp) : Warp :=
  w.pend.foldl (fun (w : Warp) e => match finals.get? e.2 with
    | some x => w.takeToken e.1 e.2 x.1 x.2
    | none => w) w

/-- Back to the current snapshot half: window and owner bits wait in the image. -/
def State.rollback (s : State) (blk : Nat) (b : Block) (h : SnapHalf) : State :=
  let s := s.abortCmds blk
  let finals := ((s.block? blk).map Block.finals).getD []
  let ctx : Ctx := { h.ctx with warps := h.ctx.warps.map (Warp.finish finals), front := h.ctx.front.finish finals }
  let s := s.unbind blk b ctx h.status
  s.modBlock blk (fun b => { b with imgWindow := h.window, imgOwners := h.owners, rollbacks := b.rollbacks + 1, finals := finals })

/-- A half that cannot be read: its own error, or poison or a DRAM error beyond the code under its lines (R286). -/
def State.halfLost (s : State) (part : Nat) (b : Block) (h : SnapHalf) : Bool :=
  h.bad || s.poison.any (s.snapLine part b h.seq) || s.dies.any (fun d => d.2.dram.any (fun e => e.2.isNone && s.snapLine part b h.seq e.1))

/-- The current half of a block's snapshot slot, written since the block was bound. -/
def State.currentHalf (s : State) (b : Block) : Option SnapHalf :=
  let part := ((s.region? b.regid).map Region.part).getD 0
  (s.snaps.getD [] (snapKey part b.snapSlot)).head?

end Sys2Proof.Machine
end

