-- ==== Sys2Proof/Machine/Regions.lean ====
section
/-! DEFINITION. Region control blocks, acceptance, records, the end and the abort of a region (13 R302 to R309, R321 to
R325, R385; 14 R347). -/

namespace Sys2Proof.Machine

/-! ## Device records (R321 to R323, R385) -/

/-- Write bytes inside one line of the record at `rec'` through the partition's translation; where that fails, nothing is
written and an event names the record. -/
def State.recordWrite (s : State) (die part regid rec' va : Nat) (bytes : List Byte) : State :=
  match s.translateEngine die part va { r := false, w := true } 5 false with
  | (.ok l, s) => s.unitWrite die (l.home va) (va % Config.lineBytes) bytes
  | (.fault _ _, s) => s.post 0x0B 11 die regid rec'

/-- Add to a doubleword of a record, atomically (R321). -/
def State.recordAdd (s : State) (die part regid rec' va x : Nat) : State :=
  if x = 0 then s
  else match s.translateEngine die part va { r := true, w := true } 5 false with
    | (.ok l, s) => s.unitWrite die (l.home va) (va % Config.lineBytes) (leBytes 8 (s.rdNat (l.key va) 8 + x))
    | (.fault _ _, s) => s.post 0x0B 11 die regid rec'

/-- Write from bit 1024 of an RCB on, where it stands: a root's is given by its physical address (R302). -/
def State.rcbWrite (s : State) (die part regid va : Nat) (phys : Bool) (bytes : List Byte) : State :=
  if phys then
    let k := memKey s.devNum (va + 128)
    s.unitWrite die { line := lineOf k, hdie := die, hdev := s.devNum, tracked := false } (k % Config.lineBytes) bytes
  else s.recordWrite die part regid va (va + 128) bytes

/-- STATE of an accepted region, in the part and in its RCB. -/
def State.setRegionState (s : State) (n x : Nat) : State :=
  match s.region? n with
  | none => s
  | some r => (s.modRegion n (fun r => { r with state := x })).rcbWrite r.die r.part n r.rcb r.rcbPhys (leBytes 1 x)

/-! ## The RCB (R303 to R306) -/

abbrev Rcb := BitVec 2048

/-- Reserved fields of bits 1023:0, but for those of the array grants. -/
def rcbReserved : List (Nat × Nat) :=
  [(18, 14), (47, 1), (53, 3), (80, 16), (180, 12), (288, 32), (372, 12), (436, 12), (461, 3), (468, 4), (480, 32), (560, 16),
   (656, 16), (676, 28), (708, 60), (948, 12), (1012, 12)]

/-- Whether a group is given in the RCB. -/
def rcbOwn (x : Rcb) (g : Nat) : Bool := field x g 1 == 1

def rcbGrant (x : Rcb) (a : Nat) : Nat := field x (768 + 32 * a) 32

/-- First row, row count, first slot and slot count of a grant. -/
def grantParts (g : Nat) : Nat × Nat × Nat × Nat := (g % 2 ^ 5, g / 2 ^ 5 % 2 ^ 6, g / 2 ^ 11 % 2 ^ 7, g / 2 ^ 18 % 2 ^ 8)

def grantOk (g : Nat) : Bool :=
  let (rf, rn, sf, sn) := grantParts g
  decide (1 ≤ rn) && decide (rf + rn ≤ 32) && decide (1 ≤ sn) && decide (sf + sn ≤ 128) && decide (g / 2 ^ 26 = 0)

def grantIn (g q : Nat) : Bool :=
  let (rf, rn, sf, sn) := grantParts g
  let (rf', rn', sf', sn') := grantParts q
  decide (rf' ≤ rf) && decide (rf + rn ≤ rf' + rn') && decide (sf' ≤ sf) && decide (sf + sn ≤ sf' + sn')

/-- What a root's groups take where its RCB does not give them (R305); groups without such a value refuse the root. -/
def State.rootRegion (s : State) (queued : Nat) (x : Rcb) : Region :=
  let part := if rcbOwn x 6 then field x 48 5 else queued
  let dies := (List.range Config.dies).filter (fun d => (List.range Config.coresPerDie).any (fun c =>
    (s.core (d * Config.coresPerDie + c)).part == part))
  { part := queued, dieMask := dies.foldl (fun (m : BitVec 4) d => m ||| BitVec.ofNat 4 (2 ^ d)) 0 }

def rootNeeds : List Nat := [9, 10, 12, 17]

/-- The region that an RCB describes, over the values it inherits (R304, R305). -/
def resolve (x : Rcb) (p : Region) : Region :=
  let g := rcbOwn x
  { p with
    cls := if g 0 then field x 32 2 else p.cls
    prot := if g 1 then field x 34 1 == 1 else p.prot
    check := if g 2 then field x 35 1 == 1 else p.check
    setLim := if g 3 then 4 * 2 ^ field x 36 2 else p.setLim
    ilock := if g 4 then field x 38 1 == 1 else p.ilock
    brecen := field x 39 1 == 1
    amax := if g 5 then field x 40 7 else p.amax
    part := if g 6 then field x 48 5 else p.part
    prio := if g 7 then field x 56 8 else p.prio
    fdom := if g 8 then field x 64 16 else p.fdom
    param := BitVec.ofNat 32 (field x 96 32)
    codeBase := if g 9 then field x 128 52 else p.codeBase
    wentry := if g 10 then field x 192 32 else p.wentry
    fentry := if g 10 then field x 224 32 else p.fentry
    trapv := if g 11 then field x 256 32 else p.trapv
    viewTab := if g 12 then field x 320 52 else p.viewTab
    segBase := if g 13 then field x 384 52 else p.segBase
    segCnt := if g 13 then field x 448 13 else p.segCnt
    nwarp := field x 464 4 + 1
    ntile := field x 472 8
    gx := field x 512 16
    gy := field x 528 16
    gz := field x 544 16
    elimit := if g 14 then field x 608 32 else 0
    ownLimits := g 14
    maxBlk := if g 15 then field x 640 16 else p.maxBlk
    dieMask := if g 15 then BitVec.ofNat 4 (field x 672 4) else p.dieMask
    arrMask := if g 16 then BitVec.ofNat 4 (field x 704 4) else p.arrMask
    agrant := if g 16 then (List.range 4).map (rcbGrant x) else p.agrant
    lrec := if g 17 then field x 896 52 else p.lrec
    crec := field x 960 52 }

/-- The checks of R306 that the fields decide. -/
def rcbFieldsOk (x : Rcb) (r : Region) : Bool :=
  rcbReserved.all (fun e => field x e.1 e.2 == 0)
    && field x 36 2 != 3 && decide (field x 48 5 < 20) && decide (r.part < 20) && decide (4 ≤ r.amax) && decide (r.amax ≤ 64) && decide (r.segCnt ≤ 4096)
    && decide (r.ntile ≤ (if r.cls = 0 then 128 else 96)) && r.gx != 0 && r.gy != 0 && r.gz != 0
    && (!r.brecen || decide (r.gx * r.gy * r.gz ≤ 2 ^ 20))
    && r.codeBase % 2 ^ 12 == 0 && r.viewTab % 64 == 0 && r.segBase % 4 == 0 && r.lrec % 64 == 0 && r.crec % 64 == 0
    && r.wentry % 4 == 0 && (r.fentry == 0xFFFFFFFF || r.fentry % 4 == 0) && (r.trapv == 0xFFFFFFFF || r.trapv % 4 == 0)
    && (List.range 4).all (fun a => !natBit r.arrMask.toNat a || grantOk (listAt r.agrant a 0))

/-- The checks of R306 against a parent. -/
def withinParent (r p : Region) : Bool :=
  decide (p.cls ≤ r.cls) && r.part == p.part && (r.dieMask &&& ~~~p.dieMask) == 0 && (r.arrMask &&& ~~~p.arrMask) == 0
    && (List.range 4).all (fun a => !natBit r.arrMask.toNat a || grantIn (listAt r.agrant a 0) (listAt p.agrant a 0))

/-- Units of energy that a region may still charge: its own limit's, or that of the region it inherits from (R304). -/
def State.energyLeft (s : State) : Nat → Region → Option Nat
  | 0, _ => none
  | n + 1, r =>
    if r.elimit ≠ 0 then some (r.elimit * 4000000 - r.charged)
    else if r.ownLimits then none
    else match r.parent.bind s.region? with
      | some p => s.energyLeft n p
      | none => none

/-- TLIMIT and ELIMIT, given in the RCB, fit what the parent has left (R304, R306). -/
def State.limitsOk (s : State) (x : Rcb) (p : Region) : Bool :=
  !rcbOwn x 14 ||
    ((field x 576 32 == 0 || (match p.deadline with
        | some d => decide (s.ns + field x 576 32 * 1000 ≤ d)
        | none => true))
      && (field x 608 32 == 0 || (match s.energyLeft (s.regions.length + 1) p with
        | some e => decide (field x 608 32 * 4000000 ≤ e)
        | none => true)))

/-- When the region's time is over. -/
def State.deadlineOf (s : State) (x : Rcb) (p : Option Region) : Option Nat :=
  if rcbOwn x 14 then (if field x 576 32 = 0 then none else some (s.ns + field x 576 32 * 1000))
  else p.bind Region.deadline

/-- An address translates with write permission (R306). -/
def State.writable (s : State) (die part va : Nat) : Bool × State :=
  match s.translateEngine die part va { r := false, w := true } 5 false with
  | (.ok _, s) => (true, s)
  | (.fault _ _, s) => (false, s)

/-- The stepping of the region's code object differs, or ILOCK is set (04 R103). -/
def State.interlockOf (s : State) (die : Nat) (r : Region) : Bool :=
  r.ilock || s.kcoField die r 32 32 != some Config.stepping

/-- LIMIT_CHECK comes every 10 µs while a region with a limit may need it (R309). -/
def limitPeriod : Nat := 9400

/-- How a launch ends: refused, or accepted with the region's id. -/
inductive Launch where
  | refused
  | accepted (n : Nat)
  deriving DecidableEq, Repr

/-- Accept or refuse an RCB that is at hand (R303 to R306); `part` is the partition of whoever launches, 31 for the
hypervisor, which alone may start a root in another partition (R302). -/
def State.judgeRcb (s : State) (die part va : Nat) (phys : Bool) (parent : Option Nat) (x : Rcb) (token : Option TokenDest)
    (detach : Bool) : Launch × State :=
  let p := parent.bind s.region?
  let base := p.getD (s.rootRegion part x)
  let r := resolve x base
  if field x 1024 8 ≠ 0 then (.refused, s)
  else
    let (okL, s) := s.writable die r.part r.lrec
    let (okC, s) := if r.crec = 0 then (true, s) else s.writable die r.part r.crec
    let rootOk := p.isSome || (rootNeeds.all (rcbOwn x) && (r.part == part || part == 31))
    let family := match p with
      | some q => withinParent r q && s.limitsOk x q
      | none => true
    if !(rootOk && rcbFieldsOk x r && family && okL && okC) || s.objPoisoned die r then
      (.refused, s.rcbWrite die part 0xFFFFFFFF va phys (leBytes 1 5))
    else
      let (n, s) := s.fresh
      let r : Region :=
        { r with
          parent := parent, rcb := va, rcbPhys := phys, die := die, eprio := r.prio, state := 1
          deadline := s.deadlineOf x p, tAccept := s.ns, tLastBind := s.now, token := token, detach := detach
          nextBlock := 0, relaunch := [], ndone := 0, nrelaunch := 0, nlost := 0, nkilled := 0, maxStat := 0, energy := 0
          charged := 0, tEnd := 0, execCycles := 0, faultCycles := 0, execNs := 0, faultNs := 0 }
      let s := { s with regions := s.regions.put n r }
      let s := s.rcbWrite die r.part n va phys
        (leBytes 1 1 ++ leBytes 4 n ++ leBytes 4 (parent.getD 0xFFFFFFFF))
      let s := s.modDie die (fun d => { d with ready := d.ready ++ [n] })
      let s := if s.timers.any (fun e => e.2 == .limitCheck die) then s else s.at (s.now + limitPeriod) (.limitCheck die)
      let s := s.at (s.now + 2 * 940000) (.priorityAgeing n)
      (.accepted n, s)

/-- Read an RCB for a launch and judge it (R221, R302, R306, R385). -/
def State.launch (s : State) (die part va : Nat) (parent : Option Nat) (token : Option TokenDest) (detach : Bool) :
    Launch × State :=
  match s.translateEngine die part va { r := false, w := true } 5 false with
  | (.fault _ _, s) => (.refused, s)
  | (.ok l, s) =>
    if s.isPoisoned die (l.home va) || s.isPoisoned die (l.home (va + 128)) then (.refused, s.post 0x0B 11 die 0xFFFFFFFF va)
    else s.judgeRcb die part va false parent (BitVec.ofNat 2048 (s.rdNat (l.key va) 256)) token detach

/-- A root's RCB, by its physical address (R302). -/
def State.rootLaunch (s : State) (die part pa : Nat) : State :=
  let k := memKey s.devNum pa
  if s.poison.contains (lineOf k) || s.poison.contains (lineOf k + 1) then s.post 0x0B 11 die 0xFFFFFFFF pa
  else (s.judgeRcb die part pa true none (BitVec.ofNat 2048 (s.rdNat k 256)) none false).2

/-! ## Time charged to the launch record (R321; 15 R365) -/

def nsOf (cycles : Nat) : Nat := cycles * 50 / 47

/-- Add to EXEC and FAULT what is due. -/
def State.flushTime (s : State) (n : Nat) : State :=
  match s.region? n with
  | none => s
  | some r =>
    let e := nsOf r.execCycles
    let f := nsOf r.faultCycles
    let s := s.recordAdd r.die r.part n r.lrec (r.lrec + 40) (e - r.execNs)
    let s := s.recordAdd r.die r.part n r.lrec (r.lrec + 24) (f - r.faultNs)
    s.modRegion n (fun r => { r with execNs := e, faultNs := f })

/-- Add what is due to the launch record of a region, from every region that shares it: one of them counts for all (R321). -/
def State.flushRecord (s : State) (n : Nat) : State :=
  match s.region? n with
  | none => s
  | some r => (s.regions.filter (fun e => e.2.part == r.part && e.2.lrec == r.lrec)).foldl (fun (s : State) e => s.flushTime e.1) s

/-! ## The end of a region (R322, R324, R325) -/

/-- Blocks of a region that are bound, or wait to be bound again. -/
def State.blocksOf (s : State) (n : Nat) : List (Nat × Block) := s.blocks.filter (fun e => e.2.regid == n)

def Region.total (r : Region) : Nat := r.gx * r.gy * r.gz

/-- The outcome of a region. -/
def Region.outcome (r : Region) (aborted : Bool) : Nat :=
  if aborted then 3 else if r.nkilled ≠ 0 ∨ r.nlost ≠ 0 then 2 else 0

/-- Write the completion record, STATE last, then the token (R221, R322). -/
def State.completeRegion (s : State) (n : Nat) (r : Region) (aborted : Bool) : State :=
  let s := s.modRegion n (fun r => { r with tEnd := s.ns })
  let s := s.flushRecord n
  let rec' := leBytes 1 r.maxStat ++ leBytes 3 (r.outcome aborted) ++ leBytes 4 n ++ leBytes 4 r.ndone ++ leBytes 4 r.nrelaunch
    ++ leBytes 4 r.nlost ++ leBytes 4 r.nkilled ++ leBytes 8 r.energy.toNat ++ leBytes 8 r.tAccept ++ leBytes 8 s.ns
    ++ leBytes 16 0
  let s := if r.crec = 0 then s else s.recordWrite r.die r.part n r.crec r.crec rec'
  let s := s.setRegionState n (if aborted then 4 else 3)
  let s := s.modDie r.die (fun d => { d with ready := d.ready.erase n })
  match r.token with
  | some d => s.deliver d n (BitVec.ofNat 32 (2 ^ 31 + r.outcome aborted * 2 ^ 28 + r.ndone % 2 ^ 28)) s.topTime
  | none => s

/-- A bind record of the region waits in a ring. -/
def State.bindsOf (s : State) (n : Nat) : Bool :=
  s.dies.any (fun e => e.2.rings.any (fun x => x.2.any (fun r => bKind r != 3 && bRegid r == n)))

def State.dropBinds (s : State) (n : Nat) : State :=
  { s with dies := s.dies.mapVals (fun d =>
      { d with rings := d.rings.mapVals (fun l => l.filter (fun r => bKind r == 3 || bRegid r != n)) }) }

/-- A region whose last block and last ladder item are gone completes. -/
def State.regionCheck (s : State) (n : Nat) (aborted : Bool) : State :=
  match s.region? n with
  | none => s
  | some r =>
    if (r.state ≠ 1 ∧ r.state ≠ 2) ∨ !(s.blocksOf n).isEmpty ∨ s.bindsOf n then s
    else if aborted then s.completeRegion n r true
    else if r.nextBlock < r.total ∨ s.ladderHolds n then s
    else s.completeRegion n r false

/-- A block that waits to be bound again never runs; what a rung warp holds is lost (13 R309, R325). -/
def State.dropUnbound (s : State) (blk : Nat) (b : Block) : State :=
  let s := s.loseItems blk 0xFFFFFFFF
  let s := { s with blocks := s.blocks.erase blk }
  match b.rung with
  | none => s
  | some (lid, k) => (s.modLadder lid (fun l => { l with flight := listMod l.flight k (· - 1) })).ladderSettle lid

/-- ABORT a region and every region below it, and those of its fault domain (R304, R307, R309): its running blocks end
with status 0xFD, or as lost where their die is; the others never run. -/
def State.abortRegion (s : State) : Nat → Nat → State
  | 0, _ => s
  | fuel + 1, n =>
    match s.region? n with
    | none => s
    | some r =>
      if r.aborting ∨ r.state = 4 ∨ r.state = 5 then s
      else
        let live := r.state = 1 ∨ r.state = 2
        let s := s.modRegion n (fun r => { r with aborting := true, nextBlock := r.total, relaunch := [] })
        let s := (if live then s.abortLadders n else s).dropBinds n
        let s := (s.blocksOf n).foldl (fun (s : State) e =>
          if e.2.loc = .unbound then s.dropUnbound e.1 e.2 else s.killBlock e.1 0xFD .aborted) s
        let kin := s.regions.filter (fun e => e.2.parent == some n
          || (live && r.fdom != 0 && e.2.fdom == r.fdom && e.2.part == r.part && e.1 != n && (e.2.state == 1 || e.2.state == 2)))
        let s := kin.foldl (fun (s : State) e => s.abortRegion fuel e.1) s
        s.regionCheck n true

/-- The abort's depth bound: every region at most once. -/
def State.abort (s : State) (n : Nat) : State := s.abortRegion (s.regions.length + 1) n

end Sys2Proof.Machine
end

