-- ==== Sys2Proof/Machine/Villek.lean ====
section
/-! DEFINITION. Placement, binding, dispatch and the end of blocks (02 R54, R55; 09 R215; 12 R282, R286; 13 R308 to R315,
R323, R324). -/

namespace Sys2Proof.Machine

/-! ## The state at dispatch (02 R30, R34, R42, R55) -/

/-- Registers from 0 on that hold the values listed. -/
def regsOf (l : List Word) : Table Word :=
  (mapFrom 0 (fun n x => (n, x)) l).foldl (fun (t : Table Word) e => t.putD 0 e.1 e.2) []

/-- s0 to s3 at dispatch. -/
def dispatchScalars (x y z : Nat) (param : Word) : Table Word :=
  regsOf [BitVec.ofNat 32 x, BitVec.ofNat 32 y, BitVec.ofNat 32 z, param]

/-- A lane at a PC, with v0 and v1. -/
def dispatchLane (pc : Nat) (v0 v1 : Word) : Lane := { v := regsOf [v0, v1], pc := pc }

/-- Warp `w` of a block. -/
def dispatchWarp (r : Region) (x y z w : Nat) : Warp :=
  { lanes := (List.range 32).map (fun l => dispatchLane r.wentry (BitVec.ofNat 32 (32 * w + l)) 0)
    s := dispatchScalars x y z r.param }

/-- The front thread; with no front section it has exited (R42). -/
def dispatchFront (r : Region) (x y z : Nat) (runs : Bool) : Warp :=
  { lanes := [{ pc := r.fentry, status := if runs && r.fentry != 0xFFFFFFFF then .running else .exited }]
    s := dispatchScalars x y z r.param }

/-- A trailing warp starts as a copy; it takes a token's word from the load-value queue, whether the word has arrived or not (12
R288, R289, R292). -/
def Warp.shadow (w : Warp) : Warp :=
  { w with pend := w.acq.foldl (fun (t : Table Nat) e => if e.2.read then t else t.put e.1 0) w.pend, acq := [] }

def Ctx.withTrailing (c : Ctx) (check : Bool) : Ctx :=
  if check then { c with trailing := c.warps.map Warp.shadow, pairs := c.warps.map (fun _ => {}) } else { c with trailing := [], pairs := [] }

/-- A block of the grid at dispatch. -/
def dispatchCtx (r : Region) (x y z : Nat) : Ctx :=
  ({ warps := (List.range r.nwarp).map (dispatchWarp r x y z), front := dispatchFront r x y z true : Ctx }).withTrailing r.check

/-- A lane of a rung warp: its item, or none (09 R215). -/
def rungLane (entry : Nat) (e : Option (Nat × Option Nat)) : Lane :=
  match e with
  | some (id, f) =>
    { dispatchLane entry (BitVec.ofNat 32 id) ((f.map (BitVec.ofNat 32)).getD 0xFFFFFFFF) with item := some id, frame := f }
  | none => { pc := entry, status := .exited }

/-- A rung warp at dispatch. -/
def rungCtx (r : Region) (d : Desc) (k : Nat) (items : List (Option (Nat × Option Nat))) : Ctx :=
  let lanes := (List.range 32).map (fun l => rungLane (dEntry d k) (listAt items l none))
  let w : Warp := { lanes := lanes, s := dispatchScalars 0 0 0 (BitVec.ofNat 32 (dParam d)) }
  ({ warps := [w], front := dispatchFront r 0 0 0 false : Ctx }).withTrailing r.check

/-! ## Ranks (R310) -/

/-- A region has a block to place, within MAXBLK. -/
def State.wants (s : State) (n : Nat) (r : Region) : Bool :=
  (r.state == 1 || r.state == 2) && !r.aborting && (!r.relaunch.isEmpty || decide (r.nextBlock < r.total))
    && s.roomFor n r

/-- A region's next block ranks above another's. -/
def ranksAbove (a b : Nat × Region) : Bool :=
  decide (a.2.cls < b.2.cls) || (a.2.cls == b.2.cls && (decide (b.2.eprio < a.2.eprio) || (a.2.eprio == b.2.eprio && decide (a.1 < b.1))))

/-- Put a region in its place in the order of ranks. -/
def insertRank (x : Nat × Region) : List (Nat × Region) → List (Nat × Region)
  | [] => [x]
  | y :: l => if ranksAbove x y then x :: y :: l else y :: insertRank x l

/-- Regions with a block to place, by rank. -/
def State.ranked (s : State) : List (Nat × Region) :=
  (s.regions.filter (fun e => s.wants e.1 e.2)).foldl (fun l x => insertRank x l) []

/-- Cores on which a region's next block may be bound: of its partition, on a die of DIEMASK, and for a block that starts
again on another cluster, or where the partition has only one, on another core (12 R282). -/
def State.coresFor (s : State) (r : Region) : List Nat :=
  let all := (List.range (Config.dies * Config.coresPerDie)).filter (s.coreFor r)
  match r.relaunch.head?.bind s.block? with
  | none => all
  | some b =>
    let away := all.filter (fun c => clusterOf c != clusterOf b.core)
    if away.isEmpty then all.filter (· != b.core) else away

/-- Where the next block of a region can go now. -/
def State.spot (s : State) (r : Region) : Option (Nat × Nat × Nat) := s.place (s.coresFor r) r.cls r.ntile r.nwarp r.check

/-- The lowest snapshot slot of a partition that none of its blocks has, and no record that waits. -/
def State.freeSnap (s : State) (part : Nat) : Nat :=
  let mine := fun (n : Nat) => (s.region? n).any (fun r => r.part == part)
  let due := s.dies.flatMap (fun d => d.2.rings.flatMap (fun x => (x.2.filter (fun r => bKind r != 3 && mine (bRegid r))).map bSnap))
  let used := s.blocks.filterMap (fun e => if mine e.2.regid then some e.2.snapSlot else none) ++ due
  ((List.range 4096).find? (fun n => !used.contains n)).getD 0

def isPlacement (die : Nat) : Instr → Bool
  | .villekPlacement d _ _ _ _ _ => d == die
  | _ => false

/-- The step that takes the record at the head of a core's ring. -/
def State.ringPump (s : State) (core : Nat) : State :=
  let die := dieOf core
  let c := core % Config.coresPerDie
  match s.ring core with
  | [] => s
  | r :: _ => if s.beingBound core then s else s.push (match bKind r with
      | 0 => .bindBlock die c
      | 1 => .bindRungWarp die c
      | 2 => .bindResumeSnapshot die c
      | _ => .bankSwitch die c)

/-- The rings whose head record satisfies a test. -/
def State.pumpRings (s : State) (p : Bind → Bool) : State :=
  s.dies.foldl (fun (s : State) d => d.2.rings.foldl (fun (s : State) x =>
    if x.2.head?.any p then s.ringPump (d.1 * Config.coresPerDie + x.1) else s) s) s

/-- Put a record in a ring. -/
def State.writeBind (s : State) (core : Nat) (r : Bind) : State := (s.setRing core (s.ring core ++ [r])).ringPump core

/-- Blocks of a core whose context stands in the standby bank. -/
def State.standby (s : State) (core : Nat) : List (Nat × Block) :=
  (s.onCore core).filter (fun e => e.2.loc == .standby || e.2.loc == .spilling)

/-- The first tile of a window on a core for a block that takes slots from 0 on in an empty standby bank. -/
def State.switchFit (s : State) (core : Nat) (r : Region) : Option Nat :=
  if 128 < r.ntile ∨ (if r.check then 32 else 64) < r.nwarp then none
  else if r.ntile = 0 then some 0
  else firstRun (s.tilesTaken core) (fun a => (List.range r.ntile).map (a + ·)) 0 (128 - r.ntile)

/-- A class-0 block can have a core by a switch: it displaces blocks of other classes alone (R308, R311). -/
def State.canSwitch (s : State) (r : Region) (c : Nat) : Bool :=
  let live := (s.onCore c).filter (fun e => e.2.inLive)
  r.cls == 0 && (s.standby c).all (fun e => e.2.loc == .spilling) && (s.ring c).isEmpty && !live.isEmpty
    && live.all (fun e => e.2.loc == .live && ((s.region? e.2.regid).map Region.cls).getD 0 != 0)

/-- A core that a class-0 block gets by a switch, with the first tile of its window where there are tiles for it (R311); where there
are none the switch brings in an empty bank, so nothing stands in it (14 R339). -/
def State.switchCore (s : State) (r : Region) : Option (Nat × Option Nat) :=
  let l := ((s.coresFor r).filter (s.canSwitch r)).map (fun c => (c, s.switchFit c r))
  match l.find? (fun e => e.2.isSome) with
  | some e => some e
  | none => l.find? (fun e => (s.standby e.1).isEmpty)

/-- A class-0 block that fits nowhere is to have a core: the windows of what has been displaced there give up their tiles. -/
def State.claimed (s : State) (core : Nat) : Bool :=
  s.ranked.any (fun e => e.2.cls == 0 && (s.coresFor e.2).contains core)

/-- A core whose standby bank holds a context, while its live bank holds none and no class-0 block is to have it. -/
def State.switchBack (s : State) : Option Nat :=
  (List.range (Config.dies * Config.coresPerDie)).find? (fun c =>
    (s.ring c).isEmpty && !((s.onCore c).any (fun e => e.2.inLive)) && (s.onCore c).any (fun e => e.2.loc == .standby) && !s.claimed c)

def switchRecord (core : Nat) : Bind := bindRecord 0 0 0 0 (core % Config.coresPerDie) 0 0 0 0 3

/-- A rung warp is bound again within the ladder's reserve: on another core with room, else on its own. -/
def State.rebindRung (s : State) (blk : Nat) (b : Block) (lid k : Nat) : State :=
  match s.ladders.get? lid, s.region? b.regid with
  | some l, some r =>
    let free := if s.roomFor b.regid r then s.freeReserve l r else []
    let others := free.filter (fun x => x.1 != b.core)
    let spots := if others.isEmpty then free else others
    match spots[Config.choice s.now % spots.length]? with
    | none => s
    | some (core, t, w) =>
      let s := s.modBlock blk (fun b => { b with core := core, wslot0 := w, tile0 := t })
      let kind := if (s.currentHalf b).isSome && r.prot then 2 else 1
      s.writeBind core (bindRecord b.regid l.cluster k 0 (core % Config.coresPerDie) t r.ntile w b.snapSlot kind)
  | _, _ => s

/-- Rung warps that wait to be bound again, and have no record yet, get one where there is room. -/
def State.rebindRungs (s : State) : State :=
  s.blocks.foldl (fun (s : State) e => match e.2.loc, e.2.rung with
    | .unbound, some (lid, k) =>
      if (s.ring e.2.core).any (fun r => bKind r % 3 != 0 && bRegid r == e.2.regid && bWslot0 r == e.2.wslot0) then s
      else s.rebindRung e.1 e.2 lid k
    | _, _ => s) s

/-- VILLEK decides what comes next: the highest-ranked block that fits somewhere; a switch for a class-0 block that fits
nowhere, to which dispatch brings the block where there are tiles for its window, and which else makes room for them; a switch back (R310,
R311, R339). -/
def State.villek (s : State) : State :=
  let s := s.rebindRungs
  let l := s.ranked
  let s := match l.findSome? (fun e => (s.spot e.2).map (fun p => (e, p))) with
    | some (e, (core, t, w)) =>
      if s.agenda.any (isPlacement e.2.die) then s
      else s.push (.villekPlacement e.2.die e.1 core t w (s.freeSnap e.2.part))
    | none => s
  let s := match l.find? (fun e => e.2.cls == 0 && (s.spot e.2).isNone) with
    | some e => match s.switchCore e.2 with
      | some (c, some t) =>
        if s.agenda.any (isPlacement e.2.die) then s else s.push (.villekPlacement e.2.die e.1 c t 0 (s.freeSnap e.2.part))
      | some (c, none) => s.writeBind c (switchRecord c)
      | none => s
    | none => s
  match s.switchBack with
  | some c => s.writeBind c (switchRecord c)
  | none => s

/-- VILLEK_PLACEMENT (13 R310): a region's next block gets a core, tiles and slots: a bind record. For a class-0 block that displaces
others dispatch writes its state into the standby bank, and a switch record follows (R311; 14 R339). -/
def execVillekPlacement (die region core tile0 wslot0 snap : Nat) (s : State) :
    Host.Outcome State Fault Refusal :=
  match s.region? region with
  | none => .next s
  | some r =>
    let above := s.ranked.any (fun e => ranksAbove e (region, r) && e.2.part == r.part
      && (s.coresFor e.2).contains core && (s.fit core e.2.cls e.2.ntile e.2.nwarp e.2.check).isSome)
    let room := !(((List.range r.ntile).map (tile0 + ·)).any (s.tilesTaken core).contains)
      && !((slotRun wslot0 r.nwarp r.check).any (s.slotsTaken core).contains) && (s.fit core r.cls r.ntile r.nwarp r.check).isSome
    let switch := !room && s.canSwitch r core && s.switchFit core r == some tile0 && wslot0 == 0
    if r.die ≠ die ∨ !s.wants region r ∨ above ∨ !(s.coresFor r).contains core ∨ !(room || switch) then .next s.villek
    else
      let again := r.relaunch.head?
      let n := r.nextBlock
      let b := again.bind s.block?
      let kind := match b with
        | some b => if r.prot && (s.currentHalf b).isSome then 2 else 0
        | none => 0
      let x := (b.map Block.x).getD (n % r.gx)
      let y := (b.map Block.y).getD (n / r.gx % r.gy)
      let z := (b.map Block.z).getD (n / (r.gx * r.gy))
      let snap := (b.map Block.snapSlot).getD snap
      let s := s.modRegion region (fun r =>
        { r with relaunch := r.relaunch.drop 1, nextBlock := if again.isSome then n else n + 1 })
      let s := s.writeBind core (bindRecord region x y z (core % Config.coresPerDie) tile0 r.ntile wslot0 snap kind)
      .next (if switch then s.writeBind core (switchRecord core) else s).villek

/-- PRIORITY_AGEING (13 R310): a region that waits for a bind rises by 1 for each millisecond after the first since its last bind;
one that has been bound since counts anew. -/
def execPriorityAgeing (region : Nat) (s : State) :
    Host.Outcome State Fault Refusal :=
  match s.region? region with
  | none => .next s
  | some r =>
    let ms := (s.now - r.tLastBind) / 940000
    if (r.state ≠ 1 ∧ r.state ≠ 2) ∨ (s.now - r.tLastBind) % 940000 ≠ 0 ∨ ms = 0 then .next s
    else
      let s := s.modRegion region (fun r => { r with eprio := min 255 (r.prio + (ms - 1)) })
      .next ((s.at (s.now + 940000) (.priorityAgeing region)).villek)

/-! ## Binding (R312 to R315) -/

/-- A record breaks R313. -/
def State.bindBad (s : State) (core : Nat) (r : Bind) : Bool :=
  let cls := ((s.region? (bRegid r)).map Region.cls).getD 0
  let n := s.bindWarps r
  bCore r != core % Config.coresPerDie || field r 122 4 != 0
    || (bKind r != 3 && (decide (128 < bTile0 r + bNtile r) || decide (64 < bWslot0 r + n)
      || (s.bindCheck r && decide (32 < bWslot0 r + n)) || (cls != 0 && bNtile r != 0 && decide (bTile0 r < 32))))

/-- The block that waits to be bound again by a record. -/
def State.unboundFor (s : State) (core : Nat) (r : Bind) : Option (Nat × Block) :=
  s.blocks.find? (fun e => e.2.loc == .unbound && e.2.regid == bRegid r &&
    (match e.2.rung with
      | some (_, k) => e.2.core == core && k == bY r && e.2.wslot0 == bWslot0 r
      | none => e.2.x == bX r && e.2.y == bY r && e.2.z == bZ r))

/-- Linear index of a record's block in the grid. -/
def State.bindIndex (s : State) (r : Bind) : Nat := match s.region? (bRegid r) with
  | some g => bX r + g.gx * (bY r + g.gy * bZ r)
  | none => 0

/-- A block of the record's region with a lower index has not been bound yet: its record waits in some ring (R310). -/
def State.bindEarly (s : State) (core : Nat) (r : Bind) : Bool :=
  let fresh := fun (c : Nat) (q : Bind) => bKind q == 0 && bRegid q == bRegid r && (s.unboundFor c q).isNone
    && !s.blocks.any (fun e => e.2.loc == .filling && e.2.regid == bRegid q && e.2.x == bX q && e.2.y == bY q && e.2.z == bZ q)
  fresh core r && s.dies.any (fun d => d.2.rings.any (fun x => x.2.any (fun q =>
    fresh (d.1 * Config.coresPerDie + x.1) q && decide (s.bindIndex q < s.bindIndex r))))

/-- The record is followed by a switch: it binds its block into the standby bank (14 R339). -/
def toStandby : List Bind → Bool
  | _ :: q :: _ => bKind q == 3
  | _ => false

/-- The tiles of a record are free, and its slots, in the bank that it binds to: a standby bank holds no earlier context then (14
R339). -/
def State.bindFree (s : State) (core : Nat) (r : Bind) : Bool :=
  !(((List.range (bNtile r)).map (bTile0 r + ·)).any (s.tilesHeld core).contains)
    && (if toStandby (s.ring core) then (s.standby core).isEmpty
      else !((slotRun (bWslot0 r) (s.bindWarps r) (s.bindCheck r)).any (s.slotsHeld core).contains)
        && decide (((s.onCore core).filter (fun e => e.2.inLive)).length < 4))

/-- The head record of a ring: rejected with ERR, waiting, or ready to act; it stands there until it has acted (R315). -/
inductive Head where
  | none
  | wait
  | rejected (s : State)
  | go (r : Bind)

/-- V of the head record is cleared. -/
def State.popRing (s : State) (core : Nat) : State := s.setRing core ((s.ring core).drop 1)

def State.head (s : State) (core kind : Nat) : Head :=
  match s.ring core with
  | [] => .none
  | r :: _ =>
    if bKind r ≠ kind then .none
    else if s.beingBound core then .wait
    else if s.bindBad core r then
      .rejected (((s.popRing core).modDie (dieOf core) (fun d =>
        { d with rejected := d.rejected ++ [BitVec.ofNat 128 (r.toNat % 2 ^ 126 + 2 ^ 126)] })).pumpRings (fun _ => true))
    else if kind ≠ 3 ∧ (!s.bindFree core r ∨ s.bindEarly core r) then .wait
    else .go r

/-- The head record binds nothing: its region is over. -/
def State.skipRecord (s : State) (core : Nat) : State := (s.popRing core).pumpRings (fun _ => true)

/-- A block's record at the head of its ring goes, once the block has started, or is gone. -/
def State.bindOver (s : State) (b : Block) : State :=
  match s.ring b.core with
  | r :: _ => if bRegid r = b.regid ∧ bWslot0 r = b.wslot0 ∧ bKind r ≠ 3 then s.popRing b.core else s
  | [] => s

/-- Empty a window, and give it back to the threads (02 R54); then put what an image holds. -/
def State.fillWindow (s : State) (core tile0 ntile : Nat) (win : Table Byte) (owners : BitVec 128) : State :=
  let lo := tile0 * Config.tileBytes
  let hi := lo + ntile * Config.tileBytes
  s.modCore core (fun k =>
    let sp := win.foldl (fun (m : Table Byte) e => Memory.put m (lo + e.1) e.2)
      (k.sp.filter (fun e => decide (e.1 < lo) || decide (hi ≤ e.1)))
    (List.range ntile).foldl (fun (k : Core) t => k.setTile (tile0 + t) (natBit owners.toNat t))
      { k with sp := sp, spBad := k.spBad.filter (fun w => decide (4 * w < lo) || decide (hi ≤ 4 * w)) })

/-- Dispatch goes on: the block starts when its window is filled and, from a snapshot, its registers are read (R315); the region runs, and
its wait for a bind is over (R310); the core fetches its code afresh (14 R384). -/
def State.startBind (s : State) (blk : Nat) (r : Bind) : State :=
  let n := bRegid r
  let s := match s.region? n with
    | some g => if g.state = 1 then (s.setRegionState n 2).at (s.now + limitPeriod) (.execTimeCharge n) else s
    | none => s
  let s := match s.block? blk with
    | some b => s.dropFetched b.core n
    | none => s
  let s := (s.modRegion n (fun g => { g with eprio := g.prio, tLastBind := s.now })).at (s.now + 2 * 940000) (.priorityAgeing n)
  let s := s.pumpRings (fun q => bKind q == 0 && bRegid q == n)
  let image := if bKind r = 2 then snapHalfBytes 0 / 128 else 1
  s.at (s.now + 4 + max image (32 * bNtile r)) (.dispatchStart blk)

/-- Bind a block of a region with a context at dispatch. -/
def State.bindFresh (s : State) (core : Nat) (r : Bind) (ctx : Ctx) (rung : Option (Nat × Nat)) : State :=
  let (blk, old, s) := match s.unboundFor core r with
    | some (k, b) => (k, b, s)
    | none =>
      let (k, s) := s.fresh
      (k, { regid := bRegid r, core := core, tStart := s.ns : Block }, s)
  let part := ((s.region? (bRegid r)).map Region.part).getD 0
  let grid := rung.isNone
  let b : Block :=
    { old with
      x := if grid then bX r else 0
      y := if grid then bY r else 0
      z := if grid then bZ r else 0
      core := core, tile0 := bTile0 r, ntile := bNtile r, wslot0 := bWslot0 r, snapSlot := bSnap r, rung := rung
      loc := .filling, ctx := ctx }
  let s := { s with snaps := s.snaps.erase (snapKey part (bSnap r)) }
  ((s.setBlock blk b).fillWindow core (bTile0 r) (bNtile r) [] 0).startBind blk r

/-- BIND_BLOCK (13 R315): the record at the head of a core's ring binds a block. -/
def execBindBlock (die core : Nat) (s : State) :
    Host.Outcome State Fault Refusal :=
  let c := die * Config.coresPerDie + core
  match s.head c 0 with
  | .none => .next s
  | .wait => .next s
  | .rejected s => .next s
  | .go r => match s.region? (bRegid r) with
    | none => .next (s.skipRecord c)
    | some g =>
      if (g.state ≠ 1 ∧ g.state ≠ 2) ∨ g.aborting then .next (s.skipRecord c)
      else .next (s.bindFresh c r (dispatchCtx g (bX r) (bY r) (bZ r)) none)

/-- The items of a rung warp that a record binds: of a block that starts again, lane for lane, or of a launch. -/
def State.rungItems (s : State) (core : Nat) (r : Bind) : Option (Nat × List (Option (Nat × Option Nat))) :=
  match s.unboundFor core r with
  | some (_, b) => match b.rung, b.ctx.warps with
    | some (lid, _), w :: _ => some (lid, w.lanes.map (fun l => l.item.map (fun i => (i, l.frame))))
    | _, _ => none
  | none => s.ladders.findSome? (fun e =>
      if e.2.die = dieOf core ∧ e.2.cluster = bX r then
        (e.2.launched.find? (fun x => x.rung == bY r && x.core == core && x.wslot0 == bWslot0 r)).map (fun x =>
          (e.1, x.items.map (fun i => some (i.id, i.frame))))
      else none)

/-- BIND_RUNG_WARP (09 R215): the ladder unit's record binds a rung warp with its items. -/
def execBindRungWarp (die core : Nat) (s : State) :
    Host.Outcome State Fault Refusal :=
  let c := die * Config.coresPerDie + core
  match s.head c 1 with
  | .none => .next s
  | .wait => .next s
  | .rejected s => .next s
  | .go r => match s.rungItems c r, s.region? (bRegid r) with
    | some (lid, items), some g => match s.ladders.get? lid with
      | some l =>
        let s := s.modLadder lid (fun l => { l with launched := l.launched.filter (fun x =>
          !(x.rung == bY r && x.core == c && x.wslot0 == bWslot0 r)) })
        .next (s.bindFresh c r (rungCtx g l.desc (bY r) items) (some (lid, bY r)))
      | none => .next (s.skipRecord c)
    | _, _ => .next (s.skipRecord c)

/-- Fields of a record place a block that starts from its snapshot. -/
def State.bindAgain (s : State) (core : Nat) (r : Bind) (blk : Nat) (check : Bool) : State :=
  let s := match s.block? blk with
    | some b => if b.core = core then s else s.enterCore blk b.core core
    | none => s
  let s := s.modBlock blk (fun b =>
    { b with
      core := core, tile0 := bTile0 r, wslot0 := bWslot0 r, loc := .filling, ctx := b.ctx.withTrailing check })
  match s.block? blk with
  | some b => (s.fillWindow core (bTile0 r) (bNtile r) b.imgWindow b.imgOwners).startBind blk r
  | none => s

/-- BIND_RESUME_SNAPSHOT (12 R286): a block goes on from its snapshot, with the window that it holds. -/
def execBindResumeSnapshot (die core : Nat) (s : State) :
    Host.Outcome State Fault Refusal :=
  let c := die * Config.coresPerDie + core
  match s.head c 2 with
  | .none => .next s
  | .wait => .next s
  | .rejected s => .next s
  | .go r => match s.unboundFor c r, s.region? (bRegid r) with
    | some (blk, _), some g => .next (s.bindAgain c r blk g.check)
    | _, _ => .next (s.skipRecord c)

/-- Lanes of a unit that a restored context holds parked for a forwarded fault resume, by re-issuing their logged
accesses (12 R283; 14 R334); those that a handler serves stay. -/
def State.resumeForwarded (s : State) (blk : Nat) (u : UnitRef) : State :=
  match s.unit? blk u with
  | none => s
  | some w =>
    let served := w.handler.bind (fun h => (w.lane h).park)
    let m := w.lanesWhere (fun l => l.status == .parked && (match l.park with
      | some p => p.delivered && !served.any p.sameFault
      | none => false))
    (s.resumeLanes blk u m).askHandler blk u

/-- Units of a block that issue for themselves. -/
def Block.units (b : Block) : List UnitRef := .front :: (List.range b.ctx.warps.length).map UnitRef.warp

/-- The issue mode of a block's context (04 R103). -/
def State.setMode (s : State) (blk : Nat) : State :=
  match s.block? blk with
  | none => s
  | some b => match s.region? b.regid with
    | none => s
    | some r =>
      let m := s.interlockOf (dieOf b.core) r
      s.modBlock blk (fun b => { b with ctx := { b.ctx with interlocked := m } })

/-- What a snapshot holds back for want of room in the buffer is tried again: stores and groups, and what waits behind them, or behind an
access that has faulted. -/
def State.retryHeld (s : State) (blk : Nat) : State :=
  match s.block? blk with
  | none => s
  | some b => (b.ctx.warps.flatMap (fun w => w.log.flatMap (fun e => (e.2.lanes.filter (fun x => x.phase == .held || x.phase == .after)).map (fun x =>
      if e.2.op == .sink then Instr.pageWalkDone e.1 x.page
      else if e.2.op.atomic then .atomicCompletion (respId e.1 x.lane) else .loadResponse (respId e.1 x.lane))))).foldl
        (fun (s : State) i => s.push i) s

/-- DISPATCH_START (13 R315): the window is filled: V is cleared, and the warps and the front thread start; a block in the standby bank
does with the switch that its record precedes (14 R339). -/
def execDispatchStart (blk : Nat) (s : State) :
    Host.Outcome State Fault Refusal :=
  match s.block? blk with
  | none => .next s
  | some b =>
    if b.loc ≠ .filling then .next s
    else
      let aside := toStandby (s.ring b.core)
      let s := ((s.bindOver b).modBlock blk (fun b => { b with loc := if aside then .standby else .live })).at (s.now + 1024)
        (.residenceEnergyCharge blk)
      let s := (s.setMode blk).retryHeld blk
      let s := b.units.foldl (fun (s : State) u => s.resumeForwarded blk u) s
      .next (((s.passFences blk).askCompletion blk).ringPump b.core)

/-! ## The end of a block (05 R114; 13 R323 to R325) -/

/-- The block record. -/
def State.blockRecord (s : State) (b : Block) (r : Region) (fate : Nat) : State :=
  if r.brecen && b.rung.isNone && r.crec != 0 then
    let i := b.x + r.gx * (b.y + r.gy * b.z)
    s.recordWrite r.die r.part b.regid (r.crec + 64 + 32 * i) (r.crec + 64 + 32 * i)
      (leBytes 1 b.status.toNat ++ leBytes 1 fate ++ leBytes 2 (min 255 b.relaunches) ++ leBytes 4 b.core
        ++ leBytes 8 b.energy.toNat ++ leBytes 8 b.tStart ++ leBytes 8 s.ns)
  else s

def fateCode : Fate → Nat
  | .killed => 1
  | .lost => 2
  | .aborted => 3
  | _ => 0

/-- A block has ended: its record, the region's counts, its slots and tiles (R323, R324). -/
def State.blockEnd (s : State) (blk : Nat) (b : Block) : State :=
  match s.region? b.regid with
  | none => s
  | some r =>
    let s := (s.blockRecord b r (fateCode b.fate)).modRegion b.regid (fun r =>
      { r with
        ndone := r.ndone + (if b.fate = .running ∨ b.fate = .done then 1 else 0)
        nlost := r.nlost + (if b.fate = .lost then 1 else 0)
        nkilled := r.nkilled + (if b.fate = .killed ∨ b.fate = .aborted then 1 else 0)
        maxStat := max r.maxStat b.status.toNat })
    let s := ((s.flushRecord b.regid).dropPending blk).freeBanks b.core blk
    let s := if b.loc = .filling then s.bindOver b else s
    let s := { s with blocks := s.blocks.erase blk, timers := s.timers.filter (fun e => e.2 != Instr.residenceEnergyCharge blk) }
    let s := s.leaveRecords b.core b.regid
    let s := match b.rung with
      | none => s
      | some (lid, k) => (s.modLadder lid (fun l => { l with flight := listMod l.flight k (· - 1) })).ladderSettle lid
    let s := ((s.ringPump b.core).pumpCluster (dieOf b.core) (clusterOf b.core % Config.clustersPerDie)).pumpLadders b.regid
    (s.regionCheck b.regid r.aborting).villek

/-- A bind record of a lost die: the block that it was to bind again ends as lost; one that it was to bind for the first time counts
as lost once (DESIGN CHOICE, notes/assumptions/100), and the items of such a rung warp are lost (09 R217). -/
def State.loseRecord (s : State) (core : Nat) (r : Bind) : State :=
  match s.unboundFor core r with
  | some (blk, _) => s.killBlock blk 0 .lost
  | none =>
    if (s.onCore core).any (fun e => e.2.loc == .filling && e.2.regid == bRegid r && e.2.wslot0 == bWslot0 r) then s
    else
      let s := s.modRegion (bRegid r) (fun x => { x with nlost := x.nlost + 1 })
      let mine := fun (x : Launched) => x.rung == bY r && x.core == core && x.wslot0 == bWslot0 r
      s.ladders.foldl (fun (s : State) e =>
        if bKind r = 1 ∧ e.2.die = dieOf core ∧ e.2.cluster = bX r then
          (e.2.launched.filter mine).foldl (fun (s : State) x =>
            let s := s.modLadder e.1 (fun l =>
              { l with launched := l.launched.filter (fun y => !mine y), flight := listMod l.flight x.rung (· - 1) })
            x.items.foldl (fun (s : State) i => s.loseItem e.1 i.id i.frame) s) s
        else s) s

/-- A DIE IS LOST to the regions that satisfy a test: their blocks there, and those that its rings were to bind there, end as lost;
the launches listed are aborted while they are live, so that their fault domains end with them (12 R300; 13 R307, R309, R324). -/
def State.loseOn (s : State) (p : Nat) (mine : Region → Bool) (kids : List Nat) : State :=
  let ofMine := fun (n : Nat) => (s.region? n).any mine
  let bound := (s.blocks.filter (fun e =>
    dieOf e.2.core == p && e.2.loc != .unbound && e.2.loc != .moved && ofMine e.2.regid)).map Prod.fst
  let due := fun (r : Bind) => bKind r != 3 && ofMine (bRegid r)
  let placed := (s.die p).rings.flatMap (fun x => (x.2.filter due).map (fun r => (p * Config.coresPerDie + x.1, r)))
  let again := placed.filterMap (fun x => (s.unboundFor x.1 x.2).map Prod.fst)
  let s := bound.foldl (fun (s : State) k => s.killBlock k 0 .lost) s
  let s := placed.foldl (fun (s : State) x => s.loseRecord x.1 x.2) s
  let s := s.modDie p (fun d => { d with rings := d.rings.mapVals (fun l => l.filter (fun r => !due r)) })
  let s := kids.foldl State.abort s
  let s := (bound ++ again).foldl (fun (s : State) k => match s.block? k with
    | some b => s.blockEnd k b
    | none => s) s
  let s := s.regions.foldl (fun (s : State) e => s.regionCheck e.1 e.2.aborting) s
  s.pumpRings (fun _ => true)

/-- BLOCK_COMPLETION (05 R114): a block whose last thread has left comes to its last commit point (12 R280, R284), and ends once its
stores are acknowledged and no engine command of it is in flight. -/
def execBlockCompletion (blk : Nat) (s : State) :
    Host.Outcome State Fault Refusal :=
  match s.block? blk with
  | none => .next s
  | some b =>
    if !b.over || s.cmds.any (fun e => e.2.dest.block == blk) || b.loc == .unbound then .next s
    else if b.fate = .running then
      if !b.exiting then .next (((s.modBlock blk (fun b => { b with exiting := true })).commit blk).askCompletion blk)
      else if b.commitDue || b.consumed.isSome then .next s
      else if (s.acksOf blk).isEmpty then .next (s.blockEnd blk b) else .next s
    else .next (s.blockEnd blk b)

/-! ## Limits and periodic charges (R309; 15 R365, R366) -/

/-- A region is past a limit: its own, or that of an ancestor, which bounds it whether or not it has limits of its own, and
whether or not the ancestor has completed (R304). -/
def State.pastLimit (s : State) : Nat → Region → Bool
  | 0, _ => false
  | n + 1, r =>
    (match r.deadline with
      | some d => decide (d ≤ s.ns)
      | none => false)
      || (r.elimit != 0 && decide (r.elimit * 4000000 < r.charged)) || (match r.parent.bind s.region? with
      | some p => s.pastLimit n p
      | none => false)

/-- LIMIT_CHECK (13 R309): live regions of a die that have passed a limit are aborted. -/
def execLimitCheck (die : Nat) (s : State) :
    Host.Outcome State Fault Refusal :=
  let live := s.regions.filter (fun e => e.2.die == die && (e.2.state == 1 || e.2.state == 2))
  if live.isEmpty then .next s
  else
    let late := live.filter (fun e => s.pastLimit (s.regions.length + 1) e.2)
    let s := s.at (s.now + limitPeriod) (.limitCheck die)
    .next (if late.isEmpty then s else ((late.foldl (fun (s : State) e => s.abort e.1) s).pumpRings (fun _ => true)).villek)

/-- EXEC_TIME_CHARGE (13 R321): time due goes to the region's launch record. -/
def execExecTimeCharge (region : Nat) (s : State) :
    Host.Outcome State Fault Refusal :=
  match s.region? region with
  | none => .next s
  | some r =>
    if r.state ≠ 2 then .next s
    else .next ((s.flushRecord region).at (s.now + limitPeriod) (.execTimeCharge region))

/-- RESIDENCE_ENERGY_CHARGE (15 R366): 1,024 cycles of residence of a block; one whose context stands in an image is not resident. -/
def execResidenceEnergyCharge (blk : Nat) (s : State) :
    Host.Outcome State Fault Refusal :=
  match s.block? blk with
  | none => .next s
  | some b =>
    if b.loc = .unbound then .next s
    else
      let s := if b.loc = .spilled ∨ b.loc = .moved then s else s.addEnergy blk 15 1
      .next (s.at (s.now + 1024) (.residenceEnergyCharge blk))

/-- What a stage starts runs: the stage has been passed (15 R357). -/
def Boot.runs (b : Boot) (stage : Nat) : Bool := decide (stage < b.stage) || (b.stage == stage && b.err == 0)

/-- ROOT_LAUNCH (13 R302): a die's management core takes the oldest root RCB; a refused one has STATE 5. Management cores run
from boot stage 7 on (15 R357). -/
def execRootLaunch (die : Nat) (s : State) :
    Host.Outcome State Fault Refusal :=
  if !s.boot.runs 7 then .next s
  else match (s.die die).rootQ with
  | [] => .next s
  | (part, pa) :: rest => .next ((s.modDie die (fun d => { d with rootQ := rest })).rootLaunch die part pa |>.villek)

/-! ## Consumed errors (12 R277, R282, R285, R286, R291) -/

/-- A CONSUMED ERROR, by the block's mode. -/
def State.recover (s : State) (blk : Nat) : State :=
  match s.block? blk with
  | none => s
  | some b => match b.consumed, s.region? b.regid with
    | some cause, some r =>
      let event := fun (s : State) (kind unit : Nat) => s.post kind unit (dieOf b.core) b.regid b.core
      let s := if cause = Cause.CHECK_MISMATCH then event s 0x07 3 else event s 0x03 b.errUnit
      let s := s.modBlock blk (fun b => { b with buf := [], consumed := none })
      let kill := fun (s : State) => event (s.killBlock blk 0xFE .killed) 0x09 6
      let freed := fun (s : State) => (s.ringPump b.core).pumpCluster (dieOf b.core) (clusterOf b.core % Config.clustersPerDie)
      if r.prot then
        if b.bypassed || decide (4 ≤ b.rollbacks) then kill s
        else match s.currentHalf b with
          | some h => if s.halfLost r.part b h then kill s else event (freed (s.rollback blk b h).villek) 0x08 6
          | none =>
            let s := (s.relaunchPlain blk b).modBlock blk (fun b => { b with rollbacks := b.rollbacks + 1 })
            event (freed s.villek) 0x08 6
      else if b.committed then kill s
      else event (freed (s.relaunchPlain blk b).villek) 0x08 6
    | _, _ => s

end Sys2Proof.Machine
end

