-- ==== Sys2Proof/Machine/Preempt.lean ====
section
/-! DEFINITION. Answers to forwarded faults, invalidation, code pages, bank switches, spills, restores, migration, world
switches, stolen counters (02 R56 to R58; 09 R230; 14 R331, R337 to R349). -/

namespace Sys2Proof.Machine

/-! ## Handlers and answers (R337, R338) -/

/-- HANDLER_ENTRY (14 R337): the handler starts for a unit's oldest fault, but never inside an issue unit (04 R96). -/
def execHandlerEntry (blk unit : Nat) (s : State) :
    Host.Outcome State Fault Refusal :=
  match s.block? blk, s.unit? blk (UnitRef.ofNum unit) with
  | some b, some w =>
    if b.loc ≠ .live then .next s
    else if w.hints.isEmpty then .next (s.enterHandler blk (UnitRef.ofNum unit))
    else .next (s.push (.handlerEntry blk unit))
  | _, _ => .next s

/-- The fault that an answer names, once it is taken from the queue. -/
def State.answered (s : State) (die seq : Nat) : Option (Nat × Waiting) :=
  s.waiting.find? (fun e => e.2.die == die && e.2.seq == seq && !e.2.answered)

def State.dropWaiting (s : State) (k : Nat) : State := { s with waiting := s.waiting.erase k }

/-- The answer at the head of a die's resume queue, where it asks for the action; `f` acts for a fault that waits. -/
def State.answer (s : State) (die : Nat) (kill : Bool) (again : Instr) (f : State → BitVec 64 → Nat → Waiting → State) : State :=
  match (s.die die).resumeQ with
  | [] => s
  | w :: rest =>
    if natBit w.toNat 32 != kill then s.push again
    else
      let s := s.modDie die (fun d => { d with resumeQ := rest })
      match s.answered die (field w 0 32) with
      | none => s
      | some (k, x) => match x.request with
        | some r => s.push (.enginePageAnswer r (!kill))
        | none => f s w k x

/-- UNPARK the lanes of a record that are still parked (09 R227; 14 R338). -/
def State.resumeParked (s : State) (blk : Nat) (u : UnitRef) (lanes : Word) : State :=
  match s.unit? blk u with
  | some w => s.resumeLanes blk u (lanes &&& w.parked)
  | none => s

/-- FAULT_RESUME_ANSWER (14 R338): the lanes of the fault resume; those of a spilled image do so at its restore (R342). -/
def execFaultResumeAnswer (die : Nat) (s : State) :
    Host.Outcome State Fault Refusal :=
  .next (s.answer die false (.faultResumeAnswer die) (fun s _ k x =>
    match s.block? x.block with
    | none => s.dropWaiting k
    | some b =>
      if b.loc = .spilled ∨ b.loc = .moved then { s with waiting := s.waiting.put k { x with answered := true } }
      else (s.dropWaiting k).resumeParked x.block (UnitRef.ofNum x.unit) x.lanes))

/-- FAULT_KILL_ANSWER (14 R338): the block of the fault ends as KILL ends it. -/
def execFaultKillAnswer (die : Nat) (s : State) :
    Host.Outcome State Fault Refusal :=
  .next (s.answer die true (.faultKillAnswer die) (fun s w k x =>
    (s.dropWaiting k).killBlock x.block (field w 40 8) .killed))

/-! ## Invalidation (R331) -/

/-- Reserved fields of a command, and the reserved size. -/
def invalBad (c : BitVec 128) : Bool :=
  field c 8 8 != 0 || field c 52 12 != 0 || field c 96 31 != 0 || (field c 5 2 == 3 && field c 7 1 == 0)

/-- The event for a malformed command: KIND, UNIT, REGION and LOC are free (notes/assumptions/45); DIE and DEV name the die, and the
reserved field reads as zero (12 R278). -/
def State.invalEvent (s : State) (die : Nat) (c : BitVec 128) : BitVec 128 :=
  setField (setField (setField (Config.invalidEvent c) 16 2 die) 18 6 s.devNum) 24 8 0

/-- A lane of an access has used a translation, and is neither performed nor faulted. -/
def LaneAcc.using (p : Leaf → Bool) (x : LaneAcc) : Bool :=
  !x.stuck && x.phase != .again && x.phase != .walking && x.leaf.any p

/-- An access of the die that has used a matching translation is not yet over: in an operand log, or in a block store buffer. -/
def State.usesLeaf (s : State) (die : Nat) (p : Leaf → Bool) : Bool :=
  s.blocks.any (fun e => dieOf e.2.core == die && (e.2.ctx.warps.any (fun w => w.log.any (fun a => a.2.lanes.any (LaneAcc.using p)))
    || e.2.buf.any (fun l => l.2.leaves.any p)))

/-- The oldest command that is not done. -/
def openInval : List (BitVec 128) → Option (BitVec 128)
  | [] => none
  | c :: l => if natBit c.toNat 127 then openInval l else some c

/-- The oldest open command is done. -/
def closeInval : List (BitVec 128) → List (BitVec 128)
  | [] => []
  | c :: l => if natBit c.toNat 127 then c :: closeInval l else setField c 127 1 1 :: l

/-- INVALIDATION_COMMAND (14 R331): matching translations go; the command is done when accesses that used them are. -/
def execInvalidationCommand (die : Nat) (s : State) :
    Host.Outcome State Fault Refusal :=
  match openInval (s.die die).invalQ with
  | none => .next s
  | some c =>
    let done := fun (s : State) => s.modDie die (fun d => { d with invalQ := closeInval d.invalQ })
    if invalBad c then .next (done { s with eventQ := s.eventQ ++ [s.invalEvent die c] })
    else
      let s := s.dropLeaves die (invalCovers c)
      if s.usesLeaf die (invalCovers c) then .next (s.push (.invalidationCommand die)) else .next (done s)

/-! ## Code pages (R347) -/

/-- Bytes of a code page, in pieces of 4 KiB; none where a piece has no translation in the partition's carve-outs (R343). -/
def State.codePage (s : State) (die part va : Nat) : Nat → Option (List Byte)
  | 0 => some []
  | n + 1 =>
    match s.translateEngine die part va { r := true } 0 false with
    | (.ok l, s) => (s.codePage die part (va + 4096) n).map (s.rdBytes (l.key va) 4096 ++ ·)
    | (.fault _ _, _) => none

/-- CODE_PAGE_HASH_DONE (14 R347): the page's hash against the manifest decides its state word, written by CAS. -/
def execCodePageHashDone (die region page : Nat) (s : State) :
    Host.Outcome State Fault Refusal :=
  let s := s.modDie die (fun d => { d with hashing := d.hashing.filter (· != (region, page)) })
  match s.region? region with
  | none => .next s
  | some r => match s.stateWordAt die r page, s.codePage die r.part (r.codeBase + page * 2 ^ 16) 16 with
    | some (stateVa, hashVa), some bytes =>
      match s.translateEngine die r.part stateVa { r := true } 0 false, s.translateEngine die r.part hashVa { r := true } 0 false with
      | (.ok ls, _), (.ok lh, _) =>
        let good := Config.sha384 bytes = BitVec.ofNat 384 (s.rdNat (lh.key hashVa) 48)
        if s.rdNat (ls.key stateVa) 4 ≠ 0 then .next s
        else
          let s := s.unitWrite die (ls.home stateVa) (stateVa % Config.lineBytes) (leBytes 4 (if good then 1 else 2))
          .next (if good then s else s.poisonObject die r)
      | _, _ => .next s
    | _, _ => .next s

/-! ## Bank switches and spills (02 R56 to R58; R339) -/

/-- A context at a switch: no reservations and no last pages, whether it comes or goes (02 R57); nothing half issued (R342), and no lag
that counts on (12 R291). -/
def Ctx.switched (c : Ctx) : Ctx :=
  { c with
    pairs := c.pairs.map (fun p => { p with since := none })
    warps := c.warps.map Warp.forSnap, trailing := c.trailing.map Warp.forSnap, front := c.front.forSnap }

/-- Blocks of a core at one place go to another. -/
def State.moveLoc (s : State) (core : Nat) (old : List Loc) (new : Loc) (f : Block → Block) : State :=
  { s with blocks := s.blocks.mapVals (fun b =>
      if b.core = core ∧ old.contains b.loc then { f b with loc := new } else b) }

/-- A context that comes into the live bank goes on where it stood. -/
def State.arrive (s : State) (blk : Nat) : State :=
  match s.block? blk with
  | none => s
  | some b => ((b.units.foldl (fun (s : State) u => s.askHandler blk u) s).passFences blk).askCompletion blk

/-- BANK_SWITCH (02 R56): live and standby bank of a core change places, once no block is being bound (R339). -/
def execBankSwitch (die core : Nat) (s : State) :
    Host.Outcome State Fault Refusal :=
  let c := die * Config.coresPerDie + core
  match s.head c 3 with
  | .none => .next s
  | .wait => .next s
  | .rejected s => .next s
  | .go _ =>
      let t := s.popRing c
      let back := (t.onCore c).filter (fun e => e.2.loc == .standby || e.2.loc == .spilling)
      let out := (t.onCore c).filter (fun e => e.2.loc == .live)
      let t := t.dropRecords c (fun _ => true)
      let t := out.foldl (fun (t : State) e => t.modBlock e.1 (fun b => { b with loc := .standby, ctx := b.ctx.switched })) t
      let t := back.foldl (fun (t : State) e => t.modBlock e.1 (fun b => { b with loc := .live, ctx := b.ctx.switched })) t
      let t := back.foldl (fun (t : State) e => t.arrive e.1) t
      let t := if out.isEmpty then t else t.push (.ashSpillDone die core)
      .next (((t.ringPump c).pumpCluster (dieOf c) (clusterOf c % Config.clustersPerDie)).villek)

/-- Every response that a context awaits has been written into it (02 R58). -/
def Block.settled (b : Block) : Bool :=
  b.quiet && (b.ctx.front :: b.ctx.warps).all (fun w => w.pend.isEmpty)

/-- 1 plus the highest set number in use by a warp (R340). -/
def Warp.usedSets (w : Warp) : Nat :=
  (List.range 16).foldl (fun m n => if w.mOf n ≠ 0 ∨ w.aOf n ≠ 0 ∨ w.waitingOn n ≠ 0 then n + 1 else m) 0

def Block.usedSets (b : Block) : Nat := b.ctx.warps.foldl (fun m w => max m w.usedSets) 0

/-- A wait mark as a number. -/
def Wait.code : Wait → Nat
  | .none => 0
  | .set n => 1 + 16 * n
  | .loopEnd k => 2 + 16 * k
  | .barrier k => 3 + 16 * k
  | .fence _ _ _ _ => 4
  | .submit _ => 5
  | .frame => 6

/-- The values of one lane that R340 names beside its registers: PC, wait mark, whether it is parked or has exited. -/
def Lane.values (l : Lane) : List Nat :=
  [l.pc, l.wait.code, (match l.status with | .running => 0 | .parked => 1 | .exited => 2)]

def Loop.values (x : Loop) : List Nat := [if x.active then 1 else 0, x.remaining, x.body, x.endPc, x.entry.toNat]

/-- The values of a warp in an image (R340; 02 R34): PC table and wait marks, scalars, predicates, sets, loops, ageing counters, the
coordinates and data of its operand log, and the registers that await tokens. -/
def Warp.values (w : Warp) : List Nat :=
  w.lanes.flatMap Lane.values ++ (List.range 32).map (fun n => (w.sAt n).toNat) ++ (List.range 7).map (fun k => (w.pred k).toNat)
    ++ (List.range 16).flatMap (fun n => [(w.mOf n).toNat, (w.aOf n).toNat]) ++ w.lc0.values ++ w.lc1.values
    ++ w.age.flatMap (fun e => [e.1, e.2])
    ++ w.log.flatMap (fun e => e.2.lanes.flatMap (fun x => x.lane :: x.coords.map BitVec.toNat ++ x.data.map BitVec.toNat))
    ++ w.pend.flatMap (fun e => [e.1, e.2])

/-- Handler mode, handler bank and trap registers of a unit. -/
def Warp.trapValues (w : Warp) : List Nat :=
  [(w.handler.map (· + 1)).getD 0] ++ (List.range 8).map (fun n => (w.sAt (56 + n)).toNat)
    ++ [w.trapCause.toNat, w.trapPc.toNat, w.trapMask.toNat, w.trapView.toNat, w.trapCoord.toNat]

/-- What the header holds of a block (R340): its region, SETLIM and USED, coordinates, trap state, barriers and decision queue. -/
def Block.values (b : Block) (r : Region) : List Nat :=
  [b.regid, r.setLim, b.usedSets, b.x, b.y, b.z] ++ (b.ctx.front :: b.ctx.warps).flatMap Warp.trapValues
    ++ (List.range 16).flatMap (fun k => let x := b.bar k
      [x.expected, x.nextExpected.getD 0, x.arrived, if x.phase then 1 else 0, x.pending.toNat])
    ++ b.ctx.dq.flatMap (fun e => [e.word.toNat, e.mask.toNat])

/-- A byte of a part of an image, by its free layout; what the layout leaves over is free as well. -/
def placed (values : List Nat) (place : Option (Nat × Nat)) (other : Byte) : Byte :=
  match place.bind (fun p => (values[p.1]?).map (fun x => BitVec.ofNat 8 (x / 2 ^ (8 * p.2)))) with
  | some b => b
  | none => other

/-- Bytes between the slots of a spill area: 640 KiB, and the tiles of every window that an image may carry (R340). -/
def spillStride : Nat := 0xA0000 + Config.tilesPerCore * Config.tileBytes

/-- Where a core's slot of its partition's spill area begins: the slots stand in the order of the partition's cores, each with room for
all the tiles of a core (DESIGN CHOICE, notes/assumptions/101). -/
def State.spillBase (s : State) (part core : Nat) : Nat :=
  let before := ((List.range core).filter (fun c => (s.core c).part == part)).length
  memKey s.devNum ((s.part part).spillArea + before * spillStride)

/-- Write the image of blocks of one core, its windows with it when they are moved, one behind the other (R340; notes/assumptions/101). -/
def State.writeImage (s : State) (core : Nat) (l : List (Nat × Block)) (moved : Bool) : State :=
  match l with
  | [] => s
  | (_, b) :: _ =>
    let part := ((s.region? b.regid).map Region.part).getD 0
    let base := s.spillBase part core
    let now := s.now
    let free := Config.imageByte now core
    let head := Config.stepping :: l.flatMap (fun e => match s.region? e.2.regid with
      | some r => e.2.values r
      | none => [])
    let s := s.wrArea base ((List.range 0x1000).map (fun o => placed head (Config.headerPlace o) (free o)))
    let s := l.foldl (fun (s : State) e =>
      let o := 0x1000 + 256 * (e.2.wslot0 % 16)
      s.wrArea (base + o) ((List.range 256).map (fun k => placed e.2.ctx.front.values (Config.frontPlace k) (free (o + k))))) s
    let slots := l.flatMap (fun e => mapFrom 0 (fun n w => (e.2.wslot0 + n, w)) e.2.ctx.warps
      ++ mapFrom 0 (fun n w => (e.2.wslot0 + 32 + n, w)) e.2.ctx.trailing)
    let s := slots.foldl (fun (s : State) e =>
      let o := 0x2000 + 1024 * e.1
      let v := 0x12000 + 7680 * e.1
      let taint := e.2.lanes.map (fun x => x.taint.toNat)
      let s := s.wrArea (base + o) ((List.range 1024).map (fun k => placed e.2.values (Config.warpPlace k) (free (o + k))))
      s.wrArea (base + v) ((List.range 7680).map (fun k =>
        if k < 7168 then e.2.regByte k else placed taint (Config.taintPlace (k - 7168)) (free (v + k))))) s
    if moved then
      (l.foldl (fun (a : Nat × State) e =>
        let (win, _) := a.2.window e.2
        let n := e.2.ntile * Config.tileBytes
        (a.1 + n, a.2.wrArea (base + 0xA0000 + a.1) ((List.range n).map (win.getD 0)))) (0, s)).2
    else s

/-- A block leaves its core with its window in its image; its stores are released (R344, R349). -/
def State.moveOut (s : State) (image blk : Nat) : State :=
  match s.block? blk with
  | none => s
  | some b =>
    let s := s.release blk
    let (win, own) := s.window b
    ((s.freeBanks b.core blk).modBlock blk (fun b =>
      { b with loc := .moved, ctx := b.ctx.switched, imgWindow := win, imgOwners := own, image := some image })).leaveRecords b.core b.regid

/-- Blocks of a core leave it together, in one image. -/
def State.moveAll (s : State) (core : Nat) (l : List (Nat × Block)) : State :=
  let (image, s) := s.fresh
  l.foldl (fun (s : State) e => s.moveOut image e.1) (s.writeImage core l true)

/-- ASH_SPILL_DONE (02 R58): contexts of the standby bank are in their images, once nothing is outstanding. Where a class-0 block is to
have the core, and wants tiles, their windows leave it with them (13 R311; R340). -/
def execAshSpillDone (die core : Nat) (s : State) :
    Host.Outcome State Fault Refusal :=
  let c := die * Config.coresPerDie + core
  let l := s.standby c
  if l.isEmpty then .next s
  else if !l.all (fun e => e.2.settled) then .next ((s.moveLoc c [.standby] .spilling id).push (.ashSpillDone die core))
  else if s.claimed c && !(s.onCore c).any (fun e => e.2.inLive) then
    let aside := (s.onCore c).filter (fun e => e.2.loc == .spilled)
    .next ((((s.moveAll c l).moveAll c aside).ringPump c).villek)
  else
    let (image, s) := s.fresh
    .next (((s.writeImage c l false).moveLoc c [.standby, .spilling] .spilled (fun b => { b with image := some image })).ringPump c).villek

/-! ## Restores (R341) -/

/-- A core's standby bank holds an earlier context, which the spill engine has to spill before another comes in (R339). -/
def State.standbyTaken (s : State) (b : Block) (core : Nat) : Bool := (s.standby core).any (fun e => e.2.image != b.image)

/-- The context's window and its slots fit the standby bank of a core of its partition that is enabled (00 R4). -/
def State.restoreFits (s : State) (blk : Nat) (b : Block) (r : Region) (core tile0 wslot0 : Nat) : Bool :=
  let others := (s.onCore core).filter (fun e => e.1 != blk)
  let tiles := (List.range b.ntile).map (tile0 + ·)
  let slots := slotRun wslot0 b.ctx.warps.length (!b.ctx.trailing.isEmpty)
  let stays := b.loc = .spilled ∧ b.core = core
  s.coreFor r core && decide (tile0 + b.ntile ≤ Config.tilesPerCore) && slots.all (fun x => decide (x < Config.warpSlots))
    && (r.cls == 0 || b.ntile == 0 || decide (32 ≤ tile0))
    && (if stays then tile0 == b.tile0 else !tiles.any (others.flatMap (fun e => e.2.tiles)).contains)
    && !slots.any ((others.filter (fun e => e.2.loc == .standby || e.2.loc == .spilling)).flatMap (fun e => e.2.slots)).contains

/-- Lanes whose answer came while their context stood in an image resume. -/
def State.resumeAnswered (s : State) (blk : Nat) : State :=
  (s.waiting.filter (fun e => e.2.block == blk && e.2.answered)).foldl (fun (s : State) e =>
    (s.dropWaiting e.1).resumeParked blk (UnitRef.ofNum e.2.unit) e.2.lanes) s

/-- RESTORE_REQUEST (14 R341): an image goes into a core's standby bank, once an earlier context there is spilled, or its request has the
status RESTORE_CAPACITY. -/
def execRestoreRequest (blk die core tile0 wslot0 step : Nat) (s : State) :
    Host.Outcome State Fault Refusal :=
  match s.block? blk with
  | none => .next s
  | some b => match s.region? b.regid with
    | none => .next s
    | some r =>
      let c := die * Config.coresPerDie + core
      if b.loc ≠ .spilled ∧ b.loc ≠ .moved then .next s
      else if step ≠ Config.stepping ∨ min 16 r.setLim < b.usedSets ∨ !s.restoreFits blk b r c tile0 wslot0 then
        .next { s with restores := s.restores ++ [(blk, Cause.RESTORE_CAPACITY)] }
      else if s.standbyTaken b c then
        .next ((if (s.ring c).isEmpty && (s.standby c).any (fun e => e.2.loc == .standby) then s.pushOnce (.ashSpillDone die core) else s).push
          (.restoreRequest blk die core tile0 wslot0 step))
      else
        let stays := b.loc = .spilled ∧ b.core = c
        let (win, own) := if b.loc = .moved then (b.imgWindow, b.imgOwners) else s.window b
        let s := s.modBlock blk (fun b => { b with loc := .standby, core := c, tile0 := tile0, wslot0 := wslot0, stopping := false })
        let s := if stays then s else s.fillWindow c tile0 b.ntile win own
        let s := (if b.core = c then s else (s.leaveRecords b.core b.regid).enterCore blk b.core c).setMode blk
        .next ({ s.resumeAnswered blk with restores := s.restores ++ [(blk, 0)] }).villek

/-! ## Migration (R349) -/

/-- Every lane of a unit has halted: it has exited, or stands at a safe point. -/
def Warp.halted (w : Warp) (codeBase : Nat) : Bool :=
  w.hints.isEmpty && w.chain.isNone && w.handler.isNone && w.log.isEmpty && w.pend.isEmpty
    && w.lanes.all (fun l => l.status == .exited || Config.safePoint codeBase l.pc)

/-- MIGRATION_STOP (14 R349): a block issues on to safe points, and is then spilled whole; one with a parked lane runs on, and so does one
that has reached no safe points when its region's time is over. -/
def execMigrationStop (blk : Nat) (s : State) :
    Host.Outcome State Fault Refusal :=
  match s.block? blk with
  | none => .next s
  | some b => match s.region? b.regid with
    | none => .next s
    | some r =>
      let units := b.ctx.front :: b.ctx.warps
      if b.fate ≠ .running ∨ b.loc = .unbound ∨ b.loc = .moved ∨ b.loc = .spilled then .next s
      else if units.any (fun w => w.parked != 0) then .next (s.modBlock blk (fun b => { b with stopping := false }))
      else if b.loc = .live ∧ units.all (fun w => w.halted r.codeBase) ∧ !s.cmds.any (fun e => e.2.dest.block == blk) then
        let s := s.moveAll b.core [(blk, b)]
        .next (((s.ringPump b.core).pumpCluster (dieOf b.core) (clusterOf b.core % Config.clustersPerDie)).villek)
      else if r.deadline.any (fun d => decide (d ≤ s.ns)) then .next (s.modBlock blk (fun b => { b with stopping := false }))
      else .next ((s.modBlock blk (fun b => { b with stopping := true })).push (.migrationStop blk))

/-! ## World switches (R344) -/

/-- Nothing keeps a core's blocks from leaving. -/
def State.coreClear (s : State) (core : Nat) : Bool :=
  (s.ring core).isEmpty && (s.onCore core).all (fun e =>
    e.2.loc != .filling && e.2.loc != .live && e.2.settled && !s.cmds.any (fun c => c.2.dest.block == e.1)
      && !s.sunk.any (fun k => k.2.block == e.1))

/-- A core changes hands: its blocks leave, what it holds of the old partition goes. -/
def State.handOver (s : State) (part core : Nat) : State :=
  let s := s.moveAll core (s.onCore core)
  let s := { s with ladders := s.ladders.mapVals (fun l => { l with reserve := l.reserve.filter (fun x => x.1 != core) }) }
  s.modCore core (fun k => { k with l1 := [], tlb := [], records := [], engTiles := 0, sp := [], spBad := [], part := part })

/-- WORLD_SWITCH (14 R344): a cluster goes to another partition, once its blocks stand in their images, and an invalidation of all that the
die holds of the old one is complete. -/
def execWorldSwitch (die cluster part : Nat) (s : State) :
    Host.Outcome State Fault Refusal :=
  let cores := clusterCores die cluster
  let s := cores.foldl (fun (s : State) c =>
    (s.moveLoc c [.live] .standby (fun b => { b with ctx := b.ctx.switched })).dropRecords c (fun _ => true)) s
  let old := (cores.map (fun c => (s.core c).part)).filter (· != part)
  let gone := fun (l : Leaf) => old.contains l.part
  if !cores.all s.coreClear then .next (s.push (.worldSwitch die cluster part))
  else
    let s := cores.foldl (fun (s : State) c => (s.onCore c).foldl (fun (s : State) e => s.release e.1) s) s
    let s := s.dropLeaves die gone
    if !s.usesLeaf die gone then .next (cores.foldl (fun (s : State) c => s.handOver part c) s).villek
    else .next (s.push (.worldSwitch die cluster part))

/-! ## Stolen counters (09 R230; R344) -/

/-- COUNTER_STEAL (09 R230): the hypervisor takes a bank: its counters are frozen as a copy. -/
def execCounterSteal (core bank : Nat) (s : State) :
    Host.Outcome State Fault Refusal :=
  .next (s.modCore core (fun k =>
    { k with banks := k.banks.putD {} (bank % 4) { k.banks.getD {} (bank % 4) with stolen := true } }))

/-- COUNTER_RETURN (14 R344): a bank is handed back with its copy's values. -/
def execCounterReturn (core bank : Nat) (s : State) :
    Host.Outcome State Fault Refusal :=
  .next (s.modCore core (fun k =>
    { k with banks := k.banks.putD {} (bank % 4) { k.banks.getD {} (bank % 4) with stolen := false } }))

end Sys2Proof.Machine
end

