-- ==== Sys2Proof/Machine/Upkeep.lean ====
section
/-! DEFINITION. What management does: calendars, DRAM scrub and repair, resets, boot and measurements, telemetry and the
clock, stops, weights, management registers (00 R6; 02 R59; 12 R275, R293 to R296; 13 R316; 15 R354 to R366). -/

namespace Sys2Proof.Machine

/-- A step comes due at a time, once. -/
def State.arm (s : State) (t : Nat) (i : Instr) : State := if s.timers.any (fun e => e.2 == i) then s else s.at t i

/-! ## Calendars (13 R316) -/

/-- Clock of a unit, in MHz. -/
def CalUnit.mhz : CalUnit → Nat
  | .pseudoChannel _ _ => 800
  | .fabric _ => 875
  | _ => 940

/-- The die whose clock a unit runs at. -/
def CalUnit.die? : CalUnit → Option Nat
  | .quadrant d _ _ => some d
  | .router d _ => some d
  | .engine d _ => some d
  | _ => none

/-- The first cycle at or after the unit's next slot 0. -/
def State.nextZero (s : State) (u : CalUnit) : Nat :=
  match u.die? with
  | some d => s.now + (256 - s.dieCycles d % 256)
  | none =>
    let period := 256 * 940
    let k := s.now * u.mhz / period + 1
    (k * period + u.mhz - 1) / u.mhz

/-- The calendar of a unit. -/
def State.calOf (s : State) (u : CalUnit) : Cal := ((s.cals.find? (fun e => e.1 == u)).map Prod.snd).getD {}
def State.setCal (s : State) (u : CalUnit) (c : Cal) : State :=
  { s with cals := s.cals.filter (fun e => e.1 != u) ++ [(u, c)] }

/-- CALENDAR_WRITE (13 R316): a calendar is staged; the unit adopts it at its next slot 0. -/
def execCalendarWrite (unit : CalUnit) (cal : List (BitVec 16)) (s : State) :
    Host.Outcome State Fault Refusal :=
  .next ((s.setCal unit { s.calOf unit with staged := some ((cal.take 256).map (· &&& 0x1F1F)) }).arm (s.nextZero unit) (.calendarAdopt unit))

/-- CALENDAR_ADOPT (13 R316): the staged calendar comes into force. -/
def execCalendarAdopt (unit : CalUnit) (s : State) :
    Host.Outcome State Fault Refusal :=
  match (s.calOf unit).staged with
  | none => .next s
  | some l => .next (s.setCal unit { live := l, staged := none })

/-! ## DRAM repair (12 R275, R293 to R296) -/

/-- What is known of a line's DRAM location. -/
def State.setDram (s : State) (die line : Nat) (x : Option (Option Nat)) : State :=
  s.modDie die (fun d => { d with dram := match x with
    | some e => d.dram.put line e
    | none => d.dram.erase line })

/-- PATROL_SCRUB (12 R275): a line of a die's DRAM is read and corrected, or poisoned there: what the home slice holds of it is good
still. Its location is failing once a demand access finds it so (R293). -/
def execPatrolScrub (die line : Nat) (found : ScrubResult) (s : State) :
    Host.Outcome State Fault Refusal :=
  match found with
  | .clean => .next (s.setDram die line none)
  | .corrected pin => .next ((s.setDram die line none).correct die line pin true)
  | .beyond =>
    if s.poison.contains line then .next s
    else
      let s := s.setDram die line (some none)
      let s := if s.llcHolds die line then s else { s with poison := s.poison ++ [line] }
      .next (s.post 0x02 6 die 0xFFFFFFFF (line * Config.lineBytes % Config.addrSpace))

/-- Hard repair of a die's pending entries: the fused ones are cleared, the others repaired softly again (R296). -/
def Die.fuse (d : Die) : Die :=
  let left := d.pendingRepairs.filter (fun r => !Config.fusable r.word)
  let count := fun (pins : Bool) => left.foldl (fun (t : Table Nat) r =>
    if (field r.word 1 2 == 2) == pins then t.put (field r.word 5 6) (t.getD 0 (field r.word 5 6) + 1) else t) []
  { d with pendingRepairs := left, repairs := left, spareRows := count false, spareLanes := count true }

def Die.fused (d : Die) : Nat := (d.pendingRepairs.filter (fun r => Config.fusable r.word)).length

/-- The repair counts of the boot status record. -/
def State.countRepairs (s : State) (fused : Nat) : State :=
  { s with boot := { s.boot with fused := fused, pend := s.dies.foldl (fun n e => n + e.2.pendingRepairs.length) 0 } }

/-! ## Resets (02 R59; 12 R296; 15 R359) -/

/-- Entries of a die's list whose error lies beyond their code are discarded, each with an event (R274). -/
def State.dropBadRepairs (s : State) (die : Nat) : State :=
  let lost := (s.die die).pendingRepairs.filter Repair.bad
  let s := if lost.isEmpty then s
    else s.modDie die (fun d => { d with pendingRepairs := d.pendingRepairs.filter (fun r => !r.bad) })
  lost.foldl (fun (s : State) _ => s.post 0x02 9 die 0xFFFFFFFF 0) s

/-- A die as a reset leaves it. -/
def Die.reset (d : Die) : Die := { ({} : Die) with pendingRepairs := d.pendingRepairs, dram := d.dram }.fuse

/-- A core as a reset leaves it: its cycles count from now; it stays in its partition. -/
def Core.reset (c : Core) (now : Nat) : Core := { cycle0 := now, part := c.part }

/-- What the part holds for blocks that are gone, and the blocks themselves. -/
def State.forget (s : State) (gone : Nat → Block → Bool) : State :=
  let ids := (s.blocks.filter (fun e => gone e.1 e.2)).map Prod.fst
  { s with
    blocks := s.blocks.filter (fun e => !ids.contains e.1)
    cmds := s.cmds.filter (fun e => !ids.contains e.2.dest.block)
    waiting := s.waiting.filter (fun e => !ids.contains e.2.block)
    sunk := s.sunk.filter (fun e => !ids.contains e.2.block)
    acks := s.acks.filter (fun e => !ids.contains e.2.block) }

/-- Regions are gone, with their blocks wherever they stand, and what the part holds for them. -/
def State.forgetRegions (s : State) (mine : List Nat) : State :=
  let gone := s.blocks.filter (fun e => mine.contains e.2.regid)
  let s := gone.foldl (fun (s : State) e => s.freeBanks e.2.core e.1) s
  let s := mine.foldl State.dropBinds (s.forget (fun _ b => mine.contains b.regid))
  let s := gone.foldl (fun (s : State) e => s.leaveRecords e.2.core e.2.regid) s
  { s with
    regions := s.regions.filter (fun e => !mine.contains e.1)
    ladders := s.ladders.filter (fun e => !mine.contains (dRegion e.2.desc)) }

/-- THE RESET OF A DIE: the regions that it accepted are gone with their blocks, other blocks on it are lost, none is left bound there, its
cores and its own state start afresh. -/
def State.resetDie (s : State) (die : Nat) : State :=
  let s := s.forgetRegions ((s.regions.filter (fun e => e.2.die == die)).map Prod.fst)
  let s := { s with
    ladders := s.ladders.filter (fun e => e.2.die != die)
    pageReqs := s.pageReqs.filter (fun e => e.2.die != die) }
  let s := (s.loseOn die (fun _ => true) []).forget (fun _ b => dieOf b.core == die && b.loc != .unbound && b.loc != .moved)
  let s := { s with
    sunk := s.sunk.filter (fun e => dieOf e.2.core != die)
    fenced := s.fenced.map (fun (f : Fenced) => if f.peer = die then { f with reset := true } else f) }
  let s := s.dropBadRepairs die
  let fused := (s.die die).fused
  let s := s.modDie die Die.reset
  let s := (List.range Config.coresPerDie).foldl (fun (s : State) c =>
    s.modCore (die * Config.coresPerDie + c) (fun k => k.reset s.now)) s
  (s.countRepairs fused).villek

/-- DIE_RESET (02 R59): one die is reset, and runs boot stages 6 and 7 again. -/
def execDieReset (die : Nat) (s : State) :
    Host.Outcome State Fault Refusal :=
  if die < 4 then .next (s.resetDie die) else .next s

/-- DEVICE_RESET (02 R59): what runs is gone, and what the part holds is as at reset; memory, measurements, boot status
and the queues of the system cores stay. -/
def execDeviceReset (s : State) :
    Host.Outcome State Fault Refusal :=
  let s := (List.range Config.dies).foldl State.dropBadRepairs s
  let fused := (List.range Config.dies).foldl (fun n d => n + (s.die d).fused) 0
  let t : State :=
    { mem := s.mem, poison := s.poison, faultQ := s.faultQ, eventQ := s.eventQ, boot := s.boot, meas := s.meas, quote := s.quote
      powered := s.powered, now := s.now, next := s.next, drawn := s.drawn
      timers := s.timers.filter (fun e => match e.2 with
        | .heartbeatSend => true
        | .clockGovern _ => true
        | _ => false)
      dies := Table.mapVals (s.dies.filter (fun e => !e.2.pendingRepairs.isEmpty || !e.2.dram.isEmpty)) Die.reset
      cores := (List.range (Config.dies * Config.coresPerDie)).map (fun c => (c, { cycle0 := s.now })) }
  .next (t.countRepairs fused)

/-! ## Boot and attestation (15 R357 to R359) -/

/-- The boot status record (R358). -/
def Boot.record (b : Boot) : BitVec 512 :=
  let put := fun (w : BitVec 512) (x : Nat × Nat × Nat) => setField w x.1 x.2.1 x.2.2
  [(0, 4, b.stage), (4, 8, b.err), (16, 48, b.clus.toNat), (64, 16, b.arr.toNat), (80, 32, b.dlay.toNat), (112, 72, b.fport.toNat),
   (184, 32, b.fused), (216, 32, b.pend), (248, 32, b.version)].foldl put 0

/-- A measurement register takes in a digest. -/
def State.extend (s : State) (reg : Nat) (digest : BitVec 384) : State :=
  let old := (s.meas.getD 0 reg).toNat
  { s with meas := s.meas.put reg (Config.sha384 (leBytes 48 old ++ leBytes 48 digest.toNat)) }

/-- Boot stages from one up to and with another have been passed. -/
def State.stages (s : State) (first last version : Nat) : State :=
  let in' := fun (k : Nat) => decide (first ≤ k) && decide (k ≤ last)
  let s := if in' 1 then s.extend 0 (Config.bootDigest 0) else s
  let s := if in' 5 then { s with boot := { s.boot with version := version % 2 ^ 32 } }.extend 1 (Config.bootDigest 1) else s
  let s := if in' 6 then
      let s := s.dies.foldl (fun (s : State) e => s.dropBadRepairs e.1) s
      let fused := s.dies.foldl (fun n e => n + e.2.fused) 0
      ({ s with dies := s.dies.mapVals Die.fuse }.countRepairs fused).extend 3 (Config.bootDigest 3)
    else s
  if in' 7 then
    let s := (s.extend 2 (Config.bootDigest 2)).arm (s.now + 94000) .heartbeatSend
    (List.range Config.dies).foldl (fun (s : State) d => s.arm (s.now + 9400) (.clockGovern d)) s
  else s

/-- The error code of a stage that fails for what it meets: at stage 5, the signature (R358). -/
def bootError (stage : Nat) : Nat := if stage ≤ 5 then stage else stage + 1

/-- The stage at which the boot stops, and its error: one that fails, or stage 5 for a version below the fused counter (R357). What is
said to fail there for its version fails for nothing else. -/
def Boot.failure (b : Boot) (first version : Nat) (fails : Option (Nat × Bool)) : Option (Nat × Nat) :=
  let old := decide (version < b.minVersion)
  match fails with
  | none => if old then some (5, 6) else none
  | some (k, e) =>
    let k := max first (min k 8)
    if k < 5 ∨ (k = 5 ∧ !e) then some (k, bootError k)
    else if old then some (5, 6)
    else if k = 5 then none
    else some (k, bootError k)

/-- The boot runs on from a stage: to its end, or to the stage that fails, with its error. -/
def State.bootFrom (s : State) (first version : Nat) (fails : Option (Nat × Bool)) : State :=
  match s.boot.failure first version fails with
  | none => let s := s.stages first 9 version; { s with boot := { s.boot with stage := 9, err := 0 } }
  | some (k, e) =>
    let s := s.stages first (k - 1) version
    { s with boot := { s.boot with stage := k, err := e } }


/-- POWER_ON (15 R357): the root-of-trust core boots the package, as far as no stage fails. -/
def execPowerOn (fails : Option (Nat × Bool)) (version : Nat) (s : State) :
    Host.Outcome State Fault Refusal :=
  if s.powered then .next s else .next ({ s with powered := true }.bootFrom 1 version fails)

/-- BOOT_RETRY (15 R357): stages 3 to 5 are tried again on the next port; where they pass, the boot goes on. -/
def execBootRetry (run : BootRun) (s : State) :
    Host.Outcome State Fault Refusal :=
  .next (if s.powered ∧ s.boot.err ≠ 0 ∧ 3 ≤ s.boot.stage ∧ s.boot.stage ≤ 5 then s.bootFrom 3 run.version run.fails else s)

/-- ATTESTATION_QUOTE (15 R359): the eight registers, signed with the nonce. -/
def execAttestationQuote (nonce : BitVec 256) (s : State) :
    Host.Outcome State Fault Refusal :=
  let regs := (List.range 8).map (s.meas.getD 0)
  .next { s with quote := some (nonce, regs, Config.quoteSignature nonce regs) }

/-- MEASUREMENT_EXTEND (15 R359): system software extends registers 4 to 7. -/
def execMeasurementExtend (reg : Nat) (digest : BitVec 384) (s : State) :
    Host.Outcome State Fault Refusal :=
  if 4 ≤ reg ∧ reg ≤ 7 then .next (s.extend reg digest) else .next s

/-! ## Telemetry and the clock (15 R360, R361) -/

/-- TELEMETRY_REPORT (15 R360): the regulators' readings; FSTEP is the clock in force. -/
def execTelemetryReport (die : Nat) (record : BitVec 256) (s : State) :
    Host.Outcome State Fault Refusal :=
  .next (s.modDie die (fun d => { d with telemetry := setField (setField record 192 8 d.fstep) 200 56 0 }))

/-- A reading is above a limit times so many percent of it, or stays below it; a limit of 0 is none. -/
def Die.hot (d : Die) : Bool :=
  (d.powerCap != 0 && decide (d.powerCap * 10 < field d.telemetry 32 16))
    || (d.boilFlux != 0 && decide (d.boilFlux * d.boilPercent < field d.telemetry 176 16 * 10))

def Die.calm (d : Die) : Bool :=
  (d.powerCap == 0 || decide (field d.telemetry 32 16 * 10 < d.powerCap * 95))
    && (d.boilFlux == 0 || decide (field d.telemetry 176 16 * 1000 < d.boilFlux * d.boilPercent * 95))

/-- One check of the limits: each that has both below 95 % for 1 ms raises the clock by a step. -/
def Die.govern (d : Die) (now : Nat) : Die :=
  if d.hot then { d with fstep := max 10 (d.fstep - 1), calmSince := none }
  else if !d.calm then { d with calmSince := none }
  else match d.calmSince with
    | none => { d with calmSince := some now }
    | some t => if t + 940000 ≤ now then { d with fstep := min 20 (d.fstep + 1) } else d

/-- CLOCK_GOVERN (15 R361): every 10 µs the clock goes down a step over a limit, and up a step after 1 ms below both. -/
def execClockGovern (die : Nat) (s : State) :
    Host.Outcome State Fault Refusal :=
  .next ((s.modDie die (fun d => d.govern s.now)).arm (s.now + 9400) (.clockGovern die))

/-! ## Stops and weights (15 R364, R366) -/

/-- STOP_REQUEST (15 R364): what matches stops at its next boundary, or once the trigger's watch unit matches. -/
def execStopRequest (pat : StopPattern) (s : State) :
    Host.Outcome State Fault Refusal :=
  .next { s with stops := s.stops ++ [{ pat := pat }] }

/-- STOP_RESUME (15 R364): both sides go on together. -/
def execStopResume (s : State) :
    Host.Outcome State Fault Refusal :=
  .next { s with stops := [] }

/-- ENERGY_WEIGHT_WRITE (15 R366): a class's weight, for events from now on. -/
def execEnergyWeightWrite (die cls : Nat) (weight : BitVec 16) (s : State) :
    Host.Outcome State Fault Refusal :=
  .next (s.modDie die (fun d => { d with weights := listMod d.weights cls (fun _ => weight.toNat) }))

/-! ## Management registers and tables (00 R6) -/

/-- A command enters the invalidation queue of 64; one that is done makes room (14 R331). -/
def State.queueInval (s : State) (die : Nat) (cmd : BitVec 128) : State :=
  let q := (s.die die).invalQ
  let q := if q.length < 64 then q else match q with
    | c :: l => if natBit c.toNat 127 then l else q
    | [] => q
  if q.length < 64 then
    (s.modDie die (fun d => { d with invalQ := q ++ [setField cmd 127 1 0] })).push (.invalidationCommand die)
  else s

/-- A port may join a new link. -/
def State.portFree (s : State) (p : Nat) : Bool := decide (p < 72) && ((s.ports.getD {} p).link == 0x7F) && natBit s.boot.fport.toNat p

/-- A port's record, as a member of a link. -/
def State.joinPort (s : State) (link memb port : Nat) : State :=
  let r : Port :=
    { s.ports.getD {} port with link := link, memb := memb, up := true, mval := false, eyeH := 0, eyeW := 0, berX := 0, temp := 0 }
  { s with ports := s.ports.put port r }

/-- Ports become a link, its members in ascending order of their numbers (15 R350). -/
def State.formLink (s : State) (link : Nat) (ports : List Nat) (peer : Nat) : State :=
  let ports := (List.range 72).filter ports.contains
  if link < 0x7F ∧ (s.links.get? link).isNone ∧ [1, 2, 4, 8, 16].contains ports.length ∧ ports.all s.portFree ∧ peer < 64 then
    let s := { s with links := s.links.put link { formed := ports, members := ports, peer := peer } }
    (mapFrom 0 (fun k p => (k, p)) ports).foldl (fun (s : State) e => s.joinPort link e.1 e.2) s
  else s

def State.modPart (s : State) (p : Nat) (f : Partition → Partition) : State :=
  if p < 20 then { s with parts := s.parts.put p (f (s.part p)) } else s

/-- A watch unit's range: a power of two of bytes, from 4 to 1 TiB, aligned to its size (15 R363). -/
def watchRange (base size : Nat) : Bool := (List.range 39).any (fun k => size == 2 ^ (k + 2)) && base % size == 0

/-- A write to a register or table. -/
def State.writeRegister (s : State) : MgmtWrite → State
  | .troot die part pa => if pa % 2 ^ 16 = 0 then s.modDie die (fun d => { d with troot := d.troot.put part pa }) else s
  | .hintTable die part pa count => s.modDie die (fun d => { d with hintTable := d.hintTable.put part (pa, count) })
  | .invalidation die cmd => s.queueInval die cmd
  | .resumeAnswer die word =>
    (s.modDie die (fun d => { d with resumeQ := d.resumeQ ++ [word] })).push
      (if natBit word.toNat 32 then .faultKillAnswer die else .faultResumeAnswer die)
  | .rootQueue die part pa =>
    if (s.die die).rootQ.length < 64 then
      (s.modDie die (fun d => { d with rootQ := d.rootQ ++ [(part, pa)] })).push (.rootLaunch die)
    else s
  | .deviceNumber dev => { s with devNum := dev % 64 }
  | .carveOut part base len =>
    if base % 2 ^ 30 = 0 ∧ len % 2 ^ 30 = 0 ∧ (s.part part).carveOuts.length < 16 then
      s.modPart part (fun p => { p with carveOuts := p.carveOuts ++ [(p.carveOuts.length, (base, len))] })
    else s
  | .counterAllow part allow => s.modPart part (fun p => { p with counters := allow })
  | .snapshotArea part pa => s.modPart part (fun p => { p with snapArea := pa })
  | .spillArea part pa => s.modPart part (fun p => { p with spillArea := pa })
  | .channels part links => s.modPart part (fun p => { p with channels := some links })
  | .formLink link ports peer => s.formLink link ports peer
  | .route die dev link => { s with route := s.route.put (die * 64 + dev % 64) link }
  | .portThreshold port which value =>
    { s with ports := s.ports.put port (match which with
        | 0 => { s.ports.getD {} port with eyeHMin := value % 256 }
        | 1 => { s.ports.getD {} port with berXMin := value % 256 }
        | _ => { s.ports.getD {} port with tempMax := value % 256 }) }
  | .ethernetPort port lines => if port < 6 ∧ [1, 2, 4].contains lines then { s with eth := s.eth.put port lines } else s
  | .powerCap die watts => s.modDie die (fun d => { d with powerCap := min watts 700 })
  | .boilingLimit die flux percent => s.modDie die (fun d => { d with boilFlux := flux, boilPercent := max 50 (min percent 95) })
  | .watch die core unit base size kinds part regid =>
    let w : Watch := { base := base, size := size, kinds := kinds, part := part, regid := regid }
    if unit < 4 ∧ core < Config.coresPerDie ∧ watchRange base size then
      s.modCore (die * Config.coresPerDie + core) (fun c => { c with watches := c.watches.put unit w })
    else s
  | .queuePair qp part => { s with qps := s.qps.put qp { part := part } }
  | .remoteKey qp key base len => { s with qps := s.qps.modify qp (fun q => { q with keys := q.keys.put key (base, len) }) }
  | .reserved _ => s

/-- REGISTER_WRITE (00 R6): a write by system software; one of a reserved field alone does nothing. -/
def execRegisterWrite (write : MgmtWrite) (s : State) :
    Host.Outcome State Fault Refusal :=
  .next (s.writeRegister write)

end Sys2Proof.Machine
end

