-- ==== Sys2Proof/Machine/Outside.lean ====
section
/-! DEFINITION. What agents outside the dies do to device memory: system cores, PCIe, RDMA (07 R173, R174; 11 R252, R253; 15 R355,
R356). -/

namespace Sys2Proof.Machine

/-! ## Operations at the home point -/

/-- Pieces of a run of bytes, none across a line: address and bytes of each. -/
def linePieces (a : Nat) : List Byte → List (Nat × List Byte)
  | [] => []
  | b :: l => match linePieces (a + 1) l with
    | [] => [(a, [b])]
    | (x, m) :: rest => if (a + 1) % Config.lineBytes = 0 then (a, [b]) :: (x, m) :: rest else (a, b :: m) :: rest

/-- Lines that a run of bytes from an address touches. -/
def linesFrom (a n : Nat) : List Nat :=
  (List.range (n / Config.lineBytes + 2)).filterMap (fun i =>
    let l := lineOf a + i
    if n ≠ 0 ∧ l * Config.lineBytes < a + n then some l else none)

/-- The home of a line of this device, as the part knows it: the die whose LLC, directory or DRAM holds it as its own; a write to it counts
as one to a tracked line. A line that no die has ever held has no copies anywhere (notes/assumptions/33). -/
def State.homeOfLine (s : State) (line : Nat) : Option Home :=
  let owns := fun (d : Nat) =>
    (((s.die d).llc.get? line).map LlcLine.home).getD false || ((s.die d).dir.get? line).isSome || ((s.die d).dram.get? line).isSome
  ((List.range Config.dies).find? owns).map (fun d => { line := line, hdie := d, hdev := devOfLine line, tracked := true })

/-- Write bytes inside one line, at its home where the part knows one. -/
def State.writeLine (s : State) (h : Option Home) (line off : Nat) (bytes : List Byte) : State :=
  match h with
  | some h => s.unitWrite h.hdie h off bytes
  | none =>
    let h : Home := { line := line, hdie := 0, hdev := devOfLine line, tracked := false }
    (s.homeWrite h (maskAt off bytes.length) (dataAt off bytes)).clearResv line true (fun _ _ _ => false)

/-- Write bytes at a key, line by line (R173). -/
def State.writeAt (s : State) (home : State → Nat → Option Home) (k : Nat) (data : List Byte) : State :=
  (linePieces k data).foldl (fun (s : State) e => s.writeLine (home s (lineOf e.1)) (lineOf e.1) (e.1 % Config.lineBytes) e.2) s

/-- A line is poisoned at its home. -/
def State.poisonAt (s : State) (h : Option Home) (line : Nat) : Bool :=
  match h with
  | some h => s.homePoison h
  | none => s.poison.contains line

/-- A demand access of lines at their homes finds the errors of their DRAM (12 R274, R293). -/
def State.demandLines (s : State) (homes : List (Option Home)) : State :=
  homes.foldl (fun (s : State) h => match h with
    | some h => s.demandAt h
    | none => s) s

/-- Bytes at a key; none where a line of them is poisoned (12 R276). -/
def State.readAt (s : State) (home : State → Nat → Option Home) (k n : Nat) : Option (List Byte) × State :=
  let s := s.demandLines ((linesFrom k n).map (home s))
  (if (linesFrom k n).any (fun l => s.poisonAt (home s l) l) then none else some (s.rdBytes k n), s)

/-- The new value of a read-modify-write of `n` bytes (R172). -/
def rmwValue (op : RmwOp) (n old x : Nat) : Nat :=
  let w := 8 * n
  match op with
  | .add => (old + x) % 2 ^ w
  | .minS => if sextNat old w < sextNat x w then old else x
  | .maxS => if sextNat old w < sextNat x w then x else old
  | .minU => min old x
  | .maxU => max old x
  | .and => old &&& x
  | .or => old ||| x
  | .xor => old ^^^ x
  | .exch => x
  | .addF32 => (combine .addF32 (BitVec.ofNat 32 old) (BitVec.ofNat 32 x) 0).toNat
  | .addF16x2 => (combine .addF16x2 (BitVec.ofNat 32 old) (BitVec.ofNat 32 x) 0).toNat

/-- A read-modify-write at a key: the old bytes; nothing is done to a poisoned line (12 R276). -/
def State.rmwAt (s : State) (home : State → Nat → Option Home) (k n : Nat) (f : Nat → Option Nat) : Option (List Byte) × State :=
  match s.readAt home k n with
  | (none, s) => (none, s)
  | (some bytes, s) => match f (leNat bytes) with
    | some x => (some bytes, s.writeAt home k (leBytes n x))
    | none => (some bytes, s)

/-- First address and count of bytes that an operation names. -/
def HomeOp.range : HomeOp → Nat × Nat
  | .read pa n => (pa, n)
  | .write pa data => (pa, data.length)
  | .rmw pa n _ _ => (pa, n)
  | .cas pa n _ _ => (pa, n)

/-- AN OPERATION AT THE HOME POINT on this device's memory: what it returns, none where it meets poison. -/
def State.homeOp (s : State) (home : State → Nat → Option Home) (op : HomeOp) : Option (List Byte) × State :=
  let key := memKey s.devNum
  match op with
  | .read pa n => s.readAt home (key pa) n
  | .write pa data => (some [], s.writeAt home (key pa) data)
  | .rmw pa n o x => s.rmwAt home (key pa) n (fun old => some (rmwValue o n old x))
  | .cas pa n old new => s.rmwAt home (key pa) n (fun y => if y = old % 2 ^ (8 * n) then some new else none)

/-- An address that no device has (14 R326). -/
def badRange (pa n : Nat) : Bool := decide (Config.addrSpace < pa + n)

/-- The open writes of the outside agents' set C: theirs, and those that they have read (10 R245; 11 R252, R253). -/
def State.outsideOpen (s : State) : Bool :=
  s.acks.any (fun e => (e.2.core == noCore && e.2.block == 0) || e.2.readers.contains 0)

/-- Lines that an outside agent reads from join its set C. -/
def State.outsideReads (s : State) (k n : Nat) : State :=
  (linePieces k (List.replicate n 0)).foldl (fun (s : State) e =>
    s.readsFrom 0 (lineOf e.1) (maskAt (e.1 % Config.lineBytes) e.2.length) none) s

/-! ## System cores (11 R253) -/

/-- A stop holds a system core (15 R364). -/
def State.coreStopped (s : State) (core : Nat) : Bool := !s.stops.isEmpty && s.stopped (s.sysEntity core)

def State.setSysRead (s : State) (core : Nat) (x : Option (List Byte)) : State :=
  { s with sysRead := s.sysRead.put core (x.getD []) }

/-- An LR or SC of a system core. -/
def State.sysLr (s : State) (core pa n : Nat) : State :=
  let k := memKey s.devNum pa
  let (x, s) := (s.outsideReads k n).readAt State.homeOfLine k n
  { s.setSysRead core x with sysResv := s.sysResv.put core (lineOf k) }

def State.sysSc (s : State) (core pa n x : Nat) : State :=
  let k := memKey s.devNum pa
  let good := s.sysResv.get? core == some (lineOf k) && !s.poisonAt (s.homeOfLine (lineOf k)) (lineOf k)
  let s := { s with sysResv := s.sysResv.erase core }
  (if good then s.writeAt State.homeOfLine k (leBytes n x) else s).setSysRead core (some [if good then 0 else 1])

/-- First address and count of bytes that a system core's operation names. -/
def CoreOp.range : CoreOp → Nat × Nat
  | .access o _ _ => o.range
  | .lr pa n _ => (pa, n)
  | .sc pa n _ _ => (pa, n)
  | .fence _ _ _ _ => (0, 0)
  | .again => (0, 0)

/-- The operation is a release at SYS scope (R253). -/
def CoreOp.releases : CoreOp → Bool
  | .access _ _ rl => rl
  | .sc _ _ _ rl => rl
  | .fence _ pw _ sw => pw && sw
  | .lr _ _ _ => false
  | .again => false

/-- The operation reads. -/
def HomeOp.reads : HomeOp → Bool
  | .write _ _ => false
  | _ => true

/-- Perform an operation of a system core; a read at the home point is never stale, so that an acquire asks for nothing more. -/
def State.sysDo (s : State) (core : Nat) : CoreOp → State
  | .access o _ _ =>
    let s := if o.reads then s.outsideReads (memKey s.devNum o.range.1) o.range.2 else s
    let (x, s) := s.homeOp State.homeOfLine o
    s.setSysRead core x
  | .lr pa n _ => s.sysLr core pa n
  | .sc pa n x _ => s.sysSc core pa n x
  | .fence _ _ _ _ => s
  | .again => s

/-- What a system core has waiting goes on in its order: the oldest, where nothing holds it. -/
def State.sysNext (s : State) (core : Nat) : Host.Outcome State Fault Refusal :=
  let again := fun (s : State) => s.push (.systemCoreMemoryAccess core .again)
  match s.sysQueue.getD [] core with
  | [] => .next s
  | op :: rest =>
    if s.coreStopped core || (op.releases && s.outsideOpen) then .next (again s)
    else if badRange op.range.1 op.range.2 then .fault (.noSuchAddress op.range.1)
    else
      let s := { s with sysQueue := s.sysQueue.putD [] core rest }.sysDo core op
      .next (if rest.isEmpty then s else again s)

/-- SYSTEM_CORE_MEMORY_ACCESS (11 R253): performed at the home point; a release, or a FENCE that orders writes, waits for the writes of
the core's set C, and what the core asks for after it waits behind it. System cores run once boot stage 8 has started them (15 R357). -/
def execSystemCoreMemoryAccess (core : Nat) (op : CoreOp) (s : State) :
    Host.Outcome State Fault Refusal :=
  if !s.boot.runs 8 then .next s
  else if op = .again then s.sysNext core
  else if s.coreStopped core then .next s
  else if !(s.sysQueue.getD [] core).isEmpty then .next { s with sysQueue := s.sysQueue.put core (s.sysQueue.getD [] core ++ [op]) }
  else if badRange op.range.1 op.range.2 then .fault (.noSuchAddress op.range.1)
  else if op.releases && s.outsideOpen then
    .next ({ s with sysQueue := s.sysQueue.put core [op] }.push (.systemCoreMemoryAccess core .again))
  else .next (s.sysDo core op)

/-! ## PCIe (11 R252) -/

/-- PCIE_DMA_ACCESS (11 R252): a read or write of device memory at its home points. -/
def execPcieDmaAccess (op : DmaOp) (s : State) :
    Host.Outcome State Fault Refusal :=
  match op with
  | .read pa n =>
    if badRange pa n then .fault (.noSuchAddress pa)
    else
      let (x, s) := (s.outsideReads (memKey s.devNum pa) n).readAt State.homeOfLine (memKey s.devNum pa) n
      .next { s with pcieRead := x.getD [] }
  | .write pa data =>
    if badRange pa data.length then .fault (.noSuchAddress pa)
    else match linePieces pa data with
      | _ :: _ :: _ => .next ((linePieces pa data).foldl (fun (s : State) e => s.push (.pcieDmaAccess (.write e.1 e.2))) s)
      | _ => .next (s.writeAt State.homeOfLine (memKey s.devNum pa) data)

/-! ## RDMA (15 R355, R356) -/

def State.modQp (s : State) (qp : Nat) (f : QueuePair → QueuePair) : State := { s with qps := s.qps.modify qp f }

/-- Translate every line of a run of bytes for a queue pair's partition: where each begins, or none where one faults. -/
def State.rdmaLines (s : State) (part : Nat) (need : Need) : List (Nat × List Byte) → Option (List (Leaf × Nat × List Byte)) × State
  | [] => (some [], s)
  | (va, l) :: rest =>
    if Config.addrSpace ≤ va then (none, s)
    else match s.translateEngine 0 part va need 5 false with
      | (.fault _ _, s) => (none, s)
      | (.ok leaf, s) => match s.rdmaLines part need rest with
        | (some x, s) => (some ((leaf, va, l) :: x), s)
        | (none, s) => (none, s)

/-- The remote key that an operation gives covers its bytes. -/
def QueuePair.covers (q : QueuePair) (dst : RdmaTarget) (n : Nat) : Bool :=
  match q.keys.get? dst.key with
  | some (base, len) => decide (base ≤ dst.va) && decide (dst.va + n ≤ base + len)
  | none => false

/-- An RDMA operation on a queue pair without error: it acts on every line, or the pair takes a remote access error. A frame of IPv4 is
discarded (R355). -/
def State.rdma (s : State) (dst : RdmaTarget) (need : Need) (data : List Byte)
    (f : State → List (Leaf × Nat × List Byte) → Option State) : State :=
  match s.qps.get? dst.qp with
  | none => s
  | some q =>
    if q.error || dst.ipv4 then s
    else if !q.covers dst data.length then s.modQp dst.qp (fun q => { q with error := true })
    else match s.rdmaLines q.part need (linePieces dst.va data) with
      | (none, s) => s.modQp dst.qp (fun q => { q with error := true })
      | (some l, s) => (f s l).getD (s.modQp dst.qp (fun q => { q with error := true }))

/-- The writes of a message. -/
def State.rdmaStore (s : State) (l : List (Leaf × Nat × List Byte)) : State :=
  l.foldl (fun (s : State) e => s.unitWrite 0 (e.1.home e.2.1) (e.2.1 % Config.lineBytes) e.2.2) s

/-- The writes of a message, one line at a time and in any order (15 R356). -/
def State.rdmaMessage (s : State) (dst : RdmaTarget) (l : List (Leaf × Nat × List Byte)) : State :=
  if l.length ≤ 1 then s.rdmaStore l
  else l.foldl (fun (s : State) e => s.push (.rdmaWrite { dst with va := e.2.1, piece := true } e.2.2)) s

/-- A queue pair's writes have still to be made. -/
def State.rdmaOpen (s : State) (qp : Nat) : Bool := s.agenda.any (fun i => match i with
  | .rdmaWrite dst _ => dst.qp == qp && dst.piece
  | _ => false)

/-- What a queue pair releases, a message or a completion, is delivered once every write before it is seen at SYS scope. -/
def State.rdmaDeliver (s : State) (dst : RdmaTarget) (again : Instr) (f : QueuePair → QueuePair) : State :=
  match s.qps.get? dst.qp with
  | none => s
  | some q =>
    if q.error || dst.ipv4 then s
    else if s.outsideOpen || s.rdmaOpen dst.qp then s.push again
    else s.modQp dst.qp f

def QueuePair.receive (q : QueuePair) (data : List Byte) (imm : Option Word) : QueuePair :=
  { q with received := q.received ++ [(data, imm)] }

/-- RDMA_SEND (15 R356): a message arrives on a queue pair. -/
def execRdmaSend (dst : RdmaTarget) (data : List Byte) (s : State) :
    Host.Outcome State Fault Refusal :=
  .next (s.rdmaDeliver dst (.rdmaSend dst data) (fun q => q.receive data none))

/-- RDMA_SEND_IMMEDIATE (15 R356): a message with immediate data. -/
def execRdmaSendImmediate (dst : RdmaTarget) (data : List Byte) (imm : BitVec 32) (s : State) :
    Host.Outcome State Fault Refusal :=
  .next (s.rdmaDeliver dst (.rdmaSendImmediate dst data imm) (fun q => q.receive data (some imm)))

/-- RDMA_WRITE (15 R356): translated memory is written, at its home points; then the message's completion is delivered, which releases
its writes: a message with nothing to write comes to it at once, and so does what is left of one whose writes have been issued. -/
def execRdmaWrite (dst : RdmaTarget) (data : List Byte) (s : State) :
    Host.Outcome State Fault Refusal :=
  .next (if data.isEmpty then s.rdmaDeliver dst (.rdmaWrite dst []) (fun q => { q with completed := q.completed + 1 })
    else s.rdma dst { r := false, w := true } data (fun s l =>
      let s := s.rdmaMessage dst l
      some (if dst.piece then s else s.push (.rdmaWrite dst []))))

/-- RDMA_WRITE_IMMEDIATE (15 R356): the writes, then the immediate data, which releases them. -/
def execRdmaWriteImmediate (dst : RdmaTarget) (data : List Byte) (imm : BitVec 32) (s : State) :
    Host.Outcome State Fault Refusal :=
  .next (s.rdma dst { r := false, w := true } data (fun s l => some ((s.rdmaMessage dst l).push (.rdmaSendImmediate dst [] imm))))

/-- The bytes of a message's lines; none where one is poisoned. -/
def State.rdmaFetch (s : State) (l : List (Leaf × Nat × List Byte)) : Option (List Byte) × State :=
  let s := s.demandLines (l.map (fun e => some (e.1.home e.2.1)))
  (if l.any (fun e => s.isPoisoned 0 (e.1.home e.2.1)) then none
    else some (l.flatMap (fun e => s.rdBytes (e.1.key e.2.1) e.2.2.length)), s)

/-- RDMA_READ (15 R356): memory is read at its home points. -/
def execRdmaRead (dst : RdmaTarget) (bytes : Nat) (s : State) :
    Host.Outcome State Fault Refusal :=
  .next (s.rdma dst { r := true, w := false } (List.replicate bytes 0) (fun s l => some (match s.rdmaFetch l with
    | (some x, s) => s.modQp dst.qp (fun q => { q with reply := x })
    | (none, s) => s.modQp dst.qp (fun q => { q with error := true }))))

/-- An 8-byte RDMA atomic at the home point: the old bytes are the reply. -/
def State.rdmaAtomic (s : State) (dst : RdmaTarget) (f : Nat → Option Nat) : State :=
  s.rdma dst { r := true, w := true } (List.replicate 8 0) (fun s l =>
    if dst.va % 8 ≠ 0 then none
    else some (match s.rdmaFetch l with
      | (some x, s) =>
        let s := match f (leNat x) with
          | some y => s.rdmaStore (l.map (fun (e : Leaf × Nat × List Byte) => (e.1, e.2.1, leBytes 8 y)))
          | none => s
        s.modQp dst.qp (fun q => { q with reply := x })
      | (none, s) => s.modQp dst.qp (fun q => { q with error := true })))

/-- RDMA_COMPARE_SWAP (15 R355): 8 bytes are replaced where they equal a value. -/
def execRdmaCompareSwap (dst : RdmaTarget) (old new : BitVec 64) (s : State) :
    Host.Outcome State Fault Refusal :=
  .next (s.rdmaAtomic dst (fun x => if x = old.toNat then some new.toNat else none))

/-- RDMA_FETCH_ADD (15 R355): a value is added to 8 bytes. -/
def execRdmaFetchAdd (dst : RdmaTarget) (x : BitVec 64) (s : State) :
    Host.Outcome State Fault Refusal :=
  .next (s.rdmaAtomic dst (fun y => some ((y + x.toNat) % 2 ^ 64)))

/-- ECN_MARK (15 R355): the rate of the queue pair goes down. -/
def execEcnMark (qp : Nat) (s : State) :
    Host.Outcome State Fault Refusal :=
  .next (s.modQp qp (fun q => { q with rate := if q.rate = 0 then 0 else Config.ecnCut q.rate % q.rate }))

end Sys2Proof.Machine
end

