-- ==== Sys2Proof/Machine/Fabric.lean ====
section
/-! DEFINITION. The fabric and what is left when a peer is gone: ports, links, packets, heartbeats, fencing (12 R297 to R300; 15
R350 to R354; 21 R381). -/

namespace Sys2Proof.Machine

/-! ## Ports and links (15 R353, R354) -/

def State.port (s : State) (p : Nat) : Port := s.ports.getD {} p
def State.modPort (s : State) (p : Nat) (f : Port → Port) : State := { s with ports := s.ports.put p (f (s.port p)) }
def State.modLink (s : State) (l : Nat) (f : Link → Link) : State := { s with links := s.links.modify l f }

/-- An interrupt to the system cores, for a port. -/
def State.interrupt (s : State) (port : Nat) : State := { s with interrupts := s.interrupts ++ [port] }

/-- A port without a measurement. -/
def Port.blank (p : Port) : Port := { p with mval := false, eyeH := 0, eyeW := 0, berX := 0, temp := 0 }

/-- Cycles within which a retrain completes: 20 µs. -/
def retrainTime : Nat := 18800

/-- A link begins to retrain; one that retrains already goes on in the same period. -/
def State.retrain (s : State) (link : Nat) : State :=
  match s.links.get? link with
  | none => s
  | some l =>
    if l.retraining then s
    else (s.modLink link (fun l => { l with retraining := true })).arm (s.now + retrainTime) (.linkRetrainDone link)

/-- A port fails, and its link stops sending and retrains. -/
def State.failPort (s : State) (port : Nat) : State :=
  let p := s.port port
  if p.fail then s
  else
    let s := (s.modPort port (fun p => { p.blank with fail := true, up := false, crc := [] })).interrupt port
    if p.link = 0x7F then s else s.retrain p.link

/-- PORT_FAIL (15 R353): a port fails. -/
def execPortFail (port : Nat) (s : State) :
    Host.Outcome State Fault Refusal :=
  .next (if port < 72 then s.failPort port else s)

/-- A CRC failure of a port: the seventeenth within 1 ms fails it (R353). -/
def State.crcFailure (s : State) (port : Nat) : State :=
  let l := (s.port port).crc.filter (fun t => decide (s.now < t + 940000)) ++ [s.now]
  let s := s.modPort port (fun p => { p with crc := l })
  if 16 < l.length then s.failPort port else s

/-- The largest power of two up to 16 that does not exceed a count. -/
def powerBelow (n : Nat) : Nat := ([16, 8, 4, 2, 1].find? (fun k => decide (k ≤ n))).getD 0

/-- A port leaves its link. -/
def Port.leave (p : Port) : Port := { p.blank with link := 0x7F, memb := 0, up := false }

/-- Every die of the package has fenced a device: its links are off (12 R298). -/
def State.cutPeer (s : State) (dev : Nat) : Bool := (List.range Config.dies).all (fun d => s.fencedBy d (4 + dev))

/-- LINK_RETRAIN_DONE (15 R353): the link keeps the largest power of two of its lowest healthy members, and replays, dealing flits from
its new member 0 on. -/
def execLinkRetrainDone (link : Nat) (s : State) :
    Host.Outcome State Fault Refusal :=
  match s.links.get? link with
  | none => .next s
  | some l =>
    if !l.retraining then .next s
    else
      let healthy := l.members.filter (fun p => !(s.port p).fail)
      let kept := healthy.take (powerBelow healthy.length)
      let s := (l.members.filter (fun p => !kept.contains p)).foldl (fun (s : State) p => s.modPort p Port.leave) s
      let s := (mapFrom 0 (fun k p => (k, p)) kept).foldl (fun (s : State) e => s.joinPort link e.1 e.2) s
      let s := s.modLink link (fun l =>
        { l with members := kept, retraining := false, down := kept.isEmpty || s.cutPeer l.peer, dealt := l.flits, heard := 0 })
      .next (match l.replay.getLast? with
        | some e => s.push (.fabricAckReceive link e.1)
        | none => s).answerOwed

/-- LINK_RETRAIN_REQUEST (15 R353): every port that the link was formed with is tried again; those that do not lock fail. -/
def execLinkRetrainRequest (link : Nat) (broken : List Nat) (s : State) :
    Host.Outcome State Fault Refusal :=
  match s.links.get? link with
  | none => .next s
  | some l =>
    let tried := l.formed.filter (fun p => (s.port p).link == link || (s.port p).link == 0x7F)
    let s := tried.foldl (fun (s : State) p =>
      let lost := broken.contains p
      let s := s.modPort p (fun r => { r.blank with fail := lost, link := link, up := false })
      if lost then s.interrupt p else s) s
    .next ((s.modLink link (fun l => { l with members := tried, down := false })).retrain link)

/-- WARN bits that a measurement raises (R354). -/
def Port.warns (p : Port) : BitVec 3 :=
  (if p.eyeH < p.eyeHMin then 1 else 0) ||| (if p.berX < p.berXMin then 2 else 0) ||| (if p.tempMax < p.temp then 4 else 0)

/-- The refresh of a port's record: a member that has lost lock fails (R353). -/
def State.refreshPort (s : State) (r : PortReading) : State :=
  if 72 ≤ r.port then s
  else if !r.locked then
    (if (s.port r.port).up then s.failPort r.port else s).modPort r.port (fun p => { p.blank with up := false })
  else
    let p : Port :=
      { s.port r.port with eyeH := r.eyeH % 256, eyeW := r.eyeW % 256, berX := r.berX % 256, temp := r.temp % 256, mval := true }
    let fresh := p.warns &&& ~~~p.warn
    let s := s.modPort r.port (fun _ => { p with warn := p.warn ||| fresh })
    if fresh = 0 then s else s.interrupt r.port

/-- PORT_STATUS_REFRESH (15 R354): new readings; an interrupt for a warning that they raise. -/
def execPortStatusRefresh (readings : List PortReading) (s : State) :
    Host.Outcome State Fault Refusal :=
  .next (readings.foldl State.refreshPort s)

/-- PORT_WARN_CLEAR (15 R354): software clears the WARN bits that it writes as 1. -/
def execPortWarnClear (port : Nat) (mask : BitVec 3) (s : State) :
    Host.Outcome State Fault Refusal :=
  if 72 ≤ port then .next s else .next (s.modPort port (fun p => { p with warn := p.warn &&& ~~~mask }))

/-! ## Packets (15 R351, R352) -/

/-- Copies of a line of another device leave every die, and later copies of remote lines come no earlier (11 R260; 12 R272); a
die that has fenced the device discards the packet (12 R298). The write is the line's latest: its time is the package's. -/
def State.dropCopies (s : State) (peer line : Nat) : State :=
  let t := s.topTime
  let s := (List.range Config.dies).foldl (fun (s : State) d => if s.fencedBy d (4 + peer) then s else s.dropFarCopy d line) s
  { s with far := s.far.put line (t, t) }

/-- A device becomes a sharer of a line at its home die (12 R272). -/
def State.shareWith (s : State) (die line dev : Nat) : State :=
  s.modDie die (fun d =>
    let e := d.dir.getD {} line
    { d with dir := d.dir.put line { e with devs := e.devs ||| BitVec.ofNat 64 (2 ^ dev) } })

/-- An answer goes back over a link, once writes are complete. -/
def State.reply (s : State) (link flits : Nat) (ids : List Nat) : State :=
  (s.modLink link (fun l => { l with owed := l.owed ++ [(flits, ids)] })).answerOwed

/-- Flits of a data packet and of a control packet (R351). -/
def dataFlits : Nat := 3
def controlFlits : Nat := 1

/-- The access of a packet is performed at its home point, and its answer goes back over the link: that of a write once the line's
sharers have acknowledged it (11 R260). -/
def State.homePacket (s : State) (link die : Nat) (tracked : Bool) (op : HomeOp) : State :=
  let (x, t) := s.homeOp (fun s line => some { line := line, hdie := die, hdev := s.devNum, tracked := tracked }) op
  let flits := match x with
    | some (_ :: _) => dataFlits
    | _ => controlFlits
  t.reply link flits ((t.acks.filter (fun e => decide (s.next ≤ e.1))).map Prod.fst)

/-- What a packet asks for; one for a die that has fenced the peer is discarded (12 R298). -/
def State.deliverPacket (s : State) (link peer : Nat) (body : FabricBody) : State :=
  match body with
  | .home die tracked op => if s.fencedBy die (4 + peer) then s else s.homePacket link die tracked op
  | .share die line => if s.fencedBy die (4 + peer) then s else (s.shareWith die line peer).reply link dataFlits []
  | .invalidate line => (s.dropCopies peer line).reply link controlFlits []
  | .pad => s

/-- Flits of a packet. -/
def FabricBody.flits : FabricBody → Nat
  | .home _ _ (.write _ _) => dataFlits
  | .home _ _ (.rmw _ _ _ _) => dataFlits
  | .home _ _ (.cas _ _ _ _) => dataFlits
  | _ => controlFlits

/-- A packet whose CRC fails: it counts at the member that its first flit has come by (R353; which flit has failed the packet does not
say: DESIGN CHOICE, notes/assumptions/104). -/
def State.badPacket (s : State) (link flits : Nat) : State :=
  match s.links.get? link with
  | none => s
  | some l =>
    let s := s.modLink link (fun l => { l with heard := l.heard + flits })
    match l.member l.heard with
    | some p => s.crcFailure p
    | none => s

/-- A packet in sequence is accepted: the cumulative acknowledgement goes back (R351, R352). -/
def Link.accept (l : Link) (flits : Nat) : Link :=
  { l with nextRecv := (l.nextRecv + 1) % 2 ^ 16, ackSent := some l.nextRecv, heard := l.heard + flits }

/-- A packet's address that no device has. -/
def FabricBody.bad : FabricBody → Bool
  | .home _ _ op => badRange op.range.1 op.range.2
  | _ => false

/-- The home die and line of a packet whose read waits for room in the directory (12 R272). -/
def State.shareWaits (s : State) : FabricBody → Option (Nat × Nat)
  | .share die line => if s.dirRoom die line then none else some (die, line)
  | _ => none

/-- FABRIC_PACKET_RECEIVE (15 R352): the next packet in sequence is accepted; any other, one whose CRC fails, and one of a fenced
peer (12 R298) is discarded. -/
def execFabricPacketReceive (link seq : Nat) (crcOk : Bool) (body : FabricBody) (s : State) :
    Host.Outcome State Fault Refusal :=
  match s.links.get? link with
  | none => .next s
  | some l =>
    if l.down || s.cutPeer l.peer then .next s
    else if !crcOk then .next (s.badPacket link body.flits)
    else if seq ≠ l.nextRecv then .next (s.modLink link (fun l => { l with heard := l.heard + body.flits }))
    else if body.bad then .fault (.noSuchAddress (match body with
      | .home _ _ op => op.range.1
      | _ => 0))
    else match s.shareWaits body with
      | some (die, line) => .next ((s.dirEvict die line).push (.fabricPacketReceive link seq crcOk body))
      | none =>
        .next ((s.modLink link (fun l => l.accept body.flits)).deliverPacket link l.peer body)

/-- FABRIC_ACK_RECEIVE (15 R351): flits up to the acknowledged packet leave the replay buffer. -/
def execFabricAckReceive (link seq : Nat) (s : State) :
    Host.Outcome State Fault Refusal :=
  match s.links.get? link with
  | none => .next s
  | some l =>
    if !l.up || s.cutPeer l.peer || !l.replay.any (fun e => e.1 == seq) then .next s
    else .next (s.modLink link (fun l => { l with replay := (l.replay.dropWhile (fun e => e.1 != seq)).drop 1 })).answerOwed

/-! ## Heartbeats and fencing (12 R297 to R300) -/

/-- HEARTBEAT_SEND (12 R297): a heartbeat on every path; those on links are control packets. -/
def execHeartbeatSend (s : State) :
    Host.Outcome State Fault Refusal :=
  let s := s.links.foldl (fun (s : State) e =>
    if e.2.up && decide (e.2.flits < replayFlits) then s.sendPacket e.1 1 else s) s
  .next (s.arm (s.now + 94000) .heartbeatSend)

/-- Peers of the package: its dies, as 0 to 3, and devices, as 4 + number. -/
def State.isPeer (s : State) (p : Nat) : Bool := decide (p < 4) || (decide (p < 68) && p != 4 + s.devNum)

/-- A line is homed on a peer: on a device by its number, on a die by what the die's LLC and directory hold. -/
def State.homedOn (s : State) (p line : Nat) : Bool :=
  if p < 4 then (((s.die p).llc.get? line).map LlcLine.home).getD false || ((s.die p).dir.get? line).isSome
  else devOfLine line == p - 4

/-- Every copy that a die holds of a line homed on a peer it has lost goes (R300). -/
def State.dropPeerCopies (s : State) (die p : Nat) : State :=
  { s with
    dies := s.dies.map (fun e => if e.1 = die then
      (e.1, { e.2 with llc := e.2.llc.filter (fun x => x.2.home || !s.homedOn p x.1) }) else e)
    cores := s.cores.map (fun e => if dieOf e.1 = die then
      (e.1, { e.2 with l1 := e.2.l1.filter (fun x => !s.homedOn p x.1) }) else e) }

/-- Regions of a die that an RLAUNCH awaits, and that have a block on a lost die. -/
def State.childrenOn (s : State) (die p : Nat) : List Nat :=
  (s.regions.filter (fun e => e.2.token.isSome && (e.2.state == 1 || e.2.state == 2)
    && (e.2.die == p || (e.2.die == die && s.blocks.any (fun b => b.2.regid == e.1 && dieOf b.2.core == p))))).map Prod.fst

/-- What ran on a lost die: the blocks of the regions that the fencing die keeps are lost, and the launches whose child ran there end
with STATUS 3 (R300). -/
def State.loseDie (s : State) (die p : Nat) : State :=
  (s.loseOn p (fun r => r.die == die) (s.childrenOn die p)).villek

/-- Commands of a die's cores that await completions from a lost device end there (21 R381). -/
def State.loseCmds (s : State) (die dev : Nat) : State :=
  (s.cmds.filter (fun e => dieOf e.2.core == die && e.2.far.any (fun x => x.1 % 64 == dev))).foldl (fun (s : State) e =>
    let s := s.modCmd e.1 (fun c => { c with prog := c.progress, far := c.far.filter (fun x => x.1 % 64 != dev) })
    s.finishCmd e.1 1 { detail := Detail.UNCORRECTABLE, opnd := 1 }) s

/-- A die FENCES a peer that it has lost: its packets are discarded, and its links are off once no die wants them; copies of its lines
go, what ran on it is lost; then its name leaves the die's directory (R298 to R300). -/
def State.fencePeer (s : State) (die p : Nat) : State :=
  let s := { s with fenced := s.fenced ++ [({ die := die, peer := p } : Fenced)] }
  let s := if 4 ≤ p ∧ s.cutPeer (p - 4) then
      { s with links := s.links.mapVals (fun l => if l.peer = p - 4 then { l with down := true, owed := [] } else l) }
    else s
  let s := s.post 0x0A 10 die 0xFFFFFFFF (if p < 4 then p + 4 * s.devNum else 4 * (p - 4))
  let s := s.dropPeerCopies die p
  let s := if p < 4 then s.loseDie die p else s.loseCmds die (p - 4)
  s.push (.fenceDirectoryScrub ⟨die, p⟩)

/-- Where a die counts what it misses of a peer on a path. -/
def missKey (die peer path : Nat) : Nat := (die * 68 + peer) * 2 + path % 2

/-- HEARTBEAT_MISS (12 R297): the third in a row on one path: the die declares the peer lost, for itself. -/
def execHeartbeatMiss (pair : Peering) (path : Nat) (s : State) :
    Host.Outcome State Fault Refusal :=
  let k := missKey pair.die pair.peer path
  if 4 ≤ pair.die ∨ pair.die = pair.peer ∨ !s.isPeer pair.peer ∨ s.fencedBy pair.die pair.peer then .next s
  else
    let n := s.missed.getD 0 k + 1
    let s := { s with missed := s.missed.put k n }
    .next (if n < 3 then s else s.fencePeer pair.die pair.peer)

/-- HEARTBEAT_RECEIVE (12 R297): the path's count begins again. -/
def execHeartbeatReceive (pair : Peering) (path : Nat) (s : State) :
    Host.Outcome State Fault Refusal :=
  if s.fencedBy pair.die pair.peer then .next s else .next { s with missed := s.missed.erase (missKey pair.die pair.peer path) }

/-- FENCE_DIRECTORY_SCRUB (12 R298, R299): a fenced peer leaves every directory entry of the die's home lines, and writes to them that
waited for it complete. -/
def execFenceDirectoryScrub (pair : Peering) (s : State) :
    Host.Outcome State Fault Refusal :=
  if !s.fencedBy pair.die pair.peer then .next s
  else
    let bit4 : BitVec 4 := BitVec.ofNat 4 (2 ^ pair.peer)
    let bit64 : BitVec 64 := BitVec.ofNat 64 (2 ^ (pair.peer - 4))
    let names := fun (dies : BitVec 4) (devs : BitVec 64) => if pair.peer < 4 then dies &&& bit4 != 0 else devs &&& bit64 != 0
    let clear4 := fun (x : BitVec 4) => if pair.peer < 4 then x &&& ~~~bit4 else x
    let clear64 := fun (x : BitVec 64) => if pair.peer < 4 then x else x &&& ~~~bit64
    let left := fun (e : DirEntry) => { e with dies := clear4 e.dies, devs := clear64 e.devs }
    let held := (s.acks.filter (fun e => e.2.die == pair.die && names e.2.dies e.2.devs)).map Prod.fst
    let s := { s with acks := s.acks.mapVals (fun a =>
      if a.die = pair.die then { a with dies := clear4 a.dies, devs := clear64 a.devs } else a) }
    let s := s.modDie pair.die (fun d => { d with dir := (d.dir.mapVals left).filter (fun e => e.2 != ({} : DirEntry)) })
    .next (held.foldl (fun (s : State) id => s.push (.storeAcknowledge id)) s)

/-- PEER_READMISSION (12 R300): a die admits again a peer that has been reset: a die of the package whose reset it has seen, or a device,
whose reset this event reports. -/
def execPeerReadmission (pair : Peering) (s : State) :
    Host.Outcome State Fault Refusal :=
  if !s.fenced.any (fun f => f.die == pair.die && f.peer == pair.peer && (f.reset || decide (4 ≤ pair.peer))) then .next s
  else
    let s := { s with
      fenced := s.fenced.filter (fun f => !(f.die == pair.die && f.peer == pair.peer))
      missed := (s.missed.erase (missKey pair.die pair.peer 0)).erase (missKey pair.die pair.peer 1) }
    .next (if pair.peer < 4 then s
      else { s with links := s.links.mapVals (fun l => if l.peer = pair.peer - 4 then { l with down := l.members.isEmpty } else l) })

end Sys2Proof.Machine
end

