-- ==== Sys2Proof/Machine/Hints.lean ====
section
/-! DEFINITION. Hint words. -/

namespace Sys2Proof.Machine

/-! ## Hint words (04 R96 to R100; 09 R234) -/

/-- A loop level that ends at a hint word ends at the instruction that the hint word belongs to (R84): where LOOP could not read so far,
the hint word shows it. -/
def Loop.passHint (pc : Nat) (x : Loop) : Loop := if x.active && x.endPc == pc then { x with endPc := nextPc pc } else x

/-- A hint word takes an issue slot and joins the unit that its path issues; its lanes go on to the next word. -/
def State.hintWord (s : State) (x : Word) : Host.Outcome State Fault Refusal :=
  match s.issuer none with
  | none => .refused .noIssuer
  | some i => .next (s.modUnit i.blk i.u (fun w =>
      { (w.modLanes i.path (fun _ l => { l with pc := nextPc i.pc })) with
        hints := w.hints ++ [x]
        hintPc := if w.hints.isEmpty then i.pc else w.hintPc
        lc0 := w.lc0.passHint i.pc
        lc1 := w.lc1.passHint i.pc
        unitLanes := i.path
        lastIssue := s.now }))

/-- HIMM (04 R97): the next instruction's immediate takes its upper bits. -/
def execHimm (i : BitVec 22) (s : State) :
    Host.Outcome State Fault Refusal :=
  s.hintWord (wordH 0x3F 0 i)

/-- HSTALL (04 R100): timing of the next instruction. -/
def execHstall (g : BitVec 10) (w sa : BitVec 6) (s : State) :
    Host.Outcome State Fault Refusal :=
  s.hintWord (wordHstall 0x3F 1 g w sa)

/-- HMOD (04 R98): modifiers of the next instruction. -/
def execHmod (o : BitVec 2) (c sa v : BitVec 1) (m : BitVec 2) (s : State) :
    Host.Outcome State Fault Refusal :=
  s.hintWord (wordHmod 0x3F 2 0 o c sa v m)

/-- HCOORD (04 R99): coordinate offsets of the next instruction. -/
def execHcoord (w z y x : BitVec 5) (s : State) :
    Host.Outcome State Fault Refusal :=
  s.hintWord (wordHcoord 0x3F 3 0 w z y x)

end Sys2Proof.Machine
end

