-- ==== Sys2Proof/Machine/Scalar.lean ====
section
/-! DEFINITION. Scalar operations (06 R152). -/

namespace Sys2Proof.Machine

/-- An SI-format word: under HIMM its immediate's bits 11:10 must be 0 (04 R83). -/
def State.siImm (s : State) (maj : Nat) (d : BitVec 5) (rs : List Nat) (i : BitVec 12) (f : Iss → Word → Word) :
    Host.Outcome State Fault Refusal :=
  s.issue (scalAttr maj 0 true d rs) (fun x _ => x.h.himm.isNone || decide (i.toNat < 2 ^ 10)) never
    (straight (fun x s => s.putS x d (f x (x.h.imm i))))

/-- SADD (06 R152): a + b. -/
def execSadd (d a b : BitVec 5) (s : State) :
    Host.Outcome State Fault Refusal :=
  s.scal 0x12 0 d a b (fun x y => x + y)

/-- SSUB (06 R152): a − b. -/
def execSsub (d a b : BitVec 5) (s : State) :
    Host.Outcome State Fault Refusal :=
  s.scal 0x12 1 d a b (fun x y => x - y)

/-- SMUL (06 R152): the low word of a × b. -/
def execSmul (d a b : BitVec 5) (s : State) :
    Host.Outcome State Fault Refusal :=
  s.scal 0x12 2 d a b (fun x y => x * y)

/-- SAND (06 R152): a & b. -/
def execSand (d a b : BitVec 5) (s : State) :
    Host.Outcome State Fault Refusal :=
  s.scal 0x12 3 d a b (fun x y => x &&& y)

/-- SOR (06 R152): a | b. -/
def execSor (d a b : BitVec 5) (s : State) :
    Host.Outcome State Fault Refusal :=
  s.scal 0x12 4 d a b (fun x y => x ||| y)

/-- SXOR (06 R152): a ^ b. -/
def execSxor (d a b : BitVec 5) (s : State) :
    Host.Outcome State Fault Refusal :=
  s.scal 0x12 5 d a b (fun x y => x ^^^ y)

/-- SSHL (06 R152): a shifted left by b. -/
def execSshl (d a b : BitVec 5) (s : State) :
    Host.Outcome State Fault Refusal :=
  s.scal 0x12 6 d a b (fun x y => shlW x y)

/-- SSHR (06 R152): a shifted right by b, zero-filled. -/
def execSshr (d a b : BitVec 5) (s : State) :
    Host.Outcome State Fault Refusal :=
  s.scal 0x12 7 d a b (fun x y => shrW x y)

/-- SADDI (06 R152): a + the immediate. -/
def execSaddi (d a : BitVec 5) (i : BitVec 12) (s : State) :
    Host.Outcome State Fault Refusal :=
  s.siImm 0x13 d [a.toNat] i (fun x v => x.s a + v)

/-- SMIN_I32 (06 R152): the smaller, signed. -/
def execSminI32 (d a b : BitVec 5) (s : State) :
    Host.Outcome State Fault Refusal :=
  s.scal 0x14 0 d a b (fun x y => pick (x.slt y) x y)

/-- SMAX_I32 (06 R152): the larger, signed. -/
def execSmaxI32 (d a b : BitVec 5) (s : State) :
    Host.Outcome State Fault Refusal :=
  s.scal 0x14 1 d a b (fun x y => pick (x.slt y) y x)

/-- SMIN_N32 (06 R152): the smaller, unsigned. -/
def execSminN32 (d a b : BitVec 5) (s : State) :
    Host.Outcome State Fault Refusal :=
  s.scal 0x14 2 d a b (fun x y => pick (x.ult y) x y)

/-- SMAX_N32 (06 R152): the larger, unsigned. -/
def execSmaxN32 (d a b : BitVec 5) (s : State) :
    Host.Outcome State Fault Refusal :=
  s.scal 0x14 3 d a b (fun x y => pick (x.ult y) y x)

/-- SSAR (06 R152): a shifted right by b, sign-filled. -/
def execSsar (d a b : BitVec 5) (s : State) :
    Host.Outcome State Fault Refusal :=
  s.scal 0x14 4 d a b (fun x y => sarW x y)

/-- SPOPC (06 R152): the number of 1 bits. -/
def execSpopc (d a : BitVec 5) (s : State) :
    Host.Outcome State Fault Refusal :=
  s.scal1 0x14 5 false d a (fun _ x => popcW x)

/-- SCLZ (06 R152): the leading zeros; 32 of 0. -/
def execSclz (d a : BitVec 5) (s : State) :
    Host.Outcome State Fault Refusal :=
  s.scal1 0x14 6 false d a (fun _ x => clzW x)

/-- SMOVI (06 R152): the immediate. -/
def execSmovi (d : BitVec 5) (i : BitVec 12) (s : State) :
    Host.Outcome State Fault Refusal :=
  s.siImm 0x16 d [] i (fun _ v => v)

end Sys2Proof.Machine
end

