-- ==== Sys2Proof/Machine/System.lean ====
section
/-! DEFINITION. Commits, decision queue, special registers, traps, counters (chapter 09). -/

namespace Sys2Proof.Machine

/-! ## Common rules (R212) -/

/-- Attributes of a word of majors 0x31 to 0x33. -/
def sysAttr (maj fn : Nat) (p : BitVec 4) (front : Bool) : Attr :=
  { maj := maj, fn := fn, p := some p, legal := true, front := front, serial := true, mirror := false }

/-! ## Commits and the decision queue (R223, R224; 02 R46) -/

/-- COMMIT (09 R223): every buffered store of the block is performed; in protected mode the snapshot, of the block as it stands
after the word, comes first (12 R284). -/
def execCommit (p : BitVec 4) (s : State) :
    Host.Outcome State Fault Refusal :=
  s.issue { sysAttr 0x31 2 p true with ordered := true } always never
    (straight (fun i s => s.commit i.blk))

/-- Leading warps that have not exited, as a consumer mask. -/
def Block.consumers (b : Block) : BitVec 16 :=
  (mapFrom 0 (fun n w => (n, w)) b.ctx.warps).foldl (fun (m : BitVec 16) e =>
    if e.2.gone then m else m ||| BitVec.ofNat 16 (2 ^ e.1)) 0

/-- DQPUSH (09 R224): the front thread appends a word for every leading warp that has not exited. -/
def execDqpush (p : BitVec 4) (sa x : BitVec 5) (s : State) :
    Host.Outcome State Fault Refusal :=
  s.issue
    { sysAttr 0x31 3 p true with rs := [sa.toNat, x.toNat], cmp := some (fun i _ => [(i.s sa).toNat, (i.s x).toNat]) } (fun i _ => i.front)
    (fun i _ => decide (Config.dqEntries ≤ i.b.ctx.dq.length))
    (straight (fun i s => s.modBlock i.blk (fun b =>
      let e : DqEntry := { word := i.s x ++ i.s sa, mask := b.consumers }
      if e.mask = 0 then b else { b with ctx := { b.ctx with dq := b.ctx.dq ++ [e] } })))

/-- Take a unit's oldest word out of the queue: the word, and what is left. -/
def dqTake (n : Nat) : List DqEntry → Option (BitVec 64 × List DqEntry)
  | [] => none
  | e :: rest =>
    if natBit e.mask.toNat n then
      let m := e.mask &&& ~~~(BitVec.ofNat 16 (2 ^ n))
      some (e.word, if m = 0 then rest else { e with mask := m } :: rest)
    else (dqTake n rest).map (fun r => (r.1, e :: r.2))

/-- DQPOP (09 R224): the oldest word that holds the warp's bit goes to a scalar pair. -/
def execDqpop (p : BitVec 4) (t : BitVec 5) (s : State) :
    Host.Outcome State Fault Refusal :=
  s.issue
    { sysAttr 0x31 4 p false with
      legal := t != 31, ws := [t.toNat, t.toNat + 1], outs := [.s t.toNat, .s (t.toNat + 1)] }
    always (fun i _ => (dqTake i.u.num i.b.ctx.dq).isNone)
    (straight (fun i s => match dqTake i.u.num i.b.ctx.dq with
      | some (x, rest) =>
        if i.b.ctx.dq.any (fun e => e.bad && natBit e.mask.toNat i.u.num && e.word == x) then s.consume i.blk Cause.UNCORRECTABLE
        else
        let s := s.modBlock i.blk (fun b => { b with ctx := { b.ctx with dq := rest } })
        (s.putS i t (x.extractLsb' 0 32)).putS i (t + 1) (x.extractLsb' 32 32)
      | none => s))

/-! ## Special registers (R225; 02 R47 to R52) -/

/-- Every earlier instruction of the warp has completed, or has passed its fault point (R51). -/
def Warp.faultPointsPassed (w : Warp) : Bool := w.log.all (fun e => e.2.lanes.all (fun x => !e.2.open' x))

/-- Every earlier instruction of the warp has added its energy: what its log still holds are faulted accesses. -/
def Warp.energyIn (w : Warp) : Bool := w.log.all (fun e => e.2.lanes.all LaneAcc.stuck)

/-- A sink group of the warp is under way in a lane. -/
def Warp.groupsOut (w : Warp) : Bool := w.log.any (fun e => e.2.op == .sink && e.2.lanes.any (fun x => !x.stuck))

/-- An SRD waits (R51). -/
def Iss.srdStall (i : Iss) (n : Nat) : Bool :=
  match n with
  | 0x09 => i.w.log.any (fun e => e.2.op == .sink)
  | 0x0A => i.w.log.any (fun e => e.2.op == .sink)
  | 0x0D => !i.w.energyIn
  | 0x10 => !i.w.faultPointsPassed
  | _ => false

/-- What a special register reads as (R47, R48). -/
def State.special (s : State) (i : Iss) (n : Nat) : Word :=
  let nat := fun (x : Nat) => BitVec.ofNat 32 x
  let warp := fun (x : Word) => if i.front then 0 else x
  match n with
  | 0x00 => warp (nat i.lead)
  | 0x01 => nat i.u.num
  | 0x02 => nat i.b.x
  | 0x03 => nat i.b.y
  | 0x04 => nat i.b.z
  | 0x05 => nat i.b.regid
  | 0x06 => nat i.core
  | 0x07 => nat (i.die + s.devNum * 4)
  | 0x08 => nat (s.core i.core).ltime
  | 0x09 => warp (i.w.sinkrec.extractLsb' 0 32)
  | 0x0A => warp (i.w.sinkrec.extractLsb' 32 32)
  | 0x0B => nat (s.cycles i.core)
  | 0x0C => i.w.clkLatch
  | 0x0D => i.b.energy.extractLsb' 0 32
  | 0x0E => if i.front then 0xFFFFFFFF else ((i.b.rung.map Prod.snd).map nat).getD 0xFFFFFFFF
  | 0x0F => if i.front then 0xFFFFFFFF else (((i.w.lane i.lead).item).map nat).getD 0xFFFFFFFF
  | 0x10 => warp i.w.parked
  | 0x11 => i.w.trapCause.setWidth 32
  | 0x12 => i.w.trapPc
  | 0x13 => warp i.w.trapMask
  | 0x14 => i.w.trapView
  | 0x15 => i.w.trapCoord
  | _ => warp (i.w.fflags.setWidth 32)

/-- SRD (09 R225): a special register goes to a scalar register; reading %clocklo fills the clock latch. -/
def execSrd (p : BitVec 4) (t r : BitVec 5) (s : State) :
    Host.Outcome State Fault Refusal :=
  s.issue { sysAttr 0x31 5 p true with legal := decide (r.toNat ≤ 0x16), ws := [t.toNat], outs := [.s t.toNat] } always
    (fun i _ => i.srdStall r.toNat)
    (straight (fun i s =>
      let s' := s.putS i t (s.special i r.toNat)
      if r = 0x0B then
        s'.modUnit i.blk i.u (fun w => { w with clkLatch := BitVec.ofNat 32 (s.cycles i.core / 2 ^ 32) })
      else s'))

/-- SWR (09 R225): %fflags takes a value; the front thread's is ignored. The flags of the warp's earlier groups come first (02 R41). -/
def execSwr (p : BitVec 4) (r x : BitVec 5) (s : State) :
    Host.Outcome State Fault Refusal :=
  s.issue { sysAttr 0x31 6 p true with legal := r == 0x16, rs := [x.toNat], cmp := some (fun i _ => [r.toNat, (i.s x).toNat]) }
    always (fun i _ => i.w.groupsOut)
    (straight (fun i s =>
      if i.front then s else s.modUnit i.blk i.u (fun w => { w with fflags := (i.s x).setWidth 5 })))

/-! ## Traps and parked lanes (R226, R227; 14 R334, R337) -/

/-- TRAP (09 R227): every active lane takes TRAP and resumes past the word. -/
def execTrap (p e : BitVec 4) (s : State) :
    Host.Outcome State Fault Refusal :=
  s.issue (sysAttr 0x32 0 p true) always never
    (straight (fun i s => s.takeFault i.blk i.u i.act (fun _ =>
      { i.fault Cause.TRAP with resume := nextPc i.pc, coord := e.setWidth 32 })))

/-- The word runs in the unit's handler. -/
def Iss.inHandler (i : Iss) : Bool := match i.w.handler with
  | some h => inMask i.path h
  | none => false

/-- Lanes of the trap being handled: the handler lane, and the lanes of %trapmask still parked for it. -/
def Warp.trapped (w : Warp) (h : Nat) : Word :=
  match (w.lane h).park with
  | some p => laneBit h ||| w.lanesWhere (fun l => l.status == .parked && l.park.any p.sameFault)
  | none => laneBit h

/-- A register of the handler bank awaits a token. -/
def Iss.bankPending (i : Iss) : Bool := i.inHandler && i.w.pend.any (fun e => decide (32 ≤ e.1))

/-- RTE and RTE.FWD: the end of the handler, its bank with it, and what comes of its lanes. -/
def State.leaveHandler (s : State) (i : Iss) (fwd : Bool) : State :=
  match i.w.handler with
  | none => s
  | some h =>
    let lanes := i.w.trapped h
    let park := (i.w.lane h).park
    let s := s.modUnit i.blk i.u Warp.endHandler
    let s := if fwd then
        match park with
        | some p => (s.modUnit i.blk i.u (fun w => w.modLane h (fun l => { l with status := .parked }))).forward i.blk i.u lanes p false
        | none => s
      else s.resumeLanes i.blk i.u lanes
    s.askHandler i.blk i.u

/-- RTE (09 R227): the handler ends: its lanes resume, or with FWD the trap goes to the system cores. -/
def execRte (p : BitVec 4) (f : BitVec 1) (s : State) :
    Host.Outcome State Fault Refusal :=
  s.issue (sysAttr 0x32 1 p true) (fun i _ => i.inHandler) (fun i _ => i.bankPending)
    (fun i s => (s.leaveHandler i (f == 1), i.act))

/-- Lane and register that XLR and XLW name. -/
def Iss.xLane (i : Iss) (sa : BitVec 5) : Nat := (i.s sa).toNat % 32
def Iss.xReg (i : Iss) (x : BitVec 5) : Nat := (i.s x).toNat % 64

/-- A word of a handler of a warp, on a register of a parked lane; the trailing warp's XLR reads its own. -/
def State.xl (s : State) (a : Attr) (sa x : BitVec 5) (f : Iss → State → State) : Host.Outcome State Fault Refusal :=
  s.issue a (fun i _ => i.inHandler && !i.front && decide (i.xReg x < 56)) never (straight (fun i s =>
    if !i.trailing && (i.w.lane (i.xLane sa)).status != .parked then s.faultAct i Cause.PROT else f i s))

/-- XLR (09 R227): a register of a parked lane goes to a scalar register; one beyond its code is consumed (12 R277). -/
def execXlr (p : BitVec 4) (t sa x : BitVec 5) (s : State) :
    Host.Outcome State Fault Refusal :=
  s.xl { sysAttr 0x32 2 p false with rs := [sa.toNat, x.toNat], ws := [t.toNat], mirror := true } sa x
    (fun i s =>
      if natBit (i.w.lane (i.xLane sa)).bad.toNat (i.xReg x) then s.consume i.blk Cause.UNCORRECTABLE 3
      else s.putS i t ((i.w.lane (i.xLane sa)).reg (i.xReg x)))

/-- XLW (09 R227): a scalar register goes to a register of a parked lane, and clears its taint bit. The trailing warp's issues
nothing: it is compared (R235; notes/assumptions/38). -/
def execXlw (p : BitVec 4) (t sa x : BitVec 5) (s : State) :
    Host.Outcome State Fault Refusal :=
  s.xl
    { sysAttr 0x32 3 p false with
      rs := [sa.toNat, x.toNat, t.toNat]
      cmp := some (fun i _ => [(i.s sa).toNat, (i.s x).toNat, (i.s t).toNat]) } sa x
    (fun i s => s.modUnit i.blk i.u (fun w => w.modLane (i.xLane sa) (fun l => l.setReg (i.xReg x) (i.s t))))

/-- KILL (09 R228): the issuing block ends at once. -/
def execKill (p : BitVec 4) (sa : BitVec 5) (s : State) :
    Host.Outcome State Fault Refusal :=
  s.issue { sysAttr 0x32 4 p true with rs := [sa.toNat], cmp := some (fun i _ => [(i.s sa).toNat]) } always never
    (straight (fun i s => s.killBlock i.blk ((i.s sa).toNat % 256) .killed))

/-- PARKQ (09 R227): the mask of lanes parked for a cause, or for any. -/
def execParkq (p : BitVec 4) (t sa : BitVec 5) (s : State) :
    Host.Outcome State Fault Refusal :=
  s.issue { sysAttr 0x32 5 p false with rs := [sa.toNat], ws := [t.toNat], outs := [.s t.toNat] } always
    (fun i _ => !i.w.faultPointsPassed)
    (straight (fun i s =>
      let c := (i.s sa).toNat % 64
      s.putS i t (i.w.lanesWhere (fun l => l.status == .parked && (c == 0 || l.park.map Park.cause == some c)))))

/-- UNPARK (09 R227): parked lanes resume. -/
def execUnpark (p : BitVec 4) (sa : BitVec 5) (s : State) :
    Host.Outcome State Fault Refusal :=
  s.issue { sysAttr 0x32 6 p false with rs := [sa.toNat] } always never
    (straight (fun i s => s.resumeLanes i.blk i.u (i.s sa &&& i.w.parked)))

/-! ## Counters and energy (R229 to R233) -/

def Iss.ctrBank (i : Iss) (sa : BitVec 5) : Nat := (i.s sa).toNat % 4
def Iss.ctrNo (i : Iss) (sa : BitVec 5) : Nat := (i.s sa).toNat / 4 % 8

/-- A counter bank of the issuing core. -/
def State.bankOf (s : State) (i : Iss) (n : Nat) : CtrBank := (s.core i.core).banks.getD {} n
def State.modBank (s : State) (i : Iss) (n : Nat) (f : CtrBank → CtrBank) : State :=
  s.modCore i.core (fun k => { k with banks := k.banks.putD {} n (f (k.banks.getD {} n)) })

/-- The issuing block holds a bank, or it has been stolen from it. -/
def State.holds (s : State) (i : Iss) (n : Nat) : Bool := (s.bankOf i n).holder == some i.blk

/-- CTRCLM (09 R230): the block becomes the holder of a free bank: 0, or 1 where it is busy. -/
def execCtrclm (p : BitVec 4) (t sa : BitVec 5) (s : State) :
    Host.Outcome State Fault Refusal :=
  s.issue { sysAttr 0x33 0 p true with rs := [sa.toNat], ws := [t.toNat], outs := [.s t.toNat] } always never
    (straight (fun i s =>
      let n := i.ctrBank sa
      let b := s.bankOf i n
      if (s.part i.r.part).counters && ((b.holder.isNone && !b.stolen) || b.holder == some i.blk) then
        (s.modBank i n (fun b => { b with holder := some i.blk })).putS i t 0
      else s.putS i t 1))

/-- CTRREL (09 R230): a bank that the block holds is free. -/
def execCtrrel (p : BitVec 4) (sa : BitVec 5) (s : State) :
    Host.Outcome State Fault Refusal :=
  s.issue { sysAttr 0x33 1 p true with rs := [sa.toNat] } always never
    (straight (fun i s => if s.holds i (i.ctrBank sa) then s.modBank i (i.ctrBank sa) (fun b => { stolen := b.stolen }) else s))

/-- CTRCFG (09 R231): a counter of a held bank is configured; CLR sets it to 0. -/
def execCtrcfg (p : BitVec 4) (sa x : BitVec 5) (s : State) :
    Host.Outcome State Fault Refusal :=
  s.issue { sysAttr 0x33 2 p true with rs := [sa.toNat, x.toNat] } always never
    (straight (fun i s =>
      if !s.holds i (i.ctrBank sa) then s.faultAct i Cause.COUNTER_BUSY
      else s.modBank i (i.ctrBank sa) (fun b =>
        let c := b.ctrs.getD {} (i.ctrNo sa)
        let v := i.s x
        let c' : Counter := { config := v &&& 0x7FF, count := if natBit v.toNat 11 then 0 else c.count }
        { b with ctrs := b.ctrs.put (i.ctrNo sa) c' })))

/-- CTRRD_LO (09 R232): the low word of a counter; the high part goes to the reader's counter latch. -/
def execCtrrdLo (p : BitVec 4) (t sa : BitVec 5) (s : State) :
    Host.Outcome State Fault Refusal :=
  s.issue { sysAttr 0x33 3 p true with rs := [sa.toNat], ws := [t.toNat], outs := [.s t.toNat] } always never
    (straight (fun i s =>
      if !s.holds i (i.ctrBank sa) then s.faultAct i Cause.COUNTER_BUSY
      else
        let c := ((s.bankOf i (i.ctrBank sa)).ctrs.getD {} (i.ctrNo sa)).count
        (s.modUnit i.blk i.u (fun w => { w with ctrLatch := c.extractLsb' 32 16, ctrBank := i.ctrBank sa })).putS i t
          (c.extractLsb' 0 32)))

/-- CTRRD_HI (09 R232): the counter latch, and STOLEN. -/
def execCtrrdHi (p : BitVec 4) (t : BitVec 5) (s : State) :
    Host.Outcome State Fault Refusal :=
  s.issue { sysAttr 0x33 4 p true with ws := [t.toNat], outs := [.s t.toNat] } always never
    (straight (fun i s =>
      let b := s.bankOf i i.w.ctrBank
      let stolen : Word := if b.stolen && b.holder == some i.blk then 0x80000000 else 0
      s.putS i t (i.w.ctrLatch.setWidth 32 ||| stolen)))

/-- ENRD (09 R233): the block's energy sum goes to a scalar pair. -/
def execEnrd (p : BitVec 4) (t : BitVec 5) (s : State) :
    Host.Outcome State Fault Refusal :=
  s.issue
    { sysAttr 0x33 5 p true with
      legal := t != 31, ws := [t.toNat, t.toNat + 1], outs := [.s t.toNat, .s (t.toNat + 1)] }
    always (fun i _ => !i.w.energyIn)
    (straight (fun i s => (s.putS i t (i.b.energy.extractLsb' 0 32)).putS i (t + 1) (i.b.energy.extractLsb' 32 32)))

end Sys2Proof.Machine
end

