-- ==== Sys2Proof/Machine/Ladders.lean ====
section
/-! DEFINITION. Ladder instructions and the ladder unit's own steps (09 R213 to R219; 17 R369, R370). -/

namespace Sys2Proof.Machine

/-! ## Reaching memory at the home point -/

/-- A shape record, with the precise faults of fetching it. -/
def State.viewRecord (s : State) (i : Iss) (view : Nat) : Found Record × State :=
  s.viewOf i.core i.b.regid i.r (fun c => i.fault c) view

/-- Where an access of one lane through a view stands, with the faults of an ordinary access (07 R161); none where clip
mode 1 skips it. -/
def State.homeAt (s : State) (i : Iss) (view : Nat) (op : MemOp) (coords : List Word) : Found (Option (Leaf × Nat)) × State :=
  match s.viewRecord i view with
  | (.poison, s) => (.poison, s)
  | (.fault p, s) => (.fault p, s)
  | (.ok rec, s) => match checkLane rec op op.width 0 view 0 coords with
    | .error d => (.fault { i.fault d.cause with view := d.view, coord := d.coord }, s)
    | .ok elems => match elems.filterMap id with
      | [] => (.ok none, s)
      | va :: _ => match s.watchHits i.core i.r.part i.b.regid op.kind (touchedRuns op (min op.width (recEs rec)) elems) with
        | u :: us => (.fault { (i.fault 0).watching (u :: us) with acc := op.acc, va := va }, s)
        | [] => match s.translate i.core i.r.part va op.need op.acc (recSpace rec == 3) with
          | (.fault c acc, s) => (.fault { i.fault c with acc := acc, va := va }, s)
          | (.ok leaf, s) => (.ok (some (leaf, va)), s)

/-- The same for several elements of one lane, in order. -/
def State.homesAt (s : State) (i : Iss) (view : Nat) (op : MemOp) : List (List Word) → Found (List (Leaf × Nat)) × State
  | [] => (.ok [], s)
  | c :: cs => match s.homeAt i view op c with
    | (.fault p, s) => (.fault p, s)
    | (.poison, s) => (.poison, s)
    | (.ok x, s) => match s.homesAt i view op cs with
      | (.ok l, s) => (.ok (x.toList ++ l), s)
      | r => r

/-- Write a word at its home point, past the block store buffer: the block's buffered stores to the line go first; where that consumes an
error, the word is not written (12 R277, R285). Answers the write's number. -/
def State.storeHome (s : State) (i : Iss) (leaf : Leaf) (va : Nat) (x : Word) : Nat × State :=
  let h := leaf.home va
  let s := s.releaseLine i.blk h.line
  if s.hasConsumed i.blk then s.lostStore i.core i.blk h
  else
  let (id, s) := s.write i.core i.blk h (maskAt (offOf va) 4) (dataAt (offOf va) (leBytes 4 x.toNat))
  (id, (s.clearResv h.line true (fun _ _ _ => false)).addEnergy i.blk 8 1)

/-- Coordinates of the first `n` words of a frame (R216). -/
def frameCoords (f n : Nat) : List (List Word) := (List.range n).map (fun w => [BitVec.ofNat 32 w, BitVec.ofNat 32 f])

/-! ## LADR and LINFO (R213, R214, R219) -/

/-- The ladder view that a word names: the descriptor's address and translation. -/
def State.ladderView (s : State) (i : Iss) (v : Nat) : Found (Leaf × Nat) × State :=
  match s.viewRecord i v with
  | (.poison, s) => (.poison, s)
  | (.fault p, s) => (.fault p, s)
  | (.ok r, s) =>
    if !ladderViewOk r then (.fault { i.fault Cause.VIEW_BAD with view := viewWord v 0 }, s)
    else match s.translate i.core i.r.part (recBase r) { r := true } 0 false with
      | (.fault c acc, s) => (.fault { i.fault c with acc := acc, va := recBase r }, s)
      | (.ok leaf, s) => (.ok (leaf, recBase r), s)

/-- The ladder that a LADR submits to: as its unit holds it, or read anew from its descriptor (R213; 17 R369). -/
def State.openLadder (s : State) (i : Iss) (v : Nat) : Found Nat × State :=
  match s.ladderView i v with
  | (.poison, s) => (.poison, s)
  | (.fault p, s) => (.fault p, s)
  | (.ok (leaf, va), s) =>
    let key := leaf.key va
    let old := s.ladderAt key
    match old.filter (fun e => e.2.held) with
    | some (lid, _) => (.ok lid, s)
    | none =>
      match s.readLadder i.core i.b.regid i.r (fun c => i.fault c) v key (leaf.home va) (old.map Prod.snd) with
      | (.poison, s) => (.poison, s)
      | (.fault p, s) => (.fault p, s)
      | (.ok l, s) => match old with
        | some (lid, _) => (.ok lid, { s with ladders := s.ladders.put lid l })
        | none =>
          let (lid, s) := s.fresh
          (.ok lid, { s with ladders := s.ladders.put lid l })

/-- The region of a ladder's rung warps is live in the partition (13 R325). -/
def State.ladderLive (s : State) (part lid : Nat) : Bool :=
  match (s.ladders.get? lid).bind (fun l => s.region? (dRegion l.desc)) with
  | some g => g.part == part && (g.state == 1 || g.state == 2) && !g.aborting
  | none => false

/-- SUBMIT items to rung 0: what is not accepted at once waits, and the path with it (R214). -/
def State.submitItems (s : State) (i : Iss) (v : Nat) (ids : List Nat) (first count : Nat) : State :=
  match s.openLadder i v with
  | (.poison, s) => s.consume i.blk Cause.UNCORRECTABLE
  | (.fault p, s) => s.takeFault i.blk i.u i.act (fun _ => p)
  | (.ok lid, s) =>
    if !s.ladderLive i.r.part lid then (s.faultAct i Cause.PROT).ladderSettle lid
    else
      let (mark, s) := (s.grant lid).fresh
      let x : Submission := { mark := mark, block := i.blk, unit := i.u.num, ids := ids, first := first, count := count, view := v }
      match s.acceptFrom lid (Config.ladderItems + 1) x with
      | (none, s) => (s.commitSoon i.blk).ladderSettle lid
      | (some y, s) =>
        (s.modLadder lid (fun l => { l with arrivals := l.arrivals ++ [y] })).modUnit i.blk i.u (fun w =>
          w.modLanes i.path (fun _ l => if l.status == .running then { l with wait := .submit mark } else l))

/-- Attributes of a LADR: a release at DOM scope comes first (R214). -/
def ladrAttr (p : BitVec 4) (front : Bool) (rr rs : List Nat) (ops : Iss → List Nat) : Attr :=
  let a : Attr :=
    { sysAttr 0x30 0 p front with
      rr := rr, rs := rs, ordered := true, cmp := some (fun i _ => ops i), first := Iss.releasing, commits := true }
  { a with onStall := State.releaseFirst a }

/-- LADR_LANE (09 R214): after a release at DOM scope, each active lane's item goes to rung 0. -/
def execLadrLane (p : BitVec 4) (t sa : BitVec 5) (s : State) :
    Host.Outcome State Fault Refusal :=
  let ids := fun (i : Iss) => (lanesOf i.act).map (fun l => ((i.w.lane l).reg t.toNat).toNat)
  s.issue (ladrAttr p false [t.toNat] [sa.toNat] (fun i => i.viewNo sa :: ids i)) always never
    (straight (fun i s => s.submitItems i (i.viewNo sa) (ids i) 0 0))

/-- LADR_RANGE (09 R214): after a release at DOM scope, a range of items goes to rung 0. -/
def execLadrRange (p : BitVec 4) (t sa x : BitVec 5) (s : State) :
    Host.Outcome State Fault Refusal :=
  s.issue (ladrAttr p true [] [t.toNat, sa.toNat, x.toNat] (fun i => [i.viewNo sa, (i.s t).toNat, (i.s x).toNat])) always never
    (straight (fun i s => s.submitItems i (i.viewNo sa) [] (i.s t).toNat (i.s x).toNat))

/-- The unit holds no state for the ladder: LINFO reads RELTHRU in the descriptor (R219). -/
def State.readsDesc (s : State) (key : Nat) : Bool := ((s.ladderAt key).filter (fun x => x.2.held)).isNone

/-- A field of the ladder unit's state; a ladder with no items reads as its descriptor has RELTHRU, else 0 (R219). -/
def State.ladderInfo (s : State) (key e : Nat) : Nat :=
  match (s.ladderAt key).filter (fun x => x.2.held && s.ladderItems x.1 != 0) with
  | some (lid, l) =>
    if e < 4 then (l.queue e).length
    else if e = 4 then l.freeFrames.length
    else if e = 5 then l.relThru
    else s.ladderItems lid
  | none => if e = 5 then (((s.ladderAt key).filter (fun x => x.2.held)).map (fun x => x.2.relThru)).getD (s.rdNat (key + 80) 4) else 0

/-- LINFO (09 R219): a field of the ladder unit's state goes to a scalar register. -/
def execLinfo (p : BitVec 4) (t sa : BitVec 5) (e : BitVec 4) (s : State) :
    Host.Outcome State Fault Refusal :=
  s.issue
    { sysAttr 0x30 4 p true with legal := decide (e.toNat < 7), rs := [sa.toNat], ws := [t.toNat], outs := [.s t.toNat] }
    always never
    (straight (fun i s => match s.ladderView i (i.viewNo sa) with
      | (.poison, s) => s.consume i.blk Cause.UNCORRECTABLE
      | (.fault p, s) => s.takeFault i.blk i.u i.act (fun _ => p)
      | (.ok (leaf, va), s) =>
        let s := if e = 5 && s.readsDesc (leaf.key va) then s.demandAt (leaf.home va) else s
        if e = 5 && s.readsDesc (leaf.key va) && s.isPoisoned i.die (leaf.home va) then s.consume i.blk Cause.UNCORRECTABLE
        else s.putS i t (BitVec.ofNat 32 (s.ladderInfo (leaf.key va) e.toNat))))

/-! ## The end of an item on a rung (R216) -/

/-- Ladder, rung and state of the ladder of a rung warp. -/
def State.rungOf (s : State) (b : Block) : Option (Nat × Nat × Ladder) :=
  match b.rung with
  | some (lid, k) => (s.ladders.get? lid).map (fun l => (lid, k, l))
  | none => none

/-- The word runs in a rung warp. -/
def Iss.inRung (i : Iss) (s : State) : Bool := !i.front && (s.rungOf i.b).isSome

/-- Attributes of LESC and LRET: in a protected or checked region a commit point comes first (R216). -/
def rungAttr (fn : Nat) (p : BitVec 4) (legal : Bool) (rr : List Nat) (ops : Iss → List Nat) : Attr :=
  let a : Attr :=
    { sysAttr 0x30 fn p false with
      legal := legal, rr := rr, ordered := true, mirror := true, cmp := some (fun i _ => ops i)
      first := fun i s => i.inRung s && i.committing s, commits := true }
  { a with onStall := State.releaseFirst a }

/-- Lanes whose item has gone exit with status 0; what they did cannot be undone. -/
def State.rungExit (s : State) (i : Iss) (lid : Nat) (lanes : List Nat) : State :=
  if lanes.isEmpty then s
  else (((s.markCommitted i.blk).exitLanes i.blk i.u (maskOf lanes) (fun _ => 0)).commitSoon i.blk).ladderSettle lid

/-- What lanes of a LESC have come to, lane for lane. -/
structure Esc where
  s : State
  faults : List (Nat × Park) := []
  out : List Nat := []
  waiting : Bool := false

/-- A lane of a LESC stands back at its word until a frame is free; at its limit it takes LADDER_FRAME. -/
def Esc.wait (a : Esc) (i : Iss) (ftmo l : Nat) : Esc :=
  let stamp := (i.w.lane l).stamp
  let limit := 1024 * ftmo
  let set := fun (f : Lane → Lane) => a.s.modUnit i.blk i.u (fun w => w.modLane l f)
  if ftmo = 0 ∨ (stamp ≠ 0 ∧ stamp + limit ≤ a.s.dieCycles i.die + 1) then
    { a with
      s := set (fun x => { x with stamp := 0 })
      faults := a.faults ++ [(l, { i.fault Cause.LADDER_FRAME with coord := 0xFFFFFFFF })]
      waiting := true }
  else
    let t := if stamp = 0 then a.s.dieCycles i.die + 1 else stamp
    let s := set (fun x => { x with wait := .frame, pc := i.headPc, stamp := t })
    { a with s := if stamp = 0 then s.at (s.now + limit) (.ladderFrameTimeout i.blk l t) else s, waiting := true }

/-- Hand an item on to the next rung: its old frame is free. -/
def Esc.handOn (a : Esc) (i : Iss) (lid k l : Nat) (f : Option Nat) : Esc :=
  let x := i.w.lane l
  { a with s := ((a.s.enqueue lid (k + 1) (x.item.getD 0) f).freeFrame lid x.frame).takeItem i.blk l, out := a.out ++ [l] }

/-- One lane of a LESC. -/
def Esc.lane (i : Iss) (lid k n t : Nat) (a : Esc) (l : Nat) : Esc :=
  match a.s.ladders.get? lid with
  | none => a
  | some x =>
    let words := dFrame x.desc (k + 1)
    if dRungs x.desc ≤ k + 1 then { a with faults := a.faults ++ [(l, i.fault Cause.LADDER_TOP)] }
    else if words < n then
      { a with faults := a.faults ++ [(l, { i.fault Cause.LADDER_FRAME with coord := BitVec.ofNat 32 n })] }
    else if words = 0 then a.handOn i lid k l none
    else match x.freeFrames, a.waiting with
      | f :: rest, false => match a.s.homesAt i (dFpv x.desc) (.store 4) (frameCoords f words) with
        | (.poison, s) => { a with s := s.consume i.blk Cause.UNCORRECTABLE }
        | (.fault p, s) => { a with s := s, faults := a.faults ++ [(l, p)] }
        | (.ok at', s) =>
          let s := s.modLadder lid (fun y => { y with freeFrames := rest })
          let word := fun (w : Nat) => if w < n then (i.w.lane l).reg (t + w) else 0
          let s := (mapFrom 0 (fun w e => (w, e)) at').foldl (fun (s : State) (e : Nat × Leaf × Nat) =>
            (s.storeHome i e.2.1 e.2.2 (word e.1)).2) s
          { a with s := s }.handOn i lid k l (some f)
      | _, _ => a.wait i (dFtmo x.desc) l

/-- A lane that waits for a frame makes its path wait: the lanes that are inactive stand back at the word with it (R216). -/
def Warp.framePath (w : Warp) (i : Iss) : Warp :=
  if (lanesOf i.act).any (fun l => (w.lane l).wait == .frame) then
    w.modLanes (i.path &&& ~~~i.act) (fun _ x => if x.status == .running then { x with wait := .frame, pc := i.headPc, stamp := 0 } else x)
  else w

/-- LESC (09 R216): each lane's item goes to the next rung with a frame of words, and the lane exits. -/
def execLesc (p : BitVec 4) (t : BitVec 5) (e : BitVec 4) (s : State) :
    Host.Outcome State Fault Refusal :=
  let regs := (List.range e.toNat).map (t.toNat + ·)
  s.issue
    (rungAttr 1 p (decide (e.toNat < 9)) regs
      (fun i => e.toNat :: (lanesOf i.act).flatMap (fun l => regs.map (fun r => ((i.w.lane l).reg r).toNat))))
    Iss.inRung never
    (straight (fun i s =>
      if i.trailing then s.exitLanes i.blk i.u i.act (fun _ => 0)
      else match s.rungOf i.b with
        | none => s
        | some (lid, k, _) =>
          let a := (lanesOf i.act).foldl (Esc.lane i lid k e.toNat t.toNat) { s := s }
          ((a.s.modUnit i.blk i.u (fun w => w.framePath i)).takeFaults i.blk i.u 32 a.faults).rungExit i lid a.out))

/-- One lane of a LRET: the result at its home point, then the item retires. -/
def Esc.ret (i : Iss) (lid view t : Nat) (a : Esc) (l : Nat) : Esc :=
  let x := i.w.lane l
  let id := x.item.getD 0
  match a.s.homeAt i view (.store 4) [BitVec.ofNat 32 id] with
  | (.poison, s) => { a with s := s.consume i.blk Cause.UNCORRECTABLE }
  | (.fault p, s) => { a with s := s, faults := a.faults ++ [(l, p)] }
  | (.ok at', s) =>
    let (write, s) := match at' with
      | some (leaf, va) =>
        let (n, s) := s.storeHome i leaf va (x.reg t)
        (some n, s)
      | none => (none, s)
    { a with s := ((s.retire lid id write).freeFrame lid x.frame).takeItem i.blk l, out := a.out ++ [l] }

/-- LRET (09 R216): each lane's result is written, its item retires, and the lane exits. -/
def execLret (p : BitVec 4) (t : BitVec 5) (s : State) :
    Host.Outcome State Fault Refusal :=
  s.issue (rungAttr 2 p true [t.toNat] (fun i => (lanesOf i.act).map (fun l => ((i.w.lane l).reg t.toNat).toNat)))
    Iss.inRung never
    (straight (fun i s =>
      if i.trailing then s.exitLanes i.blk i.u i.act (fun _ => 0)
      else match s.rungOf i.b with
        | none => s
        | some (lid, _, x) =>
          let a := (lanesOf i.act).foldl (Esc.ret i lid (dResv x.desc) t.toNat) { s := s }
          (a.s.takeFaults i.blk i.u 32 a.faults).rungExit i lid a.out))

/-- A word of a frame as its block reads it, at the home point: its own buffered stores over it. -/
def State.frameWord (s : State) (i : Iss) (leaf : Leaf) (va : Nat) : Option Word :=
  let h := leaf.home va
  if s.isPoisoned i.die h then none
  else some (BitVec.ofNat 32 (leNat (bytesOfLine (s.blockLine i.blk h (s.lineData h.line)) (offOf va) 4)))

/-- A core's later reads of a line come no earlier than what has been read at its home (10 R238). -/
def State.dropCopiesOf (s : State) (core line : Nat) : State := (s.l1Drop core line).dropFarCopy (dieOf core) line

/-- One lane of a LFRM. -/
def Esc.load (i : Iss) (lid k t : Nat) (a : Esc) (l : Nat) : Esc :=
  match (i.w.lane l).frame, a.s.ladders.get? lid with
  | some f, some x => match a.s.homesAt i (dFpv x.desc) (.load 4 false) (frameCoords f (dFrame x.desc k)) with
    | (.poison, s) => { a with s := s.consume i.blk Cause.UNCORRECTABLE }
    | (.fault p, s) => { a with s := s, faults := a.faults ++ [(l, p)] }
    | (.ok at', s) =>
      let s := at'.foldl (fun (s : State) e => s.demandAt (e.1.home e.2)) s
      let words := at'.filterMap (fun e => s.frameWord i e.1 e.2)
      let s := at'.foldl (fun (s : State) e =>
        let h := e.1.home e.2
        (s.readsFrom i.blk h.line (maskAt (offOf e.2) 4) none).dropCopiesOf i.core h.line) s
      if words.length < at'.length then { a with s := s.consume i.blk Cause.UNCORRECTABLE }
      else
        let s := s.modUnit i.blk i.u (fun w => w.modLane l (fun y =>
          { (mapFrom 0 (fun n v => (t + n, v)) words).foldl (fun (y : Lane) e => y.setReg e.1 e.2) y with frame := none }))
        { a with s := s.freeFrame lid (some f) }
  | _, _ => a

/-- Words of a frame on the rung of the thread that issues. -/
def State.rungFrame (s : State) : Nat :=
  match s.cur.bind (fun g => (s.block? g.block).bind s.rungOf) with
  | some (_, k, x) => dFrame x.desc k
  | none => 0

/-- LFRM (09 R216): each lane's frame goes to registers, and is free. -/
def execLfrm (p : BitVec 4) (t : BitVec 5) (s : State) :
    Host.Outcome State Fault Refusal :=
  let regs := (List.range s.rungFrame).map (t.toNat + ·)
  s.issue { sysAttr 0x30 3 p false with ordered := true, rr := regs, wv := regs, outs := regs.map Out.v }
    (fun i s => i.inRung s && decide (t.toNat + s.rungFrame ≤ 56)) never
    (straight (fun i s => match s.rungOf i.b with
      | none => s
      | some (lid, k, _) =>
        let a := (lanesOf i.act).foldl (Esc.load i lid k t.toNat) { s := s }
        a.s.takeFaults i.blk i.u 32 a.faults))

/-! ## The ladder unit's own steps (R215, R216; 13 R314) -/

/-- LADDER_STARVATION (09 R215): the oldest item of a rung has waited its limit. -/
def execLadderStarvation (ladder rung : Nat) (s : State) :
    Host.Outcome State Fault Refusal :=
  .next (s.ladderPump ladder rung)

/-- LADDER_WARP_LAUNCH (09 R215): a rung's oldest items, 32 at most, go to a rung warp, which waits to be bound. -/
def execLadderWarpLaunch (ladder rung core tile0 wslot0 : Nat) (s : State) :
    Host.Outcome State Fault Refusal :=
  match s.ladders.get? ladder with
  | none => .next s
  | some l => match s.region? (dRegion l.desc) with
    | none => .next s
    | some r =>
      if !l.ready (s.dieCycles l.die) rung || !s.roomFor (dRegion l.desc) r || !(s.freeReserve l r).contains (core, tile0, wslot0) then .next (s.ladderPump ladder rung)
      else
        let taken := (l.queue rung).take 32
        let x : Launched := { rung := rung, core := core, wslot0 := wslot0, items := taken }
        let s := s.modLadder ladder (fun l =>
          { l with
            queues := listMod l.queues rung (List.drop 32), launched := l.launched ++ [x]
            flight := listMod l.flight rung (· + 1) })
        let s := s.writeBind core (bindRecord (dRegion l.desc) l.cluster rung 0 (core % Config.coresPerDie) tile0 r.ntile wslot0
          (s.freeSnap r.part) 1)
        let s := s.ladders.foldl (fun (s : State) e =>
          if e.2.die = l.die ∧ e.2.cluster = l.cluster then s.acceptMore e.1 else s) s
        .next ((s.starveClock ladder rung).ladderPump ladder rung)

/-- LADDER_FRAME_TIMEOUT (09 R216): lanes that have waited for a frame for their limit take LADDER_FRAME; the lanes of their path
that were inactive at the LESC go on. -/
def execLadderFrameTimeout (blk lane stamp : Nat) (s : State) :
    Host.Outcome State Fault Refusal :=
  match s.unit? blk (.warp 0) with
  | none => .next s
  | some w =>
    let x := w.lane lane
    if x.wait ≠ .frame ∨ x.stamp ≠ stamp then .next s
    else
      let m := w.lanesWhere (fun l => l.wait == .frame && l.stamp == stamp)
      let s := s.modUnit blk (.warp 0) (fun w =>
        let w := w.modLanes m (fun _ l => { l with stamp := 0 })
        w.modLanes (w.lanesWhere (fun l => l.wait == .frame && l.stamp == 0) &&& ~~~m) (fun _ l => { l with wait := .none }))
      .next (s.takeFault blk (.warp 0) m (fun _ =>
        { cause := Cause.LADDER_FRAME, pc := x.pc, resume := x.pc, view := 0, coord := 0xFFFFFFFF, stamp := 0 }))

end Sys2Proof.Machine
end

