-- ==== Sys2Proof/Machine/LaneOps.lean ====
section
/-! DEFINITION. Lane instructions (06 R150, R151; 03 R80). -/

namespace Sys2Proof.Machine

/-- Attributes of a lane instruction (R150, R151). -/
def laneAttr (maj fn : Nat) (p : BitVec 4) (d a b : BitVec 6) (n : BitVec 1) : Attr := vecAttr maj fn 4 p d a b n false

/-- A shuffle: a of the lane that `from'` names where that lane is active, else the reading lane's own a (R150). -/
def State.shuffle (s : State) (fn : Nat) (p : BitVec 4) (d a b : BitVec 6) (n : BitVec 1)
    (source : Nat → Word → Option Nat) : Host.Outcome State Fault Refusal :=
  s.compute (laneAttr 0x10 fn p d a b n) (fun i s =>
    s.results i d (nwOf n) (fun l =>
      let y := i.op l b
      let m := match source l y.1 with
        | some m => if inMask i.act m then m else l
        | none => l
      let x := i.op m a
      (x.1, x.2 || y.2)))

/-- One value that every active lane receives, made of a over the active lanes. -/
def State.gather (s : State) (maj fn : Nat) (p : BitVec 4) (d a : BitVec 6) (n : BitVec 1)
    (f : Hints → List Word → Word × Flags) : Host.Outcome State Fault Refusal :=
  s.compute (laneAttr maj fn p d a 56 n) (fun i s =>
    let r := f i.h ((lanesOf i.act).map (fun l => (i.op l a).1))
    let taint := (lanesOf i.act).any (fun l => (i.op l a).2)
    (s.results i d (nwOf n) (fun _ => (r.1, taint))).raiseFlags i r.2)

/-- The active lanes whose a satisfies a test. -/
def Iss.ballot (i : Iss) (a : BitVec 6) (f : Word → Bool) : Word :=
  maskOf ((lanesOf i.act).filter (fun l => f (i.op l a).1))

/-- The tree of R80 down to its last node. -/
def treeToTwo (f : Nat → Nat → Nat × Flags) : Nat → List (Nat × Flags) → List (Nat × Flags)
  | 0, l => l
  | n + 1, l => if l.length ≤ 2 then l
    else treeToTwo f n (pairUp (fun x y => let r := f x.1 y.1; (r.1, r.2 ||| x.2 ||| y.2)) l)

/-- REDUX.ADD.F32 over operands in lane order: the tree, SAT on the last result only (R80, R151). -/
def reduxF32 (m : Mods) (l : List Nat) : Nat × Flags :=
  match treeToTwo (fadd .f32 { m with sat := false }) 5 (l.map (fun x => (x, 0))) with
  | [x, y] => let r := fadd .f32 m x.1 y.1; (r.1, r.2 ||| x.2 ||| y.2)
  | [x] => finish .f32 m (readF .f32 x.1) (snanFlag [readF .f32 x.1])
  | _ => (0, 0)

/-- SHFL_IDX (06 R150): a of lane b<4:0>. -/
def execShflIdx (p : BitVec 4) (d a b : BitVec 6) (n : BitVec 1) (s : State) :
    Host.Outcome State Fault Refusal :=
  s.shuffle 0 p d a b n (fun _ y => some (y.toNat % 32))

/-- SHFL_XOR (06 R150): a of lane l ^ b<4:0>. -/
def execShflXor (p : BitVec 4) (d a b : BitVec 6) (n : BitVec 1) (s : State) :
    Host.Outcome State Fault Refusal :=
  s.shuffle 1 p d a b n (fun l y => some (l ^^^ (y.toNat % 32)))

/-- SHFL_UP (06 R150): a of lane l − b. -/
def execShflUp (p : BitVec 4) (d a b : BitVec 6) (n : BitVec 1) (s : State) :
    Host.Outcome State Fault Refusal :=
  s.shuffle 2 p d a b n (fun l y => if l < y.toNat then none else some (l - y.toNat))

/-- SHFL_DOWN (06 R150): a of lane l + b. -/
def execShflDown (p : BitVec 4) (d a b : BitVec 6) (n : BitVec 1) (s : State) :
    Host.Outcome State Fault Refusal :=
  s.shuffle 3 p d a b n (fun l y => if 31 < l + y.toNat then none else some (l + y.toNat))

/-- VOTE_ANY (06 R150): whether a ≠ 0 in any active lane. -/
def execVoteAny (p : BitVec 4) (g : BitVec 2) (k : BitVec 3) (a : BitVec 6) (s : State) :
    Host.Outcome State Fault Refusal :=
  s.compute (predAttr 0x10 4 4 p g k [a]) (fun i s => s.predResults i g k (fun _ => i.ballot a (· != 0) != 0))

/-- VOTE_ALL (06 R150): whether a ≠ 0 in every active lane. -/
def execVoteAll (p : BitVec 4) (g : BitVec 2) (k : BitVec 3) (a : BitVec 6) (s : State) :
    Host.Outcome State Fault Refusal :=
  s.compute (predAttr 0x10 5 4 p g k [a]) (fun i s => s.predResults i g k (fun _ => i.ballot a (· != 0) == i.act))

/-- BALLOT (06 R150): the active lanes whose a ≠ 0. -/
def execBallot (p : BitVec 4) (d a : BitVec 6) (n : BitVec 1) (s : State) :
    Host.Outcome State Fault Refusal :=
  s.compute (laneAttr 0x10 6 p d a 56 n) (fun i s =>
    s.results i d (nwOf n) (fun _ => (i.ballot a (· != 0), (lanesOf i.act).any (fun l => (i.op l a).2))))

/-- MATCH (06 R150): the active lanes whose a equals the lane's own. -/
def execMatchLanes (p : BitVec 4) (d a : BitVec 6) (n : BitVec 1) (s : State) :
    Host.Outcome State Fault Refusal :=
  s.compute (laneAttr 0x10 7 p d a 56 n) (fun i s =>
    s.results i d (nwOf n) (fun l => (i.ballot a (· == (i.op l a).1), (lanesOf i.act).any (fun l => (i.op l a).2))))

/-- REDUX_ADD_I32 (06 R151): the sum of a over the active lanes. -/
def execReduxAddI32 (p : BitVec 4) (d a : BitVec 6) (n : BitVec 1) (s : State) :
    Host.Outcome State Fault Refusal :=
  s.gather 0x11 0 p d a n (fun _ l => (l.foldl (· + ·) 0, 0))

/-- REDUX_MIN_I32 (06 R151): the signed minimum. -/
def execReduxMinI32 (p : BitVec 4) (d a : BitVec 6) (n : BitVec 1) (s : State) :
    Host.Outcome State Fault Refusal :=
  s.gather 0x11 1 p d a n (fun _ l => (l.foldl (fun x y => if y.slt x then y else x) 0x7FFFFFFF, 0))

/-- REDUX_MAX_I32 (06 R151): the signed maximum. -/
def execReduxMaxI32 (p : BitVec 4) (d a : BitVec 6) (n : BitVec 1) (s : State) :
    Host.Outcome State Fault Refusal :=
  s.gather 0x11 2 p d a n (fun _ l => (l.foldl (fun x y => if x.slt y then y else x) 0x80000000, 0))

/-- REDUX_ADD_F32 (06 R151): the tree sum in ascending lane order. -/
def execReduxAddF32 (p : BitVec 4) (d a : BitVec 6) (n : BitVec 1) (s : State) :
    Host.Outcome State Fault Refusal :=
  s.gather 0x11 3 p d a n (fun h l =>
    let r := reduxF32 h.mods (l.map BitVec.toNat)
    (BitVec.ofNat 32 r.1, r.2))

/-- ELECT (06 R151): 1 in the lowest active lane, 0 in the others. -/
def execElect (p : BitVec 4) (g : BitVec 2) (k : BitVec 3) (s : State) :
    Host.Outcome State Fault Refusal :=
  s.compute (predAttr 0x11 4 4 p g k []) (fun i s => s.predResults i g k (fun l => l == i.lead))

/-- S2V (06 R151): a scalar register to every active lane. -/
def execS2v (p : BitVec 4) (d : BitVec 6) (sa : BitVec 5) (n : BitVec 1) (s : State) :
    Host.Outcome State Fault Refusal :=
  s.compute { laneAttr 0x11 5 p d 56 56 n with rs := [sa.toNat] } (fun i s =>
    s.results i d (nwOf n) (fun _ => (i.s sa, false)))

/-- V2S (06 R151): a of the lowest active lane to a scalar register. -/
def execV2s (p : BitVec 4) (d : BitVec 5) (a : BitVec 6) (s : State) :
    Host.Outcome State Fault Refusal :=
  s.compute
    { maj := 0x11, fn := 6, cls := 4, p := some p, legal := src a, rv := [a], ws := [d.toNat] }
    (fun i s => s.putS i d (i.op i.lead a).1)

end Sys2Proof.Machine
end

