-- ==== Sys2Proof/Machine/Launch.lean ====
section
/-! DEFINITION. RLAUNCH and RQUERY (09 R221, R222; 13 R303 to R306). -/

namespace Sys2Proof.Machine

/-- The view of an array of RCBs: space 0, rank 1, B128, clip mode 0. -/
def rcbViewOk (r : Record) : Bool :=
  recordOk r && recSpace r == 0 && recRank r == 1 && recType r == 13 && recClip r == 0

/-- The RCB that a word names, with the precise faults of reaching it (R221). -/
def State.rcbAt (s : State) (i : Iss) (sa x : BitVec 5) : Found (Leaf × Nat) × State :=
  let v := i.viewNo sa
  let n := 16 * (i.s x).toNat
  match s.viewRecord i v with
  | (.poison, s) => (.poison, s)
  | (.fault p, s) => (.fault p, s)
  | (.ok r, s) =>
    let va := elemAddr r [((n : Nat) : Int)]
    if !rcbViewOk r then (.fault { i.fault Cause.VIEW_BAD with view := viewWord v 0 }, s)
    else if recExt r 0 ≤ n then
      (.fault { i.fault Cause.VIEW_BOUNDS with view := viewWord v 0, coord := BitVec.ofNat 32 n }, s)
    else if va < 0 ∨ ((2 ^ 52 : Nat) : Int) ≤ va then (.fault (i.fault Cause.PROT), s)
    else if va % 256 ≠ 0 then (.fault (i.fault Cause.ALIGN), s)
    else match s.translate i.core i.r.part va.toNat { r := true } 0 false with
      | (.fault c acc, s) => (.fault { i.fault c with acc := acc, va := va.toNat }, s)
      | (.ok leaf, s) => (.ok (leaf, va.toNat), s)

/-- The RCB can be reached: only then does the release come (R221). -/
def State.rcbReached (s : State) (i : Iss) (sa x : BitVec 5) : Bool :=
  match s.rcbAt i sa x with
  | (.ok _, _) => true
  | _ => false

/-- Write a token word that is DONE at once; reading it acquires. -/
def State.doneToken (s : State) (i : Iss) (t : BitVec 5) (x : Word) : State :=
  let reg := i.w.sKey i.act t.toNat
  let top := s.topTime
  (s.putS i t x).modUnit i.blk i.u (fun w => { w with acq := w.acq.put reg { time := top } })

/-- Launch a child: refused, the token says so at once; accepted, it is pending, or with .D done (R221). -/
def State.launchChild (s : State) (i : Iss) (t : BitVec 5) (d : Bool) (va : Nat) : State :=
  let dest : TokenDest := { block := i.blk, unit := i.u.num, reg := i.w.sKey i.act t.toNat }
  match s.launch i.die i.r.part va (some i.b.regid) (if d then none else some dest) d with
  | (.refused, s) => (s.doneToken i t 0x90000000).commitSoon i.blk
  | (.accepted n, s) =>
    let s := s.markCommitted i.blk
    let s := if d then s.doneToken i t 0x80000000
      else (s.putS i t 0).modUnit i.blk i.u (fun w => { w with pend := w.pend.put dest.reg n, acq := w.acq.erase dest.reg })
    (s.commitSoon i.blk).villek

/-- Attributes of RLAUNCH: the faults of reaching the RCB, the release, the wait on a pending S[T], in that order (R221). -/
def rlaunchAttr (p : BitVec 4) (t sa x : BitVec 5) (e : BitVec 1) : Attr :=
  let a : Attr :=
    { sysAttr 0x31 0 p true with
      rs := [sa.toNat, x.toNat], ws := [t.toNat], ordered := true, token := some t.toNat, commits := true
      cmp := some (fun i _ => [t.toNat, i.viewNo sa, (i.s x).toNat, e.toNat]) }
  let a := { a with
    first := fun i s => !i.readStall a && s.rcbReached i sa x && i.releasing s, writes := fun i s => s.rcbReached i sa x }
  { a with onStall := State.releaseFirst a }

/-- RLAUNCH (09 R221): after a release at DOM scope, an RCB becomes a child region, and a token awaits its end. -/
def execRlaunch (p : BitVec 4) (t sa x : BitVec 5) (e : BitVec 1) (s : State) :
    Host.Outcome State Fault Refusal :=
  s.issue (rlaunchAttr p t sa x e) always never
    (straight (fun i s => match s.rcbAt i sa x with
      | (.poison, s) => s.consume i.blk Cause.UNCORRECTABLE
      | (.fault p, s) => s.takeFault i.blk i.u i.act (fun _ => p)
      | (.ok (_, va), s) => s.launchChild i t (e == 1) va))

/-- A field of an RCB's launch state (R222). -/
def State.launchState (s : State) (key e : Nat) : Nat :=
  let state := s.rdNat (key + 128) 1
  let id := if state = 0 ∨ state = 5 then 0xFFFFFFFF else s.rdNat (key + 129) 4
  let of := fun (f : Region → Nat) => ((s.region? id).map f).getD 0
  match e with
  | 0 => state
  | 1 => id
  | 2 => of Region.ndone
  | 3 => of Region.nrelaunch
  | 4 => of Region.nlost
  | 5 => of Region.maxStat
  | _ => of (fun r => r.energy.toNat)

/-- RQUERY (09 R222): a field of an RCB's launch state goes to a scalar register. -/
def execRquery (p : BitVec 4) (t sa x : BitVec 5) (e : BitVec 4) (s : State) :
    Host.Outcome State Fault Refusal :=
  s.issue
    { sysAttr 0x31 1 p true with
      legal := decide (e.toNat < 7), rs := [sa.toNat, x.toNat], ws := [t.toNat], outs := [.s t.toNat] }
    always never
    (straight (fun i s => match s.rcbAt i sa x with
      | (.poison, s) => s.consume i.blk Cause.UNCORRECTABLE
      | (.fault p, s) => s.takeFault i.blk i.u i.act (fun _ => p)
      | (.ok (leaf, va), s) =>
        let s := (s.demandAt (leaf.home va)).demandAt (leaf.home (va + 128))
        if s.isPoisoned i.die (leaf.home va) || s.isPoisoned i.die (leaf.home (va + 128)) then s.consume i.blk Cause.UNCORRECTABLE
        else s.putS i t (BitVec.ofNat 32 (s.launchState (leaf.key va) e.toNat))))

end Sys2Proof.Machine
end

