-- ==== Sys2Proof/Machine/Mma.lean ====
section
/-! DEFINITION. Fragment multiply (06 R153 to R155). -/

namespace Sys2Proof.Machine

/-- Element (row, k) of A and (k, column) of B in a fragment of `w`-bit elements, as a lane holds them (R154). -/
def fragA (w row k : Nat) : Nat × Nat × Nat := (row + 16 * (k / 8), k % 8 * w / 32, k % (32 / w) * w)
def fragB (w k col : Nat) : Nat × Nat × Nat := (col + 8 * (k / 4), k % 4 * w / 32, k % (32 / w) * w)

/-- The bits of an element: lane, register of the group, bit position. -/
def Iss.frag (i : Iss) (base w : Nat) (e : Nat × Nat × Nat) : Nat :=
  field ((i.w.lane e.1).reg (base + e.2.1)) e.2.2 w

/-- Result register `k` of a lane lies at row `l & 15`, column `4h + k` (R154). -/
def fragD (l k : Nat) : Nat × Nat := (l % 16, 4 * (l / 16) + k)

/-- Whether a register of a group is tainted in one of some lanes. -/
def Iss.fragTaint (i : Iss) (base n : Nat) (lanes : List Nat) : Bool :=
  lanes.any (fun l => (List.range n).any (fun k => (i.w.lane l).tainted (base + k)))

/-- MMA (R153 to R155): every lane of the warp takes part; element (r, j) of D is made of row r of A, column j of B and
the old element. -/
def State.mma (s : State) (fn w : Nat) (p : BitVec 4) (d a b : BitVec 6) (f : List (Nat × Nat) → Word → Word) :
    Host.Outcome State Fault Refusal :=
  let na := w / 4
  let nb := w / 8
  let group := fun (x : BitVec 6) n => (List.range n).map (x.toNat + ·)
  s.issue
    { maj := 0x2F, fn := fn, serial := true, cls := 6, p := some p, legal := run d 4 && run a na && run b nb,
      rr := group d 4 ++ group a na ++ group b nb, wv := group d 4, value := true }
    (fun i _ => i.act == 0xFFFFFFFF) never
    (straight (fun i s => s.modUnit i.blk i.u (fun v => v.modLanes i.act (fun l x =>
      let one := fun (k : Nat) =>
        let (r, j) := fragD l k
        let v := f ((List.range 16).map (fun k => (i.frag a.toNat w (fragA w r k), i.frag b.toNat w (fragB w k j))))
          ((i.w.lane l).reg (d.toNat + k))
        let t := (i.w.lane l).tainted (d.toNat + k) || i.fragTaint a.toNat na [r, r + 16]
          || i.fragTaint b.toNat nb [j, j + 8, j + 16, j + 24]
        (v, t)
      let x := x.setLatch (one 0).1 (one 0).2
      (List.range 4).foldl (fun (x : Lane) k => x.setReg (d.toNat + k) (one k).1 (one k).2) x))))

/-- One exact sum of 16 products, added to C with one RN rounding (03 R79). -/
def mmaFloat (f : Fmt) (l : List (Nat × Nat)) (c : Word) : Word :=
  let one : FVal := .fin false 1 0
  BitVec.ofNat 32 (accChunk c.toNat (chunkSum (l.map (fun e => (readF f e.1, readF f e.2)))) one one)

/-- The exact sum of 16 I8 products, added modulo 2^32 (03 R79). -/
def mmaInt (l : List (Nat × Nat)) (c : Word) : Word :=
  c + BitVec.ofInt 32 ((l.map (fun e => sextNat e.1 8 * sextNat e.2 8)).foldl (· + ·) 0)

/-- MMA_F16 (06 R153): D becomes A × B + D over the fragments of a warp. -/
def execMmaF16 (p : BitVec 4) (d a b : BitVec 6) (s : State) :
    Host.Outcome State Fault Refusal :=
  s.mma 0 16 p d a b (mmaFloat .f16)

/-- MMA_BF16 (06 R153): D becomes A × B + D over the fragments of a warp. -/
def execMmaBf16 (p : BitVec 4) (d a b : BitVec 6) (s : State) :
    Host.Outcome State Fault Refusal :=
  s.mma 1 16 p d a b (mmaFloat .bf16)

/-- MMA_F8E4 (06 R153): D becomes A × B + D over the fragments of a warp. -/
def execMmaF8e4 (p : BitVec 4) (d a b : BitVec 6) (s : State) :
    Host.Outcome State Fault Refusal :=
  s.mma 2 8 p d a b (mmaFloat .f8e4)

/-- MMA_F8E5 (06 R153): D becomes A × B + D over the fragments of a warp. -/
def execMmaF8e5 (p : BitVec 4) (d a b : BitVec 6) (s : State) :
    Host.Outcome State Fault Refusal :=
  s.mma 3 8 p d a b (mmaFloat .f8e5)

/-- MMA_I8 (06 R153): D becomes A × B + D over the fragments of a warp. -/
def execMmaI8 (p : BitVec 4) (d a b : BitVec 6) (s : State) :
    Host.Outcome State Fault Refusal :=
  s.mma 4 8 p d a b mmaInt

end Sys2Proof.Machine
end

