-- ==== Sys2Proof/Machine/Dispatch.lean ====
section
/-! DEFINITION. The meaning of every instruction: one arm for each constructor. -/

namespace Sys2Proof.Machine

/-- What an instruction does. -/
def exec (i : Instr) (s : State) : Host.Outcome State Fault Refusal :=
  match i with
  | .iadd p d a b n => Sys2Proof.Machine.execIadd p d a b n s
  | .isub p d a b n => Sys2Proof.Machine.execIsub p d a b n s
  | .imul p d a b n => Sys2Proof.Machine.execImul p d a b n s
  | .imad p d a b n => Sys2Proof.Machine.execImad p d a b n s
  | .imulhI32 p d a b n => Sys2Proof.Machine.execImulhI32 p d a b n s
  | .imulhN32 p d a b n => Sys2Proof.Machine.execImulhN32 p d a b n s
  | .iaddsI32 p d a b n => Sys2Proof.Machine.execIaddsI32 p d a b n s
  | .isubsI32 p d a b n => Sys2Proof.Machine.execIsubsI32 p d a b n s
  | .iminI32 p d a b n => Sys2Proof.Machine.execIminI32 p d a b n s
  | .iminN32 p d a b n => Sys2Proof.Machine.execIminN32 p d a b n s
  | .imaxI32 p d a b n => Sys2Proof.Machine.execImaxI32 p d a b n s
  | .imaxN32 p d a b n => Sys2Proof.Machine.execImaxN32 p d a b n s
  | .iabsI32 p d a n => Sys2Proof.Machine.execIabsI32 p d a n s
  | .idiffN32 p d a b n => Sys2Proof.Machine.execIdiffN32 p d a b n s
  | .iadd64 p d a b => Sys2Proof.Machine.execIadd64 p d a b s
  | .isub64 p d a b => Sys2Proof.Machine.execIsub64 p d a b s
  | .andV p d a b n => Sys2Proof.Machine.execAndV p d a b n s
  | .orV p d a b n => Sys2Proof.Machine.execOrV p d a b n s
  | .xorV p d a b n => Sys2Proof.Machine.execXorV p d a b n s
  | .andn p d a b n => Sys2Proof.Machine.execAndn p d a b n s
  | .shl p d a b n => Sys2Proof.Machine.execShl p d a b n s
  | .shr p d a b n => Sys2Proof.Machine.execShr p d a b n s
  | .sar p d a b n => Sys2Proof.Machine.execSar p d a b n s
  | .rot p d a b n => Sys2Proof.Machine.execRot p d a b n s
  | .popc p d a n => Sys2Proof.Machine.execPopc p d a n s
  | .clz p d a n => Sys2Proof.Machine.execClz p d a n s
  | .brev p d a n => Sys2Proof.Machine.execBrev p d a n s
  | .bfeI32 p d a b n => Sys2Proof.Machine.execBfeI32 p d a b n s
  | .bfeN32 p d a b n => Sys2Proof.Machine.execBfeN32 p d a b n s
  | .bfi p d a b n => Sys2Proof.Machine.execBfi p d a b n s
  | .lop3 p d a b n => Sys2Proof.Machine.execLop3 p d a b n s
  | .prmt p d a b n => Sys2Proof.Machine.execPrmt p d a b n s
  | .isetEq p g k a b => Sys2Proof.Machine.execIsetEq p g k a b s
  | .isetNe p g k a b => Sys2Proof.Machine.execIsetNe p g k a b s
  | .isetLtI32 p g k a b => Sys2Proof.Machine.execIsetLtI32 p g k a b s
  | .isetLeI32 p g k a b => Sys2Proof.Machine.execIsetLeI32 p g k a b s
  | .isetLtN32 p g k a b => Sys2Proof.Machine.execIsetLtN32 p g k a b s
  | .isetLeN32 p g k a b => Sys2Proof.Machine.execIsetLeN32 p g k a b s
  | .isetTst p g k a b => Sys2Proof.Machine.execIsetTst p g k a b s
  | .isetNtst p g k a b => Sys2Proof.Machine.execIsetNtst p g k a b s
  | .sel p d a b n k => Sys2Proof.Machine.execSel p d a b n k s
  | .iaddi p d a im => Sys2Proof.Machine.execIaddi p d a im s
  | .shli p d a im => Sys2Proof.Machine.execShli p d a im s
  | .shri p d a im => Sys2Proof.Machine.execShri p d a im s
  | .sari p d a im => Sys2Proof.Machine.execSari p d a im s
  | .roti p d a im => Sys2Proof.Machine.execRoti p d a im s
  | .andi p d a im => Sys2Proof.Machine.execAndi p d a im s
  | .ori p d a im => Sys2Proof.Machine.execOri p d a im s
  | .xori p d a im => Sys2Proof.Machine.execXori p d a im s
  | .fadd p d a b n => Sys2Proof.Machine.execFadd p d a b n s
  | .fsub p d a b n => Sys2Proof.Machine.execFsub p d a b n s
  | .fmul p d a b n => Sys2Proof.Machine.execFmul p d a b n s
  | .ffma p d a b n => Sys2Proof.Machine.execFfma p d a b n s
  | .fmin p d a b n => Sys2Proof.Machine.execFmin p d a b n s
  | .fmax p d a b n => Sys2Proof.Machine.execFmax p d a b n s
  | .fmna p d a b n => Sys2Proof.Machine.execFmna p d a b n s
  | .fcopys p d a b n => Sys2Proof.Machine.execFcopys p d a b n s
  | .fsetEq p g k a b => Sys2Proof.Machine.execFsetEq p g k a b s
  | .fsetNe p g k a b => Sys2Proof.Machine.execFsetNe p g k a b s
  | .fsetLt p g k a b => Sys2Proof.Machine.execFsetLt p g k a b s
  | .fsetLe p g k a b => Sys2Proof.Machine.execFsetLe p g k a b s
  | .fsetOrd p g k a b => Sys2Proof.Machine.execFsetOrd p g k a b s
  | .fsetUnord p g k a b => Sys2Proof.Machine.execFsetUnord p g k a b s
  | .fsetEqu p g k a b => Sys2Proof.Machine.execFsetEqu p g k a b s
  | .fsetLtu p g k a b => Sys2Proof.Machine.execFsetLtu p g k a b s
  | .frcp p d a n => Sys2Proof.Machine.execFrcp p d a n s
  | .frsq p d a n => Sys2Proof.Machine.execFrsq p d a n s
  | .fsqrt p d a n => Sys2Proof.Machine.execFsqrt p d a n s
  | .fex2 p d a n => Sys2Proof.Machine.execFex2 p d a n s
  | .flg2 p d a n => Sys2Proof.Machine.execFlg2 p d a n s
  | .fsin p d a n => Sys2Proof.Machine.execFsin p d a n s
  | .fcos p d a n => Sys2Proof.Machine.execFcos p d a n s
  | .ftanh p d a n => Sys2Proof.Machine.execFtanh p d a n s
  | .hadd2F16 p d a b n => Sys2Proof.Machine.execHadd2F16 p d a b n s
  | .hsub2F16 p d a b n => Sys2Proof.Machine.execHsub2F16 p d a b n s
  | .hmul2F16 p d a b n => Sys2Proof.Machine.execHmul2F16 p d a b n s
  | .hfma2F16 p d a b n => Sys2Proof.Machine.execHfma2F16 p d a b n s
  | .hmin2F16 p d a b n => Sys2Proof.Machine.execHmin2F16 p d a b n s
  | .hmax2F16 p d a b n => Sys2Proof.Machine.execHmax2F16 p d a b n s
  | .hdot2F16 p d a b n => Sys2Proof.Machine.execHdot2F16 p d a b n s
  | .hadd2Bf16 p d a b n => Sys2Proof.Machine.execHadd2Bf16 p d a b n s
  | .hsub2Bf16 p d a b n => Sys2Proof.Machine.execHsub2Bf16 p d a b n s
  | .hmul2Bf16 p d a b n => Sys2Proof.Machine.execHmul2Bf16 p d a b n s
  | .hfma2Bf16 p d a b n => Sys2Proof.Machine.execHfma2Bf16 p d a b n s
  | .hmin2Bf16 p d a b n => Sys2Proof.Machine.execHmin2Bf16 p d a b n s
  | .hmax2Bf16 p d a b n => Sys2Proof.Machine.execHmax2Bf16 p d a b n s
  | .hdot2Bf16 p d a b n => Sys2Proof.Machine.execHdot2Bf16 p d a b n s
  | .cvt p d a c n r => Sys2Proof.Machine.execCvt p d a c n r s
  | .frndRn p d a n => Sys2Proof.Machine.execFrndRn p d a n s
  | .frndRz p d a n => Sys2Proof.Machine.execFrndRz p d a n s
  | .frndRd p d a n => Sys2Proof.Machine.execFrndRd p d a n s
  | .frndRu p d a n => Sys2Proof.Machine.execFrndRu p d a n s
  | .ffrac p d a n => Sys2Proof.Machine.execFfrac p d a n s
  | .fexp p d a n => Sys2Proof.Machine.execFexp p d a n s
  | .fscale p d a b n => Sys2Proof.Machine.execFscale p d a b n s
  | .fclass p d a n => Sys2Proof.Machine.execFclass p d a n s
  | .shflIdx p d a b n => Sys2Proof.Machine.execShflIdx p d a b n s
  | .shflXor p d a b n => Sys2Proof.Machine.execShflXor p d a b n s
  | .shflUp p d a b n => Sys2Proof.Machine.execShflUp p d a b n s
  | .shflDown p d a b n => Sys2Proof.Machine.execShflDown p d a b n s
  | .voteAny p g k a => Sys2Proof.Machine.execVoteAny p g k a s
  | .voteAll p g k a => Sys2Proof.Machine.execVoteAll p g k a s
  | .ballot p d a n => Sys2Proof.Machine.execBallot p d a n s
  | .matchLanes p d a n => Sys2Proof.Machine.execMatchLanes p d a n s
  | .reduxAddI32 p d a n => Sys2Proof.Machine.execReduxAddI32 p d a n s
  | .reduxMinI32 p d a n => Sys2Proof.Machine.execReduxMinI32 p d a n s
  | .reduxMaxI32 p d a n => Sys2Proof.Machine.execReduxMaxI32 p d a n s
  | .reduxAddF32 p d a n => Sys2Proof.Machine.execReduxAddF32 p d a n s
  | .elect p g k => Sys2Proof.Machine.execElect p g k s
  | .s2v p d sa n => Sys2Proof.Machine.execS2v p d sa n s
  | .v2s p d a => Sys2Proof.Machine.execV2s p d a s
  | .sadd d a b => Sys2Proof.Machine.execSadd d a b s
  | .ssub d a b => Sys2Proof.Machine.execSsub d a b s
  | .smul d a b => Sys2Proof.Machine.execSmul d a b s
  | .sand d a b => Sys2Proof.Machine.execSand d a b s
  | .sor d a b => Sys2Proof.Machine.execSor d a b s
  | .sxor d a b => Sys2Proof.Machine.execSxor d a b s
  | .sshl d a b => Sys2Proof.Machine.execSshl d a b s
  | .sshr d a b => Sys2Proof.Machine.execSshr d a b s
  | .saddi d a im => Sys2Proof.Machine.execSaddi d a im s
  | .sminI32 d a b => Sys2Proof.Machine.execSminI32 d a b s
  | .smaxI32 d a b => Sys2Proof.Machine.execSmaxI32 d a b s
  | .sminN32 d a b => Sys2Proof.Machine.execSminN32 d a b s
  | .smaxN32 d a b => Sys2Proof.Machine.execSmaxN32 d a b s
  | .ssar d a b => Sys2Proof.Machine.execSsar d a b s
  | .spopc d a => Sys2Proof.Machine.execSpopc d a s
  | .sclz d a => Sys2Proof.Machine.execSclz d a s
  | .sbr c a b o => Sys2Proof.Machine.execSbr c a b o s
  | .smovi d im => Sys2Proof.Machine.execSmovi d im s
  | .bra p o => Sys2Proof.Machine.execBra p o s
  | .call p o => Sys2Proof.Machine.execCall p o s
  | .brx p a => Sys2Proof.Machine.execBrx p a s
  | .callx p a => Sys2Proof.Machine.execCallx p a s
  | .ret p => Sys2Proof.Machine.execRet p s
  | .exit p a => Sys2Proof.Machine.execExit p a s
  | .yield p => Sys2Proof.Machine.execYield p s
  | .nop p => Sys2Proof.Machine.execNop p s
  | .nextSeg p a => Sys2Proof.Machine.execNextSeg p a s
  | .brk p => Sys2Proof.Machine.execBrk p s
  | .jenter p e => Sys2Proof.Machine.execJenter p e s
  | .jquit p e => Sys2Proof.Machine.execJquit p e s
  | .jwait p e => Sys2Proof.Machine.execJwait p e s
  | .jmovf p sa x e => Sys2Proof.Machine.execJmovf p sa x e s
  | .jmovt p sa x e => Sys2Proof.Machine.execJmovt p sa x e s
  | .jclr p e => Sys2Proof.Machine.execJclr p e s
  | .loop l sa e => Sys2Proof.Machine.execLoop l sa e s
  | .loopi l c e => Sys2Proof.Machine.execLoopi l c e s
  | .barSync p e => Sys2Proof.Machine.execBarSync p e s
  | .barArv p e => Sys2Proof.Machine.execBarArv p e s
  | .barWait p e => Sys2Proof.Machine.execBarWait p e s
  | .barCnt p sa e => Sys2Proof.Machine.execBarCnt p sa e s
  | .ldB8I p d c v => Sys2Proof.Machine.execLdB8I p d c v s
  | .ldB8N p d c v => Sys2Proof.Machine.execLdB8N p d c v s
  | .ldB16I p d c v => Sys2Proof.Machine.execLdB16I p d c v s
  | .ldB16N p d c v => Sys2Proof.Machine.execLdB16N p d c v s
  | .ldB32 p d c v => Sys2Proof.Machine.execLdB32 p d c v s
  | .ldB64 p d c v => Sys2Proof.Machine.execLdB64 p d c v s
  | .ldB128 p d c v => Sys2Proof.Machine.execLdB128 p d c v s
  | .ldcB32 p d c v => Sys2Proof.Machine.execLdcB32 p d c v s
  | .stB8 p d c v => Sys2Proof.Machine.execStB8 p d c v s
  | .stB16 p d c v => Sys2Proof.Machine.execStB16 p d c v s
  | .stB32 p d c v => Sys2Proof.Machine.execStB32 p d c v s
  | .stB64 p d c v => Sys2Proof.Machine.execStB64 p d c v s
  | .stB128 p d c v => Sys2Proof.Machine.execStB128 p d c v s
  | .ldsB32Row p d c v => Sys2Proof.Machine.execLdsB32Row p d c v s
  | .ldsB32Col p d c v => Sys2Proof.Machine.execLdsB32Col p d c v s
  | .ldsB64Row p d c v => Sys2Proof.Machine.execLdsB64Row p d c v s
  | .ldsB64Col p d c v => Sys2Proof.Machine.execLdsB64Col p d c v s
  | .ldsB16Row p d c v => Sys2Proof.Machine.execLdsB16Row p d c v s
  | .ldsB16Col p d c v => Sys2Proof.Machine.execLdsB16Col p d c v s
  | .ldsB8Row p d c v => Sys2Proof.Machine.execLdsB8Row p d c v s
  | .ldsB128Row p d c v => Sys2Proof.Machine.execLdsB128Row p d c v s
  | .stsB32Row p d c v => Sys2Proof.Machine.execStsB32Row p d c v s
  | .stsB32Col p d c v => Sys2Proof.Machine.execStsB32Col p d c v s
  | .stsB64Row p d c v => Sys2Proof.Machine.execStsB64Row p d c v s
  | .stsB64Col p d c v => Sys2Proof.Machine.execStsB64Col p d c v s
  | .stsB16Row p d c v => Sys2Proof.Machine.execStsB16Row p d c v s
  | .stsB16Col p d c v => Sys2Proof.Machine.execStsB16Col p d c v s
  | .stsB8Row p d c v => Sys2Proof.Machine.execStsB8Row p d c v s
  | .stsB128Row p d c v => Sys2Proof.Machine.execStsB128Row p d c v s
  | .atomAdd p d c v => Sys2Proof.Machine.execAtomAdd p d c v s
  | .atomMinI32 p d c v => Sys2Proof.Machine.execAtomMinI32 p d c v s
  | .atomMaxI32 p d c v => Sys2Proof.Machine.execAtomMaxI32 p d c v s
  | .atomMinN32 p d c v => Sys2Proof.Machine.execAtomMinN32 p d c v s
  | .atomMaxN32 p d c v => Sys2Proof.Machine.execAtomMaxN32 p d c v s
  | .atomAnd p d c v => Sys2Proof.Machine.execAtomAnd p d c v s
  | .atomOr p d c v => Sys2Proof.Machine.execAtomOr p d c v s
  | .atomXor p d c v => Sys2Proof.Machine.execAtomXor p d c v s
  | .atomExch p d c v => Sys2Proof.Machine.execAtomExch p d c v s
  | .atomCas p d c v => Sys2Proof.Machine.execAtomCas p d c v s
  | .atomAddF32 p d c v => Sys2Proof.Machine.execAtomAddF32 p d c v s
  | .lrB32 p d c v => Sys2Proof.Machine.execLrB32 p d c v s
  | .scB32 p d c v => Sys2Proof.Machine.execScB32 p d c v s
  | .redAddI32 p d c v => Sys2Proof.Machine.execRedAddI32 p d c v s
  | .redMinI32 p d c v => Sys2Proof.Machine.execRedMinI32 p d c v s
  | .redMaxI32 p d c v => Sys2Proof.Machine.execRedMaxI32 p d c v s
  | .redAnd p d c v => Sys2Proof.Machine.execRedAnd p d c v s
  | .redOr p d c v => Sys2Proof.Machine.execRedOr p d c v s
  | .redXor p d c v => Sys2Proof.Machine.execRedXor p d c v s
  | .redAddF32 p d c v => Sys2Proof.Machine.execRedAddF32 p d c v s
  | .redAddF16x2 p d c v => Sys2Proof.Machine.execRedAddF16x2 p d c v s
  | .atomsAdd p d c v => Sys2Proof.Machine.execAtomsAdd p d c v s
  | .atomsMinI32 p d c v => Sys2Proof.Machine.execAtomsMinI32 p d c v s
  | .atomsMaxI32 p d c v => Sys2Proof.Machine.execAtomsMaxI32 p d c v s
  | .atomsExch p d c v => Sys2Proof.Machine.execAtomsExch p d c v s
  | .atomsCas p d c v => Sys2Proof.Machine.execAtomsCas p d c v s
  | .atomsAddF32 p d c v => Sys2Proof.Machine.execAtomsAddF32 p d c v s
  | .atomsOr p d c v => Sys2Proof.Machine.execAtomsOr p d c v s
  | .atomsAnd p d c v => Sys2Proof.Machine.execAtomsAnd p d c v s
  | .fenceAcq p e => Sys2Proof.Machine.execFenceAcq p e s
  | .fenceRel p e => Sys2Proof.Machine.execFenceRel p e s
  | .fenceAr p e => Sys2Proof.Machine.execFenceAr p e s
  | .fenceSc p e => Sys2Proof.Machine.execFenceSc p e s
  | .pref p c v => Sys2Proof.Machine.execPref p c v s
  | .prefLlc p c v => Sys2Proof.Machine.execPrefLlc p c v s
  | .cwb p c v => Sys2Proof.Machine.execCwb p c v s
  | .cinv p c v => Sys2Proof.Machine.execCinv p c v s
  | .cwbi p c v => Sys2Proof.Machine.execCwbi p c v s
  | .ldntB32 p d c v => Sys2Proof.Machine.execLdntB32 p d c v s
  | .stntB32 p d c v => Sys2Proof.Machine.execStntB32 p d c v s
  | .gbegin p x e => Sys2Proof.Machine.execGbegin p x e s
  | .gend p => Sys2Proof.Machine.execGend p s
  | .viewf p sa e => Sys2Proof.Machine.execViewf p sa e s
  | .viewp p t sa x e => Sys2Proof.Machine.execViewp p t sa x e s
  | .viewq p t sa e => Sys2Proof.Machine.execViewq p t sa e s
  | .cpy p t sa x r => Sys2Proof.Machine.execCpy p t sa x r s
  | .cpyaF32 p t sa x r => Sys2Proof.Machine.execCpyaF32 p t sa x r s
  | .cpyaF16 p t sa x r => Sys2Proof.Machine.execCpyaF16 p t sa x r s
  | .cpyg p t sa x r => Sys2Proof.Machine.execCpyg p t sa x r s
  | .ownE p sa x => Sys2Proof.Machine.execOwnE p sa x s
  | .ownT p sa x => Sys2Proof.Machine.execOwnT p sa x s
  | .ownq p t sa => Sys2Proof.Machine.execOwnq p t sa s
  | .csld p t sa x r => Sys2Proof.Machine.execCsld p t sa x r s
  | .mmld p t sa => Sys2Proof.Machine.execMmld p t sa s
  | .mmrun p t sa x r => Sys2Proof.Machine.execMmrun p t sa x r s
  | .mmdrain p t sa x r => Sys2Proof.Machine.execMmdrain p t sa x r s
  | .rede p t sa x r => Sys2Proof.Machine.execRede p t sa x r s
  | .mmaF16 p d a b => Sys2Proof.Machine.execMmaF16 p d a b s
  | .mmaBf16 p d a b => Sys2Proof.Machine.execMmaBf16 p d a b s
  | .mmaF8e4 p d a b => Sys2Proof.Machine.execMmaF8e4 p d a b s
  | .mmaF8e5 p d a b => Sys2Proof.Machine.execMmaF8e5 p d a b s
  | .mmaI8 p d a b => Sys2Proof.Machine.execMmaI8 p d a b s
  | .ladrLane p t sa => Sys2Proof.Machine.execLadrLane p t sa s
  | .ladrRange p t sa x => Sys2Proof.Machine.execLadrRange p t sa x s
  | .lesc p t e => Sys2Proof.Machine.execLesc p t e s
  | .lret p t => Sys2Proof.Machine.execLret p t s
  | .lfrm p t => Sys2Proof.Machine.execLfrm p t s
  | .linfo p t sa e => Sys2Proof.Machine.execLinfo p t sa e s
  | .rlaunch p t sa x e => Sys2Proof.Machine.execRlaunch p t sa x e s
  | .rquery p t sa x e => Sys2Proof.Machine.execRquery p t sa x e s
  | .commit p => Sys2Proof.Machine.execCommit p s
  | .dqpush p sa x => Sys2Proof.Machine.execDqpush p sa x s
  | .dqpop p t => Sys2Proof.Machine.execDqpop p t s
  | .srd p t r => Sys2Proof.Machine.execSrd p t r s
  | .swr p r x => Sys2Proof.Machine.execSwr p r x s
  | .trap p e => Sys2Proof.Machine.execTrap p e s
  | .rte p f => Sys2Proof.Machine.execRte p f s
  | .xlr p t sa x => Sys2Proof.Machine.execXlr p t sa x s
  | .xlw p t sa x => Sys2Proof.Machine.execXlw p t sa x s
  | .kill p sa => Sys2Proof.Machine.execKill p sa s
  | .parkq p t sa => Sys2Proof.Machine.execParkq p t sa s
  | .unpark p sa => Sys2Proof.Machine.execUnpark p sa s
  | .ctrclm p t sa => Sys2Proof.Machine.execCtrclm p t sa s
  | .ctrrel p sa => Sys2Proof.Machine.execCtrrel p sa s
  | .ctrcfg p sa x => Sys2Proof.Machine.execCtrcfg p sa x s
  | .ctrrdLo p t sa => Sys2Proof.Machine.execCtrrdLo p t sa s
  | .ctrrdHi p t => Sys2Proof.Machine.execCtrrdHi p t s
  | .enrd p t => Sys2Proof.Machine.execEnrd p t s
  | .himm im => Sys2Proof.Machine.execHimm im s
  | .hstall g w sa => Sys2Proof.Machine.execHstall g w sa s
  | .hmod o c sa v m => Sys2Proof.Machine.execHmod o c sa v m s
  | .hcoord w z y x => Sys2Proof.Machine.execHcoord w z y x s
  | .loadResponse id => Sys2Proof.Machine.execLoadResponse id s
  | .umberGroupExecute id => Sys2Proof.Machine.execUmberGroupExecute id s
  | .sinkGroupResponse id => Sys2Proof.Machine.execSinkGroupResponse id s
  | .storeAcknowledge id => Sys2Proof.Machine.execStoreAcknowledge id s
  | .atomicCompletion id => Sys2Proof.Machine.execAtomicCompletion id s
  | .directoryInvalidate die line id => Sys2Proof.Machine.execDirectoryInvalidate die line id s
  | .ltimeTick die => Sys2Proof.Machine.execLtimeTick die s
  | .lrReservationExpiry blk warp lane stamp => Sys2Proof.Machine.execLrReservationExpiry blk warp lane stamp s
  | .ownerTimeoutExpiry blk unit stamp => Sys2Proof.Machine.execOwnerTimeoutExpiry blk unit stamp s
  | .orphanDetection blk warp => Sys2Proof.Machine.execOrphanDetection blk warp s
  | .trailingLagTimeout blk warp stamp => Sys2Proof.Machine.execTrailingLagTimeout blk warp stamp s
  | .handlerEntry blk unit => Sys2Proof.Machine.execHandlerEntry blk unit s
  | .faultResumeAnswer die => Sys2Proof.Machine.execFaultResumeAnswer die s
  | .faultKillAnswer die => Sys2Proof.Machine.execFaultKillAnswer die s
  | .pageWalkDone id page => Sys2Proof.Machine.execPageWalkDone id page s
  | .invalidationCommand die => Sys2Proof.Machine.execInvalidationCommand die s
  | .codePageHashDone die region page => Sys2Proof.Machine.execCodePageHashDone die region page s
  | .engineUnit cmd => Sys2Proof.Machine.execEngineUnit cmd s
  | .enginePageAnswer req granted => Sys2Proof.Machine.execEnginePageAnswer req granted s
  | .engineCommandEnd cmd => Sys2Proof.Machine.execEngineCommandEnd cmd s
  | .mmldBankValid cmd => Sys2Proof.Machine.execMmldBankValid cmd s
  | .bindBlock die core => Sys2Proof.Machine.execBindBlock die core s
  | .bindRungWarp die core => Sys2Proof.Machine.execBindRungWarp die core s
  | .bindResumeSnapshot die core => Sys2Proof.Machine.execBindResumeSnapshot die core s
  | .bankSwitch die core => Sys2Proof.Machine.execBankSwitch die core s
  | .dispatchStart blk => Sys2Proof.Machine.execDispatchStart blk s
  | .rootLaunch die => Sys2Proof.Machine.execRootLaunch die s
  | .villekPlacement die region core tile0 wslot0 snap => Sys2Proof.Machine.execVillekPlacement die region core tile0 wslot0 snap s
  | .priorityAgeing region => Sys2Proof.Machine.execPriorityAgeing region s
  | .limitCheck die => Sys2Proof.Machine.execLimitCheck die s
  | .blockCompletion blk => Sys2Proof.Machine.execBlockCompletion blk s
  | .ladderStarvation ladder rung => Sys2Proof.Machine.execLadderStarvation ladder rung s
  | .ladderWarpLaunch ladder rung core tile0 wslot0 => Sys2Proof.Machine.execLadderWarpLaunch ladder rung core tile0 wslot0 s
  | .ladderFrameTimeout blk lane stamp => Sys2Proof.Machine.execLadderFrameTimeout blk lane stamp s
  | .ashSpillDone die core => Sys2Proof.Machine.execAshSpillDone die core s
  | .restoreRequest blk die core tile0 wslot0 step => Sys2Proof.Machine.execRestoreRequest blk die core tile0 wslot0 step s
  | .migrationStop blk => Sys2Proof.Machine.execMigrationStop blk s
  | .worldSwitch die cluster part => Sys2Proof.Machine.execWorldSwitch die cluster part s
  | .counterSteal core bank => Sys2Proof.Machine.execCounterSteal core bank s
  | .counterReturn core bank => Sys2Proof.Machine.execCounterReturn core bank s
  | .calendarWrite unit cal => Sys2Proof.Machine.execCalendarWrite unit cal s
  | .calendarAdopt unit => Sys2Proof.Machine.execCalendarAdopt unit s
  | .patrolScrub die line found => Sys2Proof.Machine.execPatrolScrub die line found s
  | .deviceReset => Sys2Proof.Machine.execDeviceReset s
  | .dieReset die => Sys2Proof.Machine.execDieReset die s
  | .heartbeatSend => Sys2Proof.Machine.execHeartbeatSend s
  | .heartbeatMiss pair path => Sys2Proof.Machine.execHeartbeatMiss pair path s
  | .fenceDirectoryScrub pair => Sys2Proof.Machine.execFenceDirectoryScrub pair s
  | .fabricPacketReceive link seq crcOk body => Sys2Proof.Machine.execFabricPacketReceive link seq crcOk body s
  | .fabricAckReceive link seq => Sys2Proof.Machine.execFabricAckReceive link seq s
  | .fabricCompletionReceive cmd unit dev => Sys2Proof.Machine.execFabricCompletionReceive cmd unit dev s
  | .portFail port => Sys2Proof.Machine.execPortFail port s
  | .linkRetrainDone link => Sys2Proof.Machine.execLinkRetrainDone link s
  | .linkRetrainRequest link broken => Sys2Proof.Machine.execLinkRetrainRequest link broken s
  | .portStatusRefresh readings => Sys2Proof.Machine.execPortStatusRefresh readings s
  | .portWarnClear port mask => Sys2Proof.Machine.execPortWarnClear port mask s
  | .rdmaSend dst data => Sys2Proof.Machine.execRdmaSend dst data s
  | .rdmaSendImmediate dst data imm => Sys2Proof.Machine.execRdmaSendImmediate dst data imm s
  | .rdmaWrite dst data => Sys2Proof.Machine.execRdmaWrite dst data s
  | .rdmaWriteImmediate dst data imm => Sys2Proof.Machine.execRdmaWriteImmediate dst data imm s
  | .rdmaRead dst bytes => Sys2Proof.Machine.execRdmaRead dst bytes s
  | .rdmaCompareSwap dst old new => Sys2Proof.Machine.execRdmaCompareSwap dst old new s
  | .rdmaFetchAdd dst x => Sys2Proof.Machine.execRdmaFetchAdd dst x s
  | .ecnMark qp => Sys2Proof.Machine.execEcnMark qp s
  | .powerOn fails version => Sys2Proof.Machine.execPowerOn fails version s
  | .bootRetry run => Sys2Proof.Machine.execBootRetry run s
  | .attestationQuote nonce => Sys2Proof.Machine.execAttestationQuote nonce s
  | .measurementExtend reg digest => Sys2Proof.Machine.execMeasurementExtend reg digest s
  | .telemetryReport die record => Sys2Proof.Machine.execTelemetryReport die record s
  | .clockGovern die => Sys2Proof.Machine.execClockGovern die s
  | .stopRequest pat => Sys2Proof.Machine.execStopRequest pat s
  | .stopResume => Sys2Proof.Machine.execStopResume s
  | .energyWeightWrite die cls weight => Sys2Proof.Machine.execEnergyWeightWrite die cls weight s
  | .registerWrite write => Sys2Proof.Machine.execRegisterWrite write s
  | .systemCoreMemoryAccess core op => Sys2Proof.Machine.execSystemCoreMemoryAccess core op s
  | .pcieDmaAccess op => Sys2Proof.Machine.execPcieDmaAccess op s
  | .heartbeatReceive pair path => Sys2Proof.Machine.execHeartbeatReceive pair path s
  | .peerReadmission pair => Sys2Proof.Machine.execPeerReadmission pair s
  | .residenceEnergyCharge blk => Sys2Proof.Machine.execResidenceEnergyCharge blk s
  | .execTimeCharge region => Sys2Proof.Machine.execExecTimeCharge region s

end Sys2Proof.Machine
end

