-- ==== Sys2Proof/Machine/Clock.lean ====
section
/-! DEFINITION. What one step of the part does around an instruction: time, due steps, and the choice of what comes next
(02 R50; 04 R88, R94, R100, R102, R103; 05 R105, R106; 09 R231; 11 R254; 13 R316 to R319; 15 R364, R365; notes/assumptions/3, 4). -/

namespace Sys2Proof.Machine

abbrev Result := Host.Outcome State Fault Refusal

/-- Go on from a next state. -/
def andThen (r : Result) (f : State → Result) : Result :=
  match r with
  | .next s => f s
  | .fault e => .fault e
  | .refused e => .refused e

/-- Steps one after the other. -/
def runAll : List Instr → State → Result
  | [], s => .next s
  | i :: rest, s => andThen (exec i s) (runAll rest)

/-! ## Words without an instruction (04 R87, R88, R102) -/

/-- Majors of formats S, SI and L, whose PRED field is no predicate. -/
def plainMajors : List Nat := [0x12, 0x13, 0x14, 0x16, 0x1C, 0x1D]

/-- A word that encodes no instruction: ILLEGAL where a lane is active for it. -/
def badAttr (w : Word) : Attr :=
  let maj := field w 26 6
  let pred := field w 22 4
  { maj := maj, legal := false
    p := if maj = 0x15 then none
      else if plainMajors.contains maj then some (if pred = 15 then 15 else 7)
      else some (BitVec.ofNat 4 pred) }

/-- Carry out a word that is no instruction; a malformed hint word is checked with its instruction (R96). A malformed GBEGIN with no
active lane leads past its group as any does (R88). -/
def State.badWord (s : State) (w : Word) : Result :=
  if isHintWord w then s.hintWord w
  else
    let gbegin := field w 26 6 == 0x2A && field w 4 3 == 0
    match s.issuer (badAttr w).p with
    | some i =>
      if gbegin && i.act == 0 then s.skipGroup i (BitVec.ofNat 4 (field w 22 4)) (field w 0 4)
      else s.issue (badAttr w) always never (straight (fun _ s => s))
    | none => .refused .noIssuer

/-! ## Time (11 R254; 15 R365; 09 R231) -/

/-- Cycles between two scrubs of the LLC slices and the column store: 1 hour (12 R275). -/
def hourCycles : Nat := 3600 * 940000000

/-- The hourly scrub of a die's slices: a dirty line beyond its code is poisoned, a clean one whose parity fails is fetched again
(12 R274, R275), and so is a word of the column store, whose place there its event names (notes/assumptions/103). -/
def State.scrubSlices (s : State) : State :=
  s.dies.foldl (fun (s : State) d =>
    let s := (d.2.llc.filter (fun e => e.2.present && e.2.bad)).foldl (fun (s : State) e =>
      if e.2.dirty then
        ({ s with poison := e.1 :: s.poison.erase e.1 }.modDie d.1 (fun x => { x with llc := x.llc.modify e.1 (fun y => { y with bad := false }) })).post
          0x02 1 d.1 0xFFFFFFFF (e.1 * Config.lineBytes % Config.addrSpace)
      else s.llcParity d.1 e.1) s
    let s := d.2.colBad.foldl (fun (s : State) w => s.post 0x02 5 d.1 0xFFFFFFFF (8 * w)) s
    s.modDie d.1 (fun x => { x with colBad := [], colPoison := x.colBad ++ x.colPoison })) s

/-- A die's clock in a cycle of the full one: the lowered one loses some (15 R361). -/
def Die.clock (d : Die) : Die :=
  if d.fstep = 20 then { d with idle := false }
  else if 20 ≤ d.lag + (20 - d.fstep) then { d with lag := d.lag - d.fstep, lost := d.lost + 1, idle := true }
  else { d with lag := d.lag + (20 - d.fstep), idle := false }

/-- The die whose clock a step that comes due is counted in; none for one of wall time. -/
def State.clockOf (s : State) : Instr → Option Nat
  | .lrReservationExpiry b _ _ _ => (s.block? b).map (fun x => dieOf x.core)
  | .ownerTimeoutExpiry b _ _ => (s.block? b).map (fun x => dieOf x.core)
  | .trailingLagTimeout b _ _ => (s.block? b).map (fun x => dieOf x.core)
  | .ladderFrameTimeout b _ _ => (s.block? b).map (fun x => dieOf x.core)
  | .dispatchStart b => (s.block? b).map (fun x => dieOf x.core)
  | .residenceEnergyCharge b => (s.block? b).map (fun x => dieOf x.core)
  | .ladderStarvation l _ => (s.ladders.get? l).map Ladder.die
  | .calendarAdopt u => u.die?
  | _ => none

/-- A unit's stall counts no cycle that its die's clock loses. -/
def Warp.lose (w : Warp) : Warp := if w.hints.isEmpty then w else { w with lastIssue := w.lastIssue + 1 }

/-- The dies' clocks: what counts the cycles of one that loses a cycle comes a cycle later. -/
def State.clockDies (s : State) : State :=
  let s := { s with dies := s.dies.mapVals Die.clock }
  if s.dies.all (fun e => !e.2.idle) then s
  else
    { s with
      timers := s.timers.map (fun e => if (s.clockOf e.2).any (fun d => (s.die d).idle) then (e.1 + 1, e.2) else e)
      blocks := s.blocks.mapVals (fun b =>
        if (s.die (dieOf b.core)).idle then
          { b with ctx := { b.ctx with
              warps := b.ctx.warps.map Warp.lose, trailing := b.ctx.trailing.map Warp.lose, front := b.ctx.front.lose } }
        else b) }

/-- Count a cycle, and what comes due at it. -/
def State.tick (s : State) : State × List Instr :=
  let now := s.now + 1
  let s := s.clockDies
  let due := (s.timers.filter (fun e => decide (e.1 ≤ now))).map Prod.snd
  let ticks := ((List.range Config.dies).filter (fun d =>
    !(s.die d).idle && (now - (s.die d).lost) % 16 == 0)).map Instr.ltimeTick
  let s := if now % hourCycles = 0 then s.scrubSlices else s
  ({ s with now := now, timers := s.timers.filter (fun e => decide (now < e.1)) }, ticks ++ due)

/-- Lanes of a unit parked for a fault that system software has not answered. -/
def State.forwarded (s : State) (blk unit : Nat) : Word :=
  s.waiting.foldl (fun (m : Word) e => if e.2.block = blk ∧ e.2.unit = unit ∧ e.2.request.isNone then m ||| e.2.lanes else m) 0

/-- A bound block, in whatever bank, holds a thread that is not parked for a forwarded fault. -/
def State.active (s : State) (blk : Nat) (b : Block) : Bool :=
  b.loc != .unbound && b.loc != .moved && b.units.any (fun u => match b.unit? u with
    | some w => (w.lanesWhere (fun l => l.status != .exited) &&& ~~~(s.forwarded blk u.num)) != 0
    | none => false)

/-- The region charges its launch record: the first of those that share the record. -/
def State.charges (s : State) (n : Nat) (r : Region) : Bool :=
  (r.state == 1 || r.state == 2) && !s.regions.any (fun e => decide (e.1 < n) && e.2.part == r.part && e.2.lrec == r.lrec
    && (e.2.state == 1 || e.2.state == 2))

/-- The parts of a launch record's time. -/
inductive TimePart where
  | exec | fault | wait | queue | call
  deriving DecidableEq, Repr

/-- The part that a nanosecond goes to: the active one of highest precedence, if any (15 R365). System software adds WAIT, QUEUE and CALL
itself (13 R321); to the device the other two are active or not. -/
def TimePart.charged (active : TimePart → Bool) : Option TimePart :=
  [TimePart.exec, .fault, .wait, .queue, .call].find? active

/-- One cycle of EXEC or FAULT for each launch record (15 R365). -/
def State.chargeTime (s : State) : State :=
  { s with regions := s.regions.map (fun e =>
      if !s.charges e.1 e.2 then e
      else
        let mine := fun (n : Nat) => match s.region? n with
          | some q => q.part == e.2.part && q.lrec == e.2.lrec
          | none => false
        let active := fun
          | .exec => s.blocks.any (fun x => mine x.2.regid && s.active x.1 x.2)
          | .fault => s.waiting.any (fun x => (s.block? x.2.block).any (fun b => mine b.regid))
          | _ => false
        match TimePart.charged active with
        | some .exec => (e.1, { e.2 with execCycles := e.2.execCycles + 1 })
        | some .fault => (e.1, { e.2 with faultCycles := e.2.faultCycles + 1 })
        | _ => e) }

/-- One cycle of the counters that count cycles (09 R231). -/
def State.countCycles (s : State) : State :=
  let busy := s.cores.filter (fun e => !e.2.banks.isEmpty && !(s.die (dieOf e.1)).idle)
  busy.foldl (fun (s : State) e =>
    let cycle := fun (c : Counter) => if c.counts 0 && field c.config 8 2 != 3 then { c with count := c.count + 1 } else c
    let s := s.modCore e.1 (fun k => { k with banks := k.banks.mapVals (fun b =>
      if b.holder.isSome && !b.stolen then { b with ctrs := b.ctrs.mapVals cycle } else b) })
    (s.onCore e.1).foldl (fun (s : State) x => x.2.units.foldl (fun (s : State) u => match x.2.unit? u with
      | some w =>
        let s := if !w.owners.isEmpty then s.count e.1 x.1 9 1 else s
        if w.tokenWait then s.count e.1 x.1 13 1 else s
      | none => s) s) s) s

/-- Blocks that have consumed an error, and protected blocks whose commit point is due; what the events of leading warps
leave to their trailing warps. -/
def State.settle (s : State) : State :=
  let s := s.reportStops
  let s := (s.blocks.filter (fun e => e.2.consumed.isSome)).foldl (fun (s : State) e => s.recover e.1) s
  let s := (s.blocks.filter (fun e => e.2.commitDue)).foldl (fun (s : State) e =>
    let s := s.settleCommit e.1
    if (s.block? e.1).any (fun b => b.exiting && !b.commitDue) then s.askCompletion e.1 else s) s
  { s with blocks := s.blocks.map (fun e =>
      if e.2.ctx.pairs.isEmpty then e else (e.1, { e.2 with ctx := e.2.ctx.catchUp })) }

/-! ## Which unit may issue (05 R105; 14 R349; 15 R364) -/

/-- The unit stands outside any chain or issue unit. -/
def Warp.atBoundary (w : Warp) : Bool := w.hints.isEmpty && w.chain.isNone

/-- Lanes that issue: those of a block asked to stop halt at a safe point. -/
def Warp.issuing (w : Warp) (stopping : Bool) (codeBase : Nat) : Word :=
  if stopping && w.atBoundary then w.lanesWhere (fun l => l.eligible && !Config.safePoint codeBase l.pc) else w.eligible

/-- Insert a path in the order of PCs. -/
def insertPc (x : Nat) : List Nat → List Nat
  | [] => [x]
  | y :: l => if x = y then y :: l else if x < y then x :: y :: l else y :: insertPc x l

/-- The path that a unit must go on with: the one in the middle of an issue unit, or the open chain's (04 R94, R96). -/
def Warp.forced (w : Warp) : Word :=
  if !w.hints.isEmpty then w.unitLanes
  else match w.chain with
    | some c => w.eligible &&& c.lanes
    | none => 0

/-- The paths of a unit, by PC (05 R105), the one that it must go on with first; the handler's lane is one by itself (14
R337). -/
def Warp.paths (w : Warp) (m : Word) : List (Nat × Word) :=
  let f := w.forced
  let m := m &&& ~~~f
  let h := match w.handler with
    | some h => m &&& laneBit h
    | none => 0
  let rest := m &&& ~~~h
  let pcs := (lanesOf rest).foldl (fun (l : List Nat) i => insertPc (w.lane i).pc l) []
  let at' := fun (m : Word) => if m = 0 then [] else [((w.lane (lowest m)).pc, m)]
  at' f ++ at' h ++ pcs.map (fun pc => (pc, rest &&& w.lanesWhere (fun l => l.pc == pc)))

/-- The lanes for which the trailing warp of a pair has something to do next: a word that its leading warp has issued, or the
item that waits for its match (12 R288 to R290). -/
def Pair.turn (p : Pair) : Word :=
  match p.stream with
  | .word lanes _ :: _ => lanes
  | _ :: _ => 0
  | [] => if p.compared then 0 else ((p.item.map CheckItem.lanes).getD 0)

/-- The path that a trailing warp issues: its own lanes among those, at their own PC. -/
def Warp.trailPaths (w : Warp) (m : Word) : List (Nat × Word) :=
  let f := w.forced
  if f != 0 then [((w.lane (lowest f)).pc, f)]
  else
    let m := m &&& w.eligible
    if m = 0 then [] else [((w.lane (lowest m)).pc, m &&& w.lanesWhere (fun l => l.pc == (w.lane (lowest m)).pc))]

/-- A unit of a bound block that may issue. -/
structure Cand where
  blk : Nat
  u : UnitRef
  core : Nat
  slot : Nat
  part : Nat
  cls : Nat
  amax : Nat
  regid : Nat
  w : Warp
  paths : List (Nat × Word)
  /-- its block awaits a commit point: it issues nothing before, but for the rest of an issue unit (04 R96; 12 R284) -/
  due : Bool := false
  deriving DecidableEq, Repr

/-- The front thread ranks ahead of the warp in its slot (13 R319). -/
def Cand.rank (c : Cand) : Nat := 2 * c.slot + (if c.u = .front then 0 else 1)

def Cand.quadrant (c : Cand) : Nat := c.core * 4 + c.slot % 4

/-- A warp in the middle of an issue unit, or with an open chain (13 R319). -/
def Cand.holds (c : Cand) : Bool := !c.w.atBoundary

/-- The unit issues nothing until its block's commit point. -/
def Cand.waits (c : Cand) : Bool := c.due && c.w.hints.isEmpty

def Block.cands (s : State) (blk : Nat) (b : Block) (r : Region) : List Cand :=
  let lead := fun (u : UnitRef) (slot : Nat) => match b.unit? u with
    | none => []
    | some w =>
      if w.atBoundary && !s.stops.isEmpty && s.stopped (s.entityOf b r u.num) then []
      else match w.paths (w.issuing b.stopping r.codeBase) with
        | [] => []
        | l => [{ blk := blk, u := u, core := b.core, slot := slot, part := r.part, cls := r.cls, amax := r.amax,
                  regid := b.regid, w := w, paths := l : Cand }]
  let trail := fun (n : Nat) => match b.ctx.trailing[n]?, b.ctx.pairs[n]? with
    | some w, some p => match w.trailPaths p.turn with
      | [] => []
      | l => [{ blk := blk, u := .trail n, core := b.core, slot := b.wslot0 + n + 32, part := r.part, cls := r.cls,
                amax := r.amax, regid := b.regid, w := w, paths := l : Cand }]
    | _, _ => []
  let trails := (List.range b.ctx.trailing.length).flatMap trail
  let leads := lead .front b.wslot0 ++ (List.range b.ctx.warps.length).flatMap (fun n => lead (.warp n) (b.wslot0 + n))
  let word := leads.any (fun c => c.w.committing)
  let due := fun (c : Cand) => b.commitDue || (word && !c.w.committing)
  (leads.filter (fun c => !due c || c.holds)).map (fun c => { c with due := due c }) ++ trails

/-- Every unit that may issue: a block that has consumed an error issues nothing, and of one that awaits a commit point only
the trailing warps go on, and the rest of an issue unit; a warp with an open chain keeps its quadrant (04 R94, R96; 12 R284, R291,
R292). -/
def State.cands (s : State) : List Cand :=
  s.blocks.flatMap (fun e =>
    if e.2.loc ≠ .live ∨ e.2.consumed.isSome ∨ (s.die (dieOf e.2.core)).idle then []
    else match s.region? e.2.regid with
      | some r => Block.cands s e.1 e.2 r
      | none => [])

/-- Warps whose orphaned lanes are to be found (05 R122). -/
def State.orphans (s : State) : List Instr :=
  s.blocks.flatMap (fun e =>
    if e.2.loc ≠ .live then []
    else (mapFrom 0 (fun n (w : Warp) => (n, w)) e.2.ctx.warps).flatMap (fun x =>
      if x.2.orphaned then [.orphanDetection e.1 x.1] else []))

/-! ## The calendar's part in the choice (13 R316 to R319) -/

/-- The owner and the backfill of a slot of a unit; 31 where there is none. -/
def State.slotOf (s : State) (u : CalUnit) (slot : Nat) : Nat × Nat :=
  let e := match s.cals.find? (fun x => x.1 == u) with
    | some (_, c) => (c.live[slot % 256]?).getD 0x1F1F
    | none => 0x1F1F
  (field e 0 5, field e 8 5)

/-- The calendar slot of a core's quadrants in this cycle. -/
def State.slotNow (s : State) (core : Nat) : Nat := s.dieCycles (dieOf core) % 256

def quadUnit (core quad : Nat) : CalUnit := .quadrant (dieOf core) (core % Config.coresPerDie) quad

/-- An issue unit of `n` words starts only where the slots that follow cover it before another partition owns one
(R318). -/
def State.unitFits (s : State) (u : CalUnit) (part slot n : Nat) : Bool :=
  (List.range (n - 1)).all (fun k =>
    let o := (s.slotOf u (slot + 1 + k)).1
    o == part || decide (20 ≤ o))

/-- Least by two keys. -/
def leastBy {α : Type} (f : α → Nat × Nat) : List α → Option α
  | [] => none
  | x :: l => match leastBy f l with
    | none => some x
    | some y => if (f x).1 < (f y).1 ∨ ((f x).1 = (f y).1 ∧ (f x).2 ≤ (f y).2) then some x else some y

/-- The partition that the calendar of a slot names, among those with work: its owner, else its backfill (R317). -/
def State.named (s : State) (u : CalUnit) (slot : Nat) (l : List Cand) : Option Nat :=
  let (o, f) := s.slotOf u slot
  if o < 20 ∧ l.any (fun c => c.part == o) then some o
  else if f < 20 ∧ l.any (fun c => c.part == f) then some f
  else none

/-- The partition that takes a slot (R317): the one that its calendar names, else in round-robin order the next after the one
that the quadrant served so last; a warp that must go on is the choice where its partition may use the slot (R319). -/
def State.tenant (s : State) (u : CalUnit) (slot quad : Nat) (l : List Cand) : Nat :=
  match s.named u slot l, l.find? Cand.holds with
  | some p, _ => p
  | none, some c => c.part
  | none, none => ((leastBy (fun (c : Cand) => ((c.part + 31 - s.served.getD 0 quad) % 32, c.part)) l).map Cand.part).getD 0

/-- A quadrant serves a unit whose partition the slot's calendar entry does not name. -/
def State.noteServed (s : State) (c : Cand) : State :=
  if (s.named (quadUnit c.core (c.slot % 4)) (s.slotNow c.core) [c]).isSome || c.holds then s else { s with served := s.served.putD 0 c.quadrant c.part }

/-- The choice of a quadrant among units that are ready (R319); one that has yielded is none while another is ready (05 R115). -/
def State.quadChoice (s : State) (u : CalUnit) (slot quad : Nat) (l : List Cand) : Option Cand :=
  let rested := l.filter (fun c => !c.w.yielded)
  let l := if rested.isEmpty then l else rested
  let p := s.tenant u slot quad l
  let l := l.filter (fun c => c.part == p)
  match l.find? Cand.holds with
  | some c => some c
  | none =>
    let first := l.filter (fun c => c.cls == 0)
    leastBy (fun (c : Cand) => (c.w.lastIssue, c.rank)) (if first.isEmpty then l else first)

/-! ## The choice of a path (05 R106, R115) -/

/-- The path that issues among the ready ones, and whether ageing chose it: one that must go on, or none (R106). -/
def pathChoice (w : Warp) (amax : Nat) (ready : List (Nat × Word)) : Option ((Nat × Word) × Bool) :=
  if w.forced != 0 then (ready.find? (fun e => e.2 == w.forced)).map (fun e => (e, false))
  else
    let rested := ready.filter (fun e => e.2 &&& w.yieldLanes == 0)
    let l := if rested.isEmpty then ready else rested
    let age := fun (e : Nat × Word) => w.age.getD 0 e.1
    match leastBy (fun (e : Nat × Word) => (127 - age e, e.1)) (l.filter (fun e => decide (amax ≤ age e))) with
    | some e => some (e, true)
    | none => (leastBy (fun (e : Nat × Word) => (e.1, 0)) l).map (fun e => (e, false))

/-- The counters after a choice: the chosen path's is 0, those of other ready paths count on, in every slot of an issue unit
and of a chain (R107's bound counts slots; notes/assumptions/4). -/
def Warp.agePaths (w : Warp) (ready : List (Nat × Word)) (chosen : Nat) : Warp :=
  let kept := w.age.filter (fun e => e.1 != chosen && w.pathAt e.1 != 0)
  { w with
    age := ready.foldl (fun (t : Table Nat) e =>
      if e.1 = chosen then t else t.putD 0 e.1 (min 127 (t.getD 0 e.1 + 1))) kept
    yieldLanes := 0 }

/-! ## A unit's turn -/

/-- What a unit's word meets at its fetch: a fault of the whole path, before any effect (04 R95, R96; 14 R333, R347). -/
def State.fetchFault (s : State) (c : Cand) (e : Nat × Word) (f : Park → Park) : State :=
  match s.unit? c.blk c.u with
  | none => s
  | some w =>
    let head := if w.hints.isEmpty then e.1 else w.hintPc
    s.takeFault c.blk c.u e.2 (fun _ => f { cause := 0, pc := head, resume := head, view := 0, coord := 0, stamp := 0 })

/-- The word of a path takes effect. -/
noncomputable def State.runWord (s : State) (w : Word) : Result :=
  match decode w with
  | .ok i => exec i s
  | .error _ => s.badWord w

/-! ## HSTALL (04 R88, R96, R100, R103) -/

/-- An access of a unit is outstanding: some lane of it is still to be performed, and waits for no fault. -/
def Warp.outstanding (w : Warp) (kind : MemOp → Bool) : Bool :=
  w.log.any (fun e => kind e.2.op && e.2.lanes.any (fun x => !x.stuck))

/-- Loads and sink groups (WAIT_LD). -/
def MemOp.isLoad : MemOp → Bool
  | .load _ _ | .lds _ | .lr | .sink => true
  | _ => false

/-- Stores and atomics (WAIT_ST). -/
def MemOp.isStore : MemOp → Bool
  | .store _ | .sts _ | .atom _ | .red _ | .sc | .atoms _ => true
  | _ => false

/-- The hold that the payload of an HSTALL states. -/
def Warp.payloadHolds (w : Warp) (now : Nat) (x : Word) : Bool :=
  decide (now ≤ w.lastIssue + field x 0 6)
    || (field x 6 1 == 1 && w.outstanding MemOp.isLoad)
    || (field x 10 1 == 1 && w.outstanding MemOp.isStore)
    || (field x 11 1 == 1 && !w.pend.isEmpty)

/-- The word that a path's hint words belong to has an active lane (R86 to R88). -/
def State.executes (s : State) (c : Cand) (r : Region) (e : Nat × Word) : Bool :=
  match s.codeAt c.core c.regid r (s.skipHints c.core c.regid r 8 e.1).1 with
  | (.word x, _) => match ({ s with cur := some { block := c.blk, unit := c.u, lanes := e.2 } }).issuer (badAttr x).p with
    | some i => i.act != 0
    | none => false
  | _ => false

/-- In scheduled mode an HSTALL holds its warp after its own slot. No result of the SFU, lane or MMA units is ever
outstanding here (notes/assumptions/3). -/
def State.hstall (s : State) (c : Cand) (r : Region) (e : Nat × Word) : Bool :=
  match c.u, c.w.hints.getLast? with
  | .trail _, _ => false
  | _, none => false
  | _, some x => field x 22 4 == 1 && !((s.block? c.blk).any (fun b => b.ctx.interlocked)) && c.w.payloadHolds s.now x && s.executes c r e

/-- Fetch the next word of a path, and carry it out. -/
noncomputable def State.runFetched (s : State) (c : Cand) (r : Region) (e : Nat × Word) : Result :=
  let trailing := c.u.isTrail
  match ({ s with stalled := false }).fetch c.core c.regid r e.1 with
  | (.word x, s) =>
    andThen ({ s.keepWord c.core c.regid e.1 x with cur := some { block := c.blk, unit := c.u, lanes := e.2 } }.runWord x)
      (fun s => .next { s with cur := none })
  | (.fault cause acc va, s) =>
    .next (if trailing then s.hold else s.fetchFault c e (fun p => { p with cause := cause, acc := acc, va := va }))
  | (.watch l, s) =>
    .next (if trailing then s.hold else s.fetchFault c e (fun p => { p.watching l with acc := 3, va := r.codeBase + e.1 }))
  | (.hold, s) => .next s.hold
  | (.poison, s) => .next (s.consume c.blk Cause.UNCORRECTABLE)

/-- A path's next word, where no HSTALL holds it. -/
noncomputable def State.runPath (s : State) (c : Cand) (e : Nat × Word) : Result :=
  match s.region? c.regid with
  | none => .next s
  | some r => if s.hstall c r e then .next s.hold else s.runFetched c r e

/-- What becomes of a path's issue unit, its hint words and its instruction, if nothing comes between; `fuel` bounds the
hint words. -/
noncomputable def State.tryUnit (r : Region) : Nat → State → Cand → Nat × Word → State
  | 0, s, _, _ => s
  | fuel + 1, s, c, e => match s.runFetched c r e with
    | .next t =>
      if t.stalled then t
      else match t.unit? c.blk c.u with
        | some w =>
          if w.hints.isEmpty then t
          else State.tryUnit r fuel t { c with w := w } ((w.lane (lowest w.unitLanes)).pc, w.unitLanes)
        | none => t
    | _ => s

/-- The state and the unit as they are for a path: one that is not the path to go on with stands outside the chain or unit
that is. -/
def State.asPath (s : State) (c : Cand) (e : Nat × Word) : State :=
  if c.w.forced = 0 ∨ e.2 = c.w.forced then s
  else s.modUnit c.blk c.u (fun w => { w with hints := [], hintPc := 0, unitLanes := 0, chain := none })

/-- A PATH IS READY (R105): the issue unit can issue its next word in the slot, and where that is a hint word the words of the
unit with it, since they take consecutive slots (04 R96; notes/assumptions/4). -/
noncomputable def State.isReady (s : State) (c : Cand) (e : Nat × Word) : Bool :=
  match s.region? c.regid with
  | none => false
  | some r =>
    !c.waits && !((c.w.forced == 0 || e.2 == c.w.forced) && s.hstall c r e) && !(State.tryUnit r 9 (s.asPath c e) c e).stalled

/-- The calendar lets a path issue (13 R318): an issue unit begins where it fits before another partition's slot, a member of a chain's
too, and a chain or an issue unit that has begun takes no slot that another partition owns. -/
def State.mayIssue (s : State) (c : Cand) (r : Region) (e : Nat × Word) : Bool :=
  if s.cals.isEmpty then true
  else
    let u := quadUnit c.core (c.slot % 4)
    let slot := s.slotNow c.core
    let (o, f) := s.slotOf u slot
    (!c.holds || o == c.part || decide (20 ≤ o) || f == c.part)
      && (!c.w.hints.isEmpty || s.unitFits u c.part slot (((s.skipHints c.core c.regid r 8 e.1).1 - e.1) / 4 + 1))

/-- A unit with the paths that its calendar lets issue. -/
def State.allowed (s : State) (c : Cand) : Option Cand :=
  match s.region? c.regid with
  | none => none
  | some r =>
    let l := c.paths.filter (s.mayIssue c r)
    if l.isEmpty then none else some { c with paths := l }

/-- A unit's turn: it picks a path, and the path's next word issues. -/
noncomputable def State.turn (s : State) (c : Cand) (ready : List (Nat × Word)) : Result :=
  match pathChoice c.w c.amax ready with
  | none => .next s
  | some (e, aged) =>
    let s := s.modUnit c.blk c.u (fun w => { w.agePaths ready e.1 with yielded := false })
    let s := if aged then s.count c.core c.blk 10 1 else s
    s.runPath c e

/-- What a path that is not ready notes of its wait, where that changes anything: the unit stands as it stood. -/
noncomputable def State.tryPath (s : State) (c : Cand) (e : Nat × Word) : Option State :=
  match s.region? c.regid with
  | none => none
  | some r =>
    if s.hstall c r e then none
    else
      let t := { (State.tryUnit r 9 s c e).modUnit c.blk c.u (fun w =>
        { (w.modLanes e.2 (fun l x => { x with pc := (c.w.lane l).pc })) with
          hints := c.w.hints, hintPc := c.w.hintPc, unitLanes := c.w.unitLanes, lastIssue := c.w.lastIssue }) with
        stalled := false }
      if t = s then none else some t

/-- The paths of a unit that may be tried: the one that it must go on with, else all. -/
def Cand.open (c : Cand) : List (Nat × Word) :=
  if c.w.forced = 0 then c.paths else c.paths.filter (fun e => e.2 == c.w.forced)

/-- What the waits of paths that are not ready would note. -/
noncomputable def State.tries (s : State) (l : List Cand) : List State :=
  l.flatMap (fun c => if c.waits then [] else c.open.filterMap (fun e => if s.isReady c e then none else s.tryPath c e))

/-- A unit that goes on while another holds the quadrant and waits for it: of one pair of a checked block, outside any issue unit (12 R288,
R290); a trailing warp of a block whose commit point awaits it (12 R292). -/
def Cand.partner (c d : Cand) : Bool :=
  c.blk == d.blk && ((c.w.hints.isEmpty && c.u != .front && d.u != .front && c.u.num == d.u.num) || (c.due && d.u.isTrail))

/-- The quadrants' choices among the units that are ready, each with its ready paths. A warp with an open chain, or in the
middle of an issue unit, is its quadrant's choice even while it waits (04 R94; 13 R319). -/
noncomputable def State.turns (s : State) (l : List Cand) : List (Cand × List (Nat × Word)) :=
  let all := l.map (fun c => (c, c.paths.filter (s.isReady c)))
  let ready := fun (e : Cand × List (Nat × Word)) => (pathChoice e.1.w e.1.amax e.2).isSome
  let pool := all.filter (fun e => ready e || e.1.holds)
  let quads := pool.foldl (fun (q : List Nat) e => insertPc e.1.quadrant q) []
  quads.filterMap (fun q =>
    let mine := pool.filter (fun e => e.1.quadrant == q)
    match s.quadChoice (quadUnit (q / 4) (q % 4)) (s.slotNow (q / 4)) q (mine.map Prod.fst) with
    | some c => match mine.find? (fun e => e.1.blk == c.blk && e.1.u == c.u && ready e) with
      | some e => some e
      | none => mine.find? (fun e => e.1.partner c && ready e)
    | none => none)

/-- Units of a quadrant that stood back for one choice take part in the next (05 R115). -/
def State.restedAll (s : State) (q : Nat) (l : List Cand) : State :=
  l.foldl (fun (s : State) c =>
    if c.quadrant = q ∧ c.w.yielded then s.modUnit c.blk c.u (fun w => { w with yielded := false }) else s) s

/-- What a quadrant notes of its choice of a unit. -/
def State.chosen (s : State) (l : List Cand) (c : Cand) : State := (s.restedAll c.quadrant l).noteServed c

/-- A pending step of the part happens. -/
def State.happen (s : State) (i : Instr) : Result := exec i (s.drop i)

/-- What happens in this cycle: one of the pending steps, the choice of one quadrant, or what one wait notes; which one is
free (notes/assumptions/4). -/
noncomputable def State.act (s : State) : Result :=
  let due := s.agenda ++ s.orphans
  let l := s.cands.filterMap s.allowed
  let t := s.turns l
  let w := s.tries l
  let n := due.length + t.length + w.length
  let k := if n ≤ 1 then 0 else Config.choice s.now % n
  match due[k]?, t[k - due.length]?, w[k - due.length - t.length]? with
  | some i, _, _ => s.happen i
  | none, some (c, ready), _ => (s.chosen l c).turn c ready
  | none, none, some u => .next u
  | none, none, none => .next s

/-- One cycle of the part. -/
noncomputable def State.cycle (s : State) : Result :=
  let (s, due) := s.tick
  andThen (runAll due s) (fun s => s.settle.chargeTime.countCycles.act)

end Sys2Proof.Machine
end

