-- ==== Sys2Proof/Machine/Step.lean ====
section
/-! DEFINITION. The step of the part, and the state in which a given word is the next to be fetched. -/

namespace Sys2Proof.Machine

/-- One step: one cycle. -/
noncomputable def step (s : State) : Host.Outcome State Fault Refusal := s.cycle

/-- The page of code that a placed word stands in. -/
def fetchLeaf (dev : Nat) : Leaf :=
  { part := 0, size := 0, page := 0, base := 0, r := true, w := true, x := true, t := false, d := true, hdie := 0, hdev := dev }

/-- The warp that fetches a placed word. -/
def fetchWarp : Warp := { lanes := (List.range 32).map (fun _ => ({} : Lane)) }

/-- A block of one warp, whose front thread has exited. -/
def fetchBlock : Block :=
  { regid := 1, core := 0, ctx := { warps := [fetchWarp], front := { lanes := [{ status := .exited }] } } }

/-- The state with an instruction where the next step fetches: one block of one warp is bound on core 0, its lanes stand
at PC 0 of a region whose code base is 0, and the word stands at physical address 0 (notes/assumptions/7). -/
def State.withFetchWord (s : State) (nbits w : Nat) : State :=
  let bytes := leBytes (max 4 ((nbits + 7) / 8)) (w % 2 ^ nbits)
  let s := s.wrBytes (memKey s.devNum 0) bytes
  let s := s.modCore 0 (fun c => { c with part := 0, tlb := [fetchLeaf s.devNum], fetched := [], watches := [] })
  { s with
    regions := Table.put [] 1 { part := 0, state := 2 }
    parts := s.parts.put 0 { s.part 0 with carveOuts := [(0, (0, 2 ^ 16))] }
    blocks := Table.put [] 1 fetchBlock
    cur := none, agenda := [], timers := [], waiting := [], stops := [], cals := [], poison := [], fenced := []
    now := s.now / 16 * 16 }

end Sys2Proof.Machine
end

