-- ==== Sys2Proof/Safety.lean ====
section
/-! DEFINITION. What counts as a safe run, and the terms that claims are stated in: when a word issues without being
held, and what a word leaves unchanged. -/

namespace Sys2Proof.Machine

/-- A state from which the machine goes on. -/
def Safe (s : State) : Prop := ∃ t, step s = .next t

/-- Memory is in its canonical form. -/
def MemCanonical (s : State) : Prop := Memory.wf s.mem = true

/-- The word of attributes `a` that `i` issues in `s` has an active lane, is legal, is held by nothing, and stands in
no checked block (04 R86 to R96, R102; 05 R127; 08 R187, R190; 12 R277, R284, R288; 14 R333). `ws` are the words after it on
its path, fetched (04 R94); `extra` and `stall` are the word's own further conditions. -/
structure Ready (s : State) (a : Attr) (i : Iss) (extra stall : Iss → State → Bool) (ws : List Word := []) : Prop where
  issuer : s.issuer a.p = some i
  reissues : i.reissues = false
  active : i.act ≠ 0
  legal : i.legal a = true
  first : a.first i s = false
  token : i.tokenStall a s = false
  extra : extra i s = true
  loopEnd : a.noEnd = true → i.badEnd = none
  ahead : s.ahead i = (.words ws, s)
  latch : i.latchBreach a (i.chainWith a ws).2 = false
  flaw : i.readsFlaw a = false
  log : i.logStall a = false
  stall : stall i s = false
  due : a.commits = true → i.commitStall = false
  unchecked : i.r.check = false
  leading : i.trailing = false

/-! ## What a word of one unit leaves unchanged -/

/-- A block without one of its units and without its energy count. -/
def Block.without (b : Block) (u : UnitRef) : Block :=
  { b with energy := 0, ctx := b.ctx.modUnit u (fun _ => {}) }

/-- A region without its energy counts. -/
def Region.uncharged (r : Region) : Region := { r with energy := 0, charged := 0 }

/-- A core without its performance counters and its logical time. -/
def Core.uncounted (c : Core) : Core := { c with banks := [], ltime := 0 }

/-- A write not yet acknowledged, without the list of its readers. -/
def Ack.unread (a : Ack) : Ack := { a with readers := [] }

/-- Between `s` and `t` only the unit `u` of block `blk` has changed, beside performance counters, energy counts, the
cores' logical times, and who has read an unacknowledged write (what an acquire does, 11 R256): all of memory, every other
unit, and every register outside the unit are as before. -/
structure OnlyUnit (s t : State) (blk : Nat) (u : UnitRef) : Prop where
  fields : { t with blocks := s.blocks, cores := s.cores, regions := s.regions, acks := s.acks } = s
  others : ∀ b, b ≠ blk → t.block? b = s.block? b
  block : (t.block? blk).map (fun b => b.without u) = (s.block? blk).map (fun b => b.without u)
  regions : ∀ r, (t.region? r).map Region.uncharged = (s.region? r).map Region.uncharged
  cores : ∀ c, (t.core c).uncounted = (s.core c).uncounted
  acks : t.acks.mapVals Ack.unread = s.acks.mapVals Ack.unread

/-- What issuing a word changes of its unit whatever the word is: the lanes, the chain, the loop levels' progress, the
hint words taken, the stamps of issue and waits, and what reading an ended command's word acquired. -/
def Warp.unissued (w : Warp) : Warp :=
  { w with lanes := [], chain := none, lc0 := {}, lc1 := {}, hints := [], hintPc := 0, unitLanes := 0, lastIssue := 0,
           owners := [], tokenWait := false, acq := [], committing := false, rel := none }

/-- A parking record without the mark that its lane has completed the word before its resume PC. -/
def Park.unmarked (p : Park) : Park := { p with past := false }

/-- What issuing a word changes of a lane whatever the word is: its PC, a loop-end mark, the latches, and whether a
parked access has completed its word. -/
def Lane.unissued (l : Lane) : Lane :=
  { l with pc := 0, wait := .none, latches := [], park := l.park.map Park.unmarked }

/-- What the newest latch of a lane holds: the value, none for the "no value" mark, and its taint. -/
def Lane.latchVal (l : Lane) : Option (Option Word × Bool) := l.latches.head?.map (fun e => (e.val, e.taint))

/-- An active loop level ends at a PC. -/
def Warp.endsAt (w : Warp) (pc : Nat) : Prop :=
  (w.lc0.active = true ∧ w.lc0.endPc = pc) ∨ (w.lc1.active = true ∧ w.lc1.endPc = pc)

/-- No active loop level ends at the word, past which its path goes on at `past`. -/
def Iss.noLoopEnd (i : Iss) (past : Nat := nextPc i.pc) : Prop := ¬ i.w.endsAt (prevPc past)

/-- THE WORD IS DONE: in `t` the issuing unit holds what `v` holds, beside what every issue changes; each lane of the
path that waited for nothing stands past the word, at `past`, where no loop level ends at it; and nothing outside the unit
has changed but what `OnlyUnit` names. -/
structure Past (s t : State) (i : Iss) (v : Warp) (past : Nat := nextPc i.pc) : Prop where
  unit : ∃ w, t.unit? i.blk i.u = some w ∧ w.unissued = v.unissued ∧ w.lanes.length = v.lanes.length
    ∧ (∀ l, (w.lane l).unissued = (v.lane l).unissued)
    ∧ (i.noLoopEnd past → ∀ l, l < 32 → l < i.w.lanes.length → inMask i.path l = true → (i.w.lane l).wait = .none →
        (w.lane l).pc = past ∧ (w.lane l).wait = .none)
  only : OnlyUnit s t i.blk i.u

/-- Two units hold the same, beside what every issue changes. -/
def Warp.same (w v : Warp) : Prop :=
  v.unissued = w.unissued ∧ v.lanes.length = w.lanes.length ∧ ∀ l, (v.lane l).unissued = (w.lane l).unissued

/-- THE WORD'S OWN EFFECT `f` IS CARRIED OUT: from `s` comes a state `u` in which only what every issue changes has
changed, the lanes of the path standing past the word, at `past`; `f` acts on `u`; and `t` is what `f` makes of it, each lane
where `f` leaves it and waiting for what `f` has it wait for, save that the lanes which completed the word are counted at the
loop ends there. -/
def Does (s t : State) (i : Iss) (f : Iss → State → State) (past : Nat := nextPc i.pc) : Prop :=
  ∃ u, OnlyUnit s u i.blk i.u
    ∧ (∃ w, u.unit? i.blk i.u = some w ∧ i.w.same w ∧ w.lc0 = i.w.lc0 ∧ w.lc1 = i.w.lc1
        ∧ ∀ l, l < i.w.lanes.length → (w.lane l).wait = (i.w.lane l).wait
          ∧ (w.lane l).pc = if inMask i.path l then past else (i.w.lane l).pc)
    ∧ OnlyUnit (f i u) t i.blk i.u
    ∧ ∀ w, (f i u).unit? i.blk i.u = some w → ∃ v, t.unit? i.blk i.u = some v ∧ w.same v
        ∧ (¬ w.endsAt (prevPc past) → ∀ l, l < 32 → (∀ k, (w.lane l).wait ≠ .loopEnd k) →
            (v.lane l).pc = (w.lane l).pc ∧ (v.lane l).wait = (w.lane l).wait)

/-- Each active lane's newest latch holds the value and the taint that `f` gives it (04 R92). -/
def Latched (t : State) (i : Iss) (f : Nat → Word × Bool) : Prop :=
  ∃ w, t.unit? i.blk i.u = some w ∧ ∀ l, l < i.w.lanes.length → inMask i.act l = true →
    (w.lane l).latchVal = some (some (f l).1, (f l).2)

/-- The issuing unit with vector register `d` of each active lane `l` set to `f l`, unless NW sends the result to the
latches alone, and flags raised under CAP (04 R90; 02 R41). -/
def Iss.withVec (i : Iss) (d : BitVec 6) (n : BitVec 1) (f : Nat → Word × Bool) (fl : Flags) : Warp :=
  { (i.w.modLanes i.act (fun l x => if nwOf n then x else x.setReg d.toNat (f l).1 (f l).2)) with
    fflags := if i.h.cap then i.w.fflags ||| fl else i.w.fflags }

/-- The issuing unit with each active lane changed. -/
def Iss.withLanes (i : Iss) (h : Nat → Lane → Lane) : Warp := i.w.modLanes i.act h

/-- The issuing unit with scalar register `d`, as the active lanes name it, set. -/
def Iss.withScalar (i : Iss) (d : BitVec 5) (x : Word) : Warp := i.w.sWrite i.act d.toNat x

/-- The issuing unit with predicate `k` of each active lane set to what G makes of the old one and `f l`, and flags
raised under CAP (04 R91). -/
def Iss.withPred (i : Iss) (g : BitVec 2) (k : BitVec 3) (f : Nat → Bool) (fl : Flags) : Warp :=
  { ((lanesOf i.act).foldl (fun (w : Warp) l =>
      w.setPred k.toNat l (combinePred g (inMask (i.w.pred k.toNat) l) (f l))) i.w) with
    fflags := if i.h.cap then i.w.fflags ||| fl else i.w.fflags }

end Sys2Proof.Machine
end

