-- ==== Sys2Proof/WellFormed.lean ====
section
/-! DEFINITION. Well-formed instructions: those whose word alone gives no ground for ILLEGAL (04 R102). -/

namespace Sys2Proof

/-- An instruction that a program may hold; an event of the part has no word to break a rule. -/
def Instr.wellFormed (i : Instr) : Bool := Machine.legalForm i

end Sys2Proof
end

