-- ==== Sys2Proof/Certificates/Slice0/Obligations.lean ====
section
/-! DEFINITION. The statements for the provers. Each is about every state and every operand that meets its hypotheses;
`Ready` says when a word issues without being held, and `Past` what the unit holds after it and what else is unchanged
(Safety.lean). -/

open Sys2Proof Sys2Proof.Machine

namespace Sys2Proof.Claims

/-! ## Register-only words -/

/-- A vector instruction: its constructor, its major, FN and energy class, whether it reads the old D as its third
source, whether it takes one operand only (B = 56). -/
structure VecRow where
  op : BitVec 4 → BitVec 6 → BitVec 6 → BitVec 6 → BitVec 1 → Instr
  maj : Nat
  fn : Nat
  cls : Nat
  third : Bool := false
  one : Bool := false

def VecRow.b (r : VecRow) (b : BitVec 6) : BitVec 6 := if r.one then 56 else b

def VecRow.attr (r : VecRow) (p : BitVec 4) (d a b : BitVec 6) (n : BitVec 1) : Attr :=
  vecAttr r.maj r.fn r.cls p d a (r.b b) n r.third

/-- The operands of lane `l`, and whether one of them is tainted (06 R134, R135). -/
def VecRow.src (r : VecRow) (i : Iss) (d a b : BitVec 6) (l : Nat) : Word × Word × Word :=
  ((i.op l a).1, (i.op l (r.b b)).1, if r.third then (i.third l d).1 else 0)

def VecRow.taint (r : VecRow) (i : Iss) (d a b : BitVec 6) (l : Nat) : Bool :=
  (i.op l a).2 || (i.op l (r.b b)).2 || (r.third && (i.third l d).2)

/-- The word completes: each active lane's result is `f` of its operands, in register D and in its newest latch (in
the latch alone under NW), tainted as R135 says; the flags `g` enter %fflags under CAP. -/
def VecRow.Gives (r : VecRow) (f : Iss → Word × Word × Word → Word) (g : Iss → Word × Word × Word → Flags) : Prop :=
  ∀ (s : State) (p : BitVec 4) (d a b : BitVec 6) (n : BitVec 1) (i : Iss) (ws : List Word),
    Ready s (r.attr p d a b n) i always never ws →
    ∃ t, exec (r.op p d a b n) s = .next t
      ∧ Past s t i (i.withVec d n (fun l => (f i (r.src i d a b l), r.taint i d a b l))
          ((lanesOf i.act).foldl (fun (x : Flags) l => x ||| g i (r.src i d a b l)) 0))
      ∧ Latched t i (fun l => (f i (r.src i d a b l), r.taint i d a b l))

/-- As `Gives`, of a result that no modifier changes and that raises no flag. -/
def VecRow.GivesI (r : VecRow) (f : Word → Word → Word → Word) : Prop :=
  r.Gives (fun _ x => f x.1 x.2.1 x.2.2) (fun _ _ => 0)

/-- As `Gives`, of a result and flags on register contents under the word's modifiers. -/
def VecRow.GivesF (r : VecRow) (f : Mods → Nat → Nat → Nat → Nat × Flags) : Prop :=
  r.Gives (fun i x => BitVec.ofNat 32 (f i.h.mods x.1.toNat x.2.1.toNat x.2.2.toNat).1)
    (fun i x => (f i.h.mods x.1.toNat x.2.1.toNat x.2.2.toNat).2)

/-- Integer and bit operations and their results (06 R138, R140, R141). -/
def integerRows : List (VecRow × (Word → Word → Word → Word)) :=
  [({ op := .iadd, maj := 0x00, fn := 0, cls := 0 }, fun x y _ => x + y),
   ({ op := .isub, maj := 0x00, fn := 1, cls := 0 }, fun x y _ => x - y),
   ({ op := .imul, maj := 0x00, fn := 2, cls := 0 }, fun x y _ => x * y),
   ({ op := .imad, maj := 0x00, fn := 3, cls := 0, third := true }, fun x y z => x * y + z),
   ({ op := .imulhI32, maj := 0x00, fn := 4, cls := 0 }, fun x y _ => BitVec.ofInt 32 (x.toInt * y.toInt / 2 ^ 32)),
   ({ op := .imulhN32, maj := 0x00, fn := 5, cls := 0 }, fun x y _ => BitVec.ofNat 32 (x.toNat * y.toNat / 2 ^ 32)),
   ({ op := .iaddsI32, maj := 0x00, fn := 6, cls := 0 }, fun x y _ => satI32 (x.toInt + y.toInt)),
   ({ op := .isubsI32, maj := 0x00, fn := 7, cls := 0 }, fun x y _ => satI32 (x.toInt - y.toInt)),
   ({ op := .iminI32, maj := 0x01, fn := 0, cls := 0 }, fun x y _ => if x.toInt < y.toInt then x else y),
   ({ op := .iminN32, maj := 0x01, fn := 1, cls := 0 }, fun x y _ => if x.toNat < y.toNat then x else y),
   ({ op := .imaxI32, maj := 0x01, fn := 2, cls := 0 }, fun x y _ => if x.toInt < y.toInt then y else x),
   ({ op := .imaxN32, maj := 0x01, fn := 3, cls := 0 }, fun x y _ => if x.toNat < y.toNat then y else x),
   ({ op := fun p d a _ n => .iabsI32 p d a n, maj := 0x01, fn := 4, cls := 0, one := true },
     fun x _ _ => BitVec.ofInt 32 x.toInt.natAbs),
   ({ op := .idiffN32, maj := 0x01, fn := 5, cls := 0 }, fun x y _ => if x.toNat < y.toNat then y - x else x - y),
   ({ op := .andV, maj := 0x02, fn := 0, cls := 0 }, fun x y _ => x &&& y),
   ({ op := .orV, maj := 0x02, fn := 1, cls := 0 }, fun x y _ => x ||| y),
   ({ op := .xorV, maj := 0x02, fn := 2, cls := 0 }, fun x y _ => x ^^^ y),
   ({ op := .andn, maj := 0x02, fn := 3, cls := 0 }, fun x y _ => x &&& ~~~y),
   ({ op := .shl, maj := 0x02, fn := 4, cls := 0 }, fun x y _ => if 32 ≤ y.toNat then 0 else x <<< y.toNat),
   ({ op := .shr, maj := 0x02, fn := 5, cls := 0 }, fun x y _ => if 32 ≤ y.toNat then 0 else x >>> y.toNat),
   ({ op := .sar, maj := 0x02, fn := 6, cls := 0 }, fun x y _ => x.sshiftRight (min y.toNat 31)),
   ({ op := .rot, maj := 0x02, fn := 7, cls := 0 }, fun x y _ => x.rotateLeft (y.toNat % 32)),
   ({ op := fun p d a _ n => .popc p d a n, maj := 0x03, fn := 0, cls := 0, one := true }, fun x _ _ => popcW x),
   ({ op := fun p d a _ n => .clz p d a n, maj := 0x03, fn := 1, cls := 0, one := true }, fun x _ _ => clzW x),
   ({ op := fun p d a _ n => .brev p d a n, maj := 0x03, fn := 2, cls := 0, one := true }, fun x _ _ => brevW x),
   ({ op := .bfeI32, maj := 0x03, fn := 3, cls := 0 }, fun x y _ => bfeW true x y),
   ({ op := .bfeN32, maj := 0x03, fn := 4, cls := 0 }, fun x y _ => bfeW false x y),
   ({ op := .bfi, maj := 0x03, fn := 5, cls := 0, third := true }, fun x y z => bfiW x y z),
   ({ op := .prmt, maj := 0x03, fn := 7, cls := 0, third := true }, fun x y z => prmtW x y z)]

/-- Floating-point operations on register contents, and the functions of Flags.lean that give their results and
flags (06 R145 to R147, R149). -/
def floatRows : List (VecRow × (Mods → Nat → Nat → Nat → Nat × Flags)) :=
  [({ op := .fadd, maj := 0x08, fn := 0, cls := 1 }, fun m x y _ => fadd .f32 m x y),
   ({ op := .fsub, maj := 0x08, fn := 1, cls := 1 }, fun m x y _ => fsub .f32 m x y),
   ({ op := .fmul, maj := 0x08, fn := 2, cls := 1 }, fun m x y _ => fmul .f32 m x y),
   ({ op := .ffma, maj := 0x08, fn := 3, cls := 1, third := true }, fun m x y z => ffma .f32 m false x y z),
   ({ op := .fmin, maj := 0x08, fn := 4, cls := 1 }, fun _ x y _ => fminmax .f32 false false x y),
   ({ op := .fmax, maj := 0x08, fn := 5, cls := 1 }, fun _ x y _ => fminmax .f32 false true x y),
   ({ op := .fmna, maj := 0x08, fn := 6, cls := 1, third := true }, fun m x y z => ffma .f32 m true x y z),
   ({ op := .fcopys, maj := 0x08, fn := 7, cls := 1 }, fun _ x y _ => (y / 2 ^ 31 * 2 ^ 31 + x % 2 ^ 31, 0)),
   ({ op := fun p d a _ n => .frcp p d a n, maj := 0x0A, fn := 0, cls := 2, one := true }, fun _ x _ _ => sfuOp 0 x),
   ({ op := fun p d a _ n => .frsq p d a n, maj := 0x0A, fn := 1, cls := 2, one := true }, fun _ x _ _ => sfuOp 1 x),
   ({ op := fun p d a _ n => .fsqrt p d a n, maj := 0x0A, fn := 2, cls := 2, one := true }, fun _ x _ _ => sfuOp 2 x),
   ({ op := fun p d a _ n => .fex2 p d a n, maj := 0x0A, fn := 3, cls := 2, one := true }, fun _ x _ _ => sfuOp 3 x),
   ({ op := fun p d a _ n => .flg2 p d a n, maj := 0x0A, fn := 4, cls := 2, one := true }, fun _ x _ _ => sfuOp 4 x),
   ({ op := fun p d a _ n => .fsin p d a n, maj := 0x0A, fn := 5, cls := 2, one := true }, fun _ x _ _ => sfuOp 5 x),
   ({ op := fun p d a _ n => .fcos p d a n, maj := 0x0A, fn := 6, cls := 2, one := true }, fun _ x _ _ => sfuOp 6 x),
   ({ op := fun p d a _ n => .ftanh p d a n, maj := 0x0A, fn := 7, cls := 2, one := true }, fun _ x _ _ => sfuOp 7 x),
   ({ op := .hadd2F16, maj := 0x0B, fn := 0, cls := 3 }, fun m x y z => packed (fun x y _ => fadd .f16 m x y) x y z),
   ({ op := .hsub2F16, maj := 0x0B, fn := 1, cls := 3 }, fun m x y z => packed (fun x y _ => fsub .f16 m x y) x y z),
   ({ op := .hmul2F16, maj := 0x0B, fn := 2, cls := 3 }, fun m x y z => packed (fun x y _ => fmul .f16 m x y) x y z),
   ({ op := .hfma2F16, maj := 0x0B, fn := 3, cls := 3, third := true }, fun m x y z => packed (ffma .f16 m false) x y z),
   ({ op := .hmin2F16, maj := 0x0B, fn := 4, cls := 3 },
     fun m x y z => packed (fun x y _ => fminmax .f16 m.sat false x y) x y z),
   ({ op := .hmax2F16, maj := 0x0B, fn := 5, cls := 3 },
     fun m x y z => packed (fun x y _ => fminmax .f16 m.sat true x y) x y z),
   ({ op := .hdot2F16, maj := 0x0B, fn := 6, cls := 3, third := true }, fun m x y z => hdot .f16 m x y z),
   ({ op := .hadd2Bf16, maj := 0x0C, fn := 0, cls := 3 }, fun m x y z => packed (fun x y _ => fadd .bf16 m x y) x y z),
   ({ op := .hsub2Bf16, maj := 0x0C, fn := 1, cls := 3 }, fun m x y z => packed (fun x y _ => fsub .bf16 m x y) x y z),
   ({ op := .hmul2Bf16, maj := 0x0C, fn := 2, cls := 3 }, fun m x y z => packed (fun x y _ => fmul .bf16 m x y) x y z),
   ({ op := .hfma2Bf16, maj := 0x0C, fn := 3, cls := 3, third := true },
     fun m x y z => packed (ffma .bf16 m false) x y z),
   ({ op := .hmin2Bf16, maj := 0x0C, fn := 4, cls := 3 },
     fun m x y z => packed (fun x y _ => fminmax .bf16 m.sat false x y) x y z),
   ({ op := .hmax2Bf16, maj := 0x0C, fn := 5, cls := 3 },
     fun m x y z => packed (fun x y _ => fminmax .bf16 m.sat true x y) x y z),
   ({ op := .hdot2Bf16, maj := 0x0C, fn := 6, cls := 3, third := true }, fun m x y z => hdot .bf16 m x y z),
   ({ op := fun p d a _ n => .frndRn p d a n, maj := 0x0E, fn := 0, cls := 3, one := true }, fun _ x _ _ => frnd .rn x),
   ({ op := fun p d a _ n => .frndRz p d a n, maj := 0x0E, fn := 1, cls := 3, one := true }, fun _ x _ _ => frnd .rz x),
   ({ op := fun p d a _ n => .frndRd p d a n, maj := 0x0E, fn := 2, cls := 3, one := true }, fun _ x _ _ => frnd .rd x),
   ({ op := fun p d a _ n => .frndRu p d a n, maj := 0x0E, fn := 3, cls := 3, one := true }, fun _ x _ _ => frnd .ru x),
   ({ op := fun p d a _ n => .ffrac p d a n, maj := 0x0E, fn := 4, cls := 3, one := true }, fun _ x _ _ => ffrac x),
   ({ op := fun p d a _ n => .fexp p d a n, maj := 0x0E, fn := 5, cls := 3, one := true }, fun _ x _ _ => fexp x),
   ({ op := .fscale, maj := 0x0E, fn := 6, cls := 3 }, fun m x y _ => fscale m x (sextNat y 32)),
   ({ op := fun p d a _ n => .fclass p d a n, maj := 0x0E, fn := 7, cls := 3, one := true },
     fun _ x _ _ => (fclass x, 0))]

/-- An I- or K-format word completes with `f` of its hint words and operand A (06 R142). -/
def ImmGives (mk : BitVec 4 → BitVec 6 → BitVec 6 → Instr) (maj fn : Nat) (himm : Bool) (f : Hints → Word → Word) :
    Prop :=
  ∀ (s : State) (p : BitVec 4) (d a : BitVec 6) (i : Iss) (ws : List Word),
    Ready s { maj := maj, fn := fn, cls := 0, p := some p, legal := dst d && src a, rv := [a], wv := codesToRegs [d],
              himm := himm, value := true } i always never ws →
    ∃ t, exec (mk p d a) s = .next t
      ∧ Past s t i (i.withVec d 0 (fun l => (f i.h (i.op l a).1, (i.op l a).2)) 0)
      ∧ Latched t i (fun l => (f i.h (i.op l a).1, (i.op l a).2))

/-- Attributes of IADD64 and ISUB64 (06 R139). -/
def pairAttr (fn : Nat) (p : BitVec 4) (d a b : BitVec 6) : Attr :=
  { maj := 1, fn := fn, cls := 0, p := some p, legal := run d 2 && pair64 a && pair64 b,
    rr := pairRegs a ++ pairRegs b, wv := [d.toNat, d.toNat + 1], value := true }

/-- A 64-bit word completes with `f` of its register pairs, the low word in the lower register (06 R139). -/
def PairGives (mk : BitVec 4 → BitVec 6 → BitVec 6 → BitVec 6 → Instr) (fn : Nat)
    (f : BitVec 64 → BitVec 64 → BitVec 64) : Prop :=
  ∀ (s : State) (p : BitVec 4) (d a b : BitVec 6) (i : Iss) (ws : List Word),
    Ready s (pairAttr fn p d a b) i always never ws →
    let v := fun (l : Nat) => f (i.op64 l a).1 (i.op64 l b).1
    let t' := fun (l : Nat) => (i.op64 l a).2 || (i.op64 l b).2
    ∃ t, exec (mk p d a b) s = .next t
      ∧ Past s t i (i.withLanes (fun l x =>
          (x.setReg d.toNat ((v l).extractLsb' 0 32) (t' l)).setReg (d.toNat + 1) ((v l).extractLsb' 32 32) (t' l)))
      ∧ Latched t i (fun l => ((v l).extractLsb' 0 32, t' l))

/-- The word of attributes `a` is judged, for an active lane: its path's next words are fetched, `ws`, and no trailing warp
holds it (04 R88, R94; 12 R288). -/
structure Judged (s : State) (a : Attr) (i : Iss) (ws : List Word) : Prop where
  issuer : s.issuer a.p = some i
  active : i.act ≠ 0
  leading : i.trailing = false
  ahead : s.ahead i = (.words ws, s)
  lag : i.lagStall a = false
  reissues : i.reissues = false

/-- A word that is refused: ILLEGAL for its active lanes, before any effect (04 R88, R95, R102). -/
def Illegal (s : State) (a : Attr) (i : Iss) (ws : List Word) : Host.Outcome State Fault Refusal :=
  .next (s.refuse i (nextPc i.pc) (i.chainWith a ws).1 Cause.ILLEGAL)

/-- A compare: its constructor, major, FN and energy class. -/
structure SetRow where
  op : BitVec 4 → BitVec 2 → BitVec 3 → BitVec 6 → BitVec 6 → Instr
  maj : Nat
  fn : Nat
  cls : Nat

/-- The word completes: predicate K of each active lane becomes what G makes of the old one and the condition, and
flags enter %fflags under CAP (06 R143). -/
def SetRow.Gives (r : SetRow) (f : Word → Word → Bool × Flags) : Prop :=
  ∀ (s : State) (p : BitVec 4) (g : BitVec 2) (k : BitVec 3) (a b : BitVec 6) (i : Iss) (ws : List Word),
    Ready s (predAttr r.maj r.fn r.cls p g k [a, b]) i always never ws →
    ∃ t, exec (r.op p g k a b) s = .next t
      ∧ Past s t i (i.withPred g k (fun l => (f (i.op l a).1 (i.op l b).1).1)
          ((lanesOf i.act).foldl (fun (x : Flags) l => x ||| (f (i.op l a).1 (i.op l b).1).2) 0))

/-- The conditions of ISET and FSET (06 R143). -/
def compareRows : List (SetRow × (Word → Word → Bool × Flags)) :=
  [(⟨.isetEq, 0x04, 0, 0⟩, fun x y => (x == y, 0)),
   (⟨.isetNe, 0x04, 1, 0⟩, fun x y => (x != y, 0)),
   (⟨.isetLtI32, 0x04, 2, 0⟩, fun x y => (decide (x.toInt < y.toInt), 0)),
   (⟨.isetLeI32, 0x04, 3, 0⟩, fun x y => (decide (x.toInt ≤ y.toInt), 0)),
   (⟨.isetLtN32, 0x04, 4, 0⟩, fun x y => (decide (x.toNat < y.toNat), 0)),
   (⟨.isetLeN32, 0x04, 5, 0⟩, fun x y => (decide (x.toNat ≤ y.toNat), 0)),
   (⟨.isetTst, 0x04, 6, 0⟩, fun x y => (x &&& y != 0, 0)),
   (⟨.isetNtst, 0x04, 7, 0⟩, fun x y => (x &&& y == 0, 0)),
   (⟨.fsetEq, 0x09, 0, 1⟩, fun x y => fsetCond 0 x.toNat y.toNat),
   (⟨.fsetNe, 0x09, 1, 1⟩, fun x y => fsetCond 1 x.toNat y.toNat),
   (⟨.fsetLt, 0x09, 2, 1⟩, fun x y => fsetCond 2 x.toNat y.toNat),
   (⟨.fsetLe, 0x09, 3, 1⟩, fun x y => fsetCond 3 x.toNat y.toNat),
   (⟨.fsetOrd, 0x09, 4, 1⟩, fun x y => fsetCond 4 x.toNat y.toNat),
   (⟨.fsetUnord, 0x09, 5, 1⟩, fun x y => fsetCond 5 x.toNat y.toNat),
   (⟨.fsetEqu, 0x09, 6, 1⟩, fun x y => fsetCond 6 x.toNat y.toNat),
   (⟨.fsetLtu, 0x09, 7, 1⟩, fun x y => fsetCond 7 x.toNat y.toNat)]

/-- A lane word completes: each active lane `l` receives `f i l`, in D and in its newest latch (06 R150, R151). -/
def LaneGives (instr : Instr) (a : Attr) (d : BitVec 6) (n : BitVec 1) (f : Iss → Nat → Word × Bool)
    (g : Iss → Flags) : Prop :=
  ∀ (s : State) (i : Iss) (ws : List Word), Ready s a i always never ws →
    ∃ t, exec instr s = .next t ∧ Past s t i (i.withVec d n (f i) (g i)) ∧ Latched t i (f i)

/-- The value that lane `l` shuffles in: operand A of lane `m`, or its own where `m` is none or not active; tainted
by either operand read (06 R135, R150). -/
def shuffled (i : Iss) (a b : BitVec 6) (l : Nat) (m : Option Nat) : Word × Bool :=
  let from' := match m with
    | some m => if inMask i.act m then m else l
    | none => l
  ((i.op from' a).1, (i.op from' a).2 || (i.op l b).2)

/-- Operand A over the active lanes, ascending; whether it is tainted in one of them. -/
def column (i : Iss) (a : BitVec 6) : List Word := (lanesOf i.act).map (fun l => (i.op l a).1)
def columnTaint (i : Iss) (a : BitVec 6) : Bool := (lanesOf i.act).any (fun l => (i.op l a).2)

/-- A word completes with a scalar result: the unit's scalar register D becomes `x`, and nothing else changes (02 R37;
06 R152). -/
def ScalarGives (instr : Instr) (a : Attr) (extra stall : Iss → State → Bool) (d : BitVec 5) (x : State → Iss → Word) :
    Prop :=
  ∀ (s : State) (i : Iss) (ws : List Word), Ready s a i extra stall ws →
    ∃ t, exec instr s = .next t ∧ Past s t i (i.withScalar d (x s i))

/-- Two-operand scalar instructions: constructor, major, FN, result. -/
def scalarRows : List ((BitVec 5 → BitVec 5 → BitVec 5 → Instr) × Nat × Nat × (Word → Word → Word)) :=
  [(.sadd, 0x12, 0, fun x y => x + y), (.ssub, 0x12, 1, fun x y => x - y), (.smul, 0x12, 2, fun x y => x * y),
   (.sand, 0x12, 3, fun x y => x &&& y), (.sor, 0x12, 4, fun x y => x ||| y), (.sxor, 0x12, 5, fun x y => x ^^^ y),
   (.sshl, 0x12, 6, fun x y => if 32 ≤ y.toNat then 0 else x <<< y.toNat),
   (.sshr, 0x12, 7, fun x y => if 32 ≤ y.toNat then 0 else x >>> y.toNat),
   (.sminI32, 0x14, 0, fun x y => if x.toInt < y.toInt then x else y),
   (.smaxI32, 0x14, 1, fun x y => if x.toInt < y.toInt then y else x),
   (.sminN32, 0x14, 2, fun x y => if x.toNat < y.toNat then x else y),
   (.smaxN32, 0x14, 3, fun x y => if x.toNat < y.toNat then y else x),
   (.ssar, 0x14, 4, fun x y => x.sshiftRight (min y.toNat 31))]

/-- Element (r, j) of D after an MMA word: `f` over the sixteen products of row r of A and column j of B, and the old
element; a lane holds rows and columns as 06 R154 lays them out. -/
def fragResult (i : Iss) (w : Nat) (d a b : BitVec 6) (f : List (Nat × Nat) → Word → Word) (l k : Nat) : Word × Bool :=
  let r := l % 16
  let j := 4 * (l / 16) + k
  (f ((List.range 16).map (fun k => (i.frag a.toNat w (fragA w r k), i.frag b.toNat w (fragB w k j))))
      ((i.w.lane l).reg (d.toNat + k)),
   (i.w.lane l).tainted (d.toNat + k) || i.fragTaint a.toNat (w / 4) [r, r + 16]
     || i.fragTaint b.toNat (w / 8) [j, j + 8, j + 16, j + 24])

/-- Attributes of an MMA word over elements of `w` bits. -/
def fragAttr (fn w : Nat) (p : BitVec 4) (d a b : BitVec 6) : Attr :=
  let group := fun (x : BitVec 6) n => (List.range n).map (x.toNat + ·)
  { maj := 0x2F, fn := fn, serial := true, cls := 6, p := some p,
    legal := run d 4 && run a (w / 4) && run b (w / 8),
    rr := group d 4 ++ group a (w / 4) ++ group b (w / 8), wv := group d 4, value := true }

/-- An MMA word completes, in a warp whose 32 lanes are all active: D becomes A × B + D (06 R153 to R155). -/
def FragGives (mk : BitVec 4 → BitVec 6 → BitVec 6 → BitVec 6 → Instr) (fn w : Nat)
    (f : List (Nat × Nat) → Word → Word) : Prop :=
  ∀ (s : State) (p : BitVec 4) (d a b : BitVec 6) (i : Iss) (ws : List Word),
    Ready s (fragAttr fn w p d a b) i (fun i _ => i.act == 0xFFFFFFFF) never ws →
    ∃ t, exec (mk p d a b) s = .next t
      ∧ Past s t i (i.withLanes (fun l x => (List.range 4).foldl (fun (x : Lane) k =>
          x.setReg (d.toNat + k) (fragResult i w d a b f l k).1 (fragResult i w d a b f l k).2) x))
      ∧ Latched t i (fun l => fragResult i w d a b f l 0)

end Sys2Proof.Claims

open Sys2Proof.Claims

/-- 06 R138, R140, R141 with R134, R135: each integer or bit operation completes with the result the rule gives, and
leaves everything else as it was. -/
def Obligations.IntegerResults : Prop := ∀ r ∈ integerRows, r.1.GivesI r.2

/-- 06 R145 to R147, R149 with R134 to R136: each floating-point operation completes with the result and the flags
that the number-format functions give for its operands and modifiers. -/
def Obligations.FloatResults : Prop := ∀ r ∈ floatRows, r.1.GivesF r.2

/-- 06 R142: IADDI adds the sign-extended immediate, or the one that HIMM completes; the K-format words shift, rotate
and combine by their immediate. -/
def Obligations.ImmediateResults : Prop :=
  (∀ i : BitVec 10, ImmGives (fun p d a => .iaddi p d a i) 0x06 0 true (fun h x => x + h.imm i))
  ∧ (∀ i : BitVec 5, ImmGives (fun p d a => .shli p d a i) 0x07 0 false (fun _ x => x <<< i.toNat)
    ∧ ImmGives (fun p d a => .shri p d a i) 0x07 1 false (fun _ x => x >>> i.toNat)
    ∧ ImmGives (fun p d a => .sari p d a i) 0x07 2 false (fun _ x => x.sshiftRight i.toNat)
    ∧ ImmGives (fun p d a => .roti p d a i) 0x07 3 false (fun _ x => x.rotateLeft (i.toNat % 32)))
  ∧ (∀ i : BitVec 7, ImmGives (fun p d a => .andi p d a i) 0x07 4 false (fun _ x => x &&& i.signExtend 32)
    ∧ ImmGives (fun p d a => .ori p d a i) 0x07 5 false (fun _ x => x ||| i.signExtend 32)
    ∧ ImmGives (fun p d a => .xori p d a i) 0x07 6 false (fun _ x => x ^^^ i.signExtend 32))

/-- 06 R139: IADD64 and ISUB64 give the 64-bit sum and difference of register pairs, code 56 reading as zero, and raise
no flag; a code that names no pair within v55, other than 56 for a source, raises ILLEGAL, and so does NW = 1. -/
def Obligations.PairResults : Prop :=
  PairGives .iadd64 6 (fun x y => x + y) ∧ PairGives .isub64 7 (fun x y => x - y)
  ∧ (∀ (i : Iss) (l : Nat), (i.op64 l 56).1 = 0 ∧ ∀ a : BitVec 6, a.toNat < 55 →
      (i.op64 l a).1 = (i.w.lane l).reg (a.toNat + 1) ++ (i.w.lane l).reg a.toNat)
  ∧ (∀ (p : BitVec 4) (d a b : BitVec 6) (s : State) (i : Iss) (ws : List Word),
      ¬(d.toNat + 2 ≤ 56 ∧ (a.toNat + 2 ≤ 56 ∨ a = 56) ∧ (b.toNat + 2 ≤ 56 ∨ b = 56)) →
      (Judged s (pairAttr 6 p d a b) i ws → exec (.iadd64 p d a b) s = Illegal s (pairAttr 6 p d a b) i ws)
      ∧ (Judged s (pairAttr 7 p d a b) i ws → exec (.isub64 p d a b) s = Illegal s (pairAttr 7 p d a b) i ws))
  ∧ (∀ (w : Word) (s : State) (i : Iss) (ws : List Word), fld w 26 6 = 0x01 → fld w 0 3 = 6 ∨ fld w 0 3 = 7 →
      fld w 3 1 = 1 → Judged s (badAttr w) i ws → s.runWord w = Illegal s (badAttr w) i ws)

/-- 06 R143: ISET and FSET write the predicate from the condition of their FN, under the combine of 04 R91; ISET raises
no flag. -/
def Obligations.CompareResults : Prop := ∀ r ∈ compareRows, r.1.Gives r.2

/-- 06 R141, R144, R148: LOP3 by the table in s31, SEL by the predicate its FN names, CVT by the code in B and the
rounding of FN. -/
def Obligations.SelectedResults : Prop :=
  (∀ (p : BitVec 4) (d a b : BitVec 6) (n : BitVec 1),
    LaneGives (.lop3 p d a b n) { vecAttr 0x03 6 0 p d a b n true with rs := [31] } d n
      (fun i l => (lop3W (i.w.sRead i.act 31) (i.op l a).1 (i.op l b).1 (i.third l d).1,
        (i.op l a).2 || (i.op l b).2 || (i.third l d).2)) (fun _ => 0))
  ∧ (∀ (p : BitVec 4) (d a b : BitVec 6) (n : BitVec 1) (k : BitVec 3),
    LaneGives (.sel p d a b n k) { vecAttr 0x05 k.toNat 0 p d a b n false with rp := [k.toNat] } d n
      (fun i l => (if inMask (i.w.pred k.toNat) l then (i.op l a).1 else (i.op l b).1, (i.op l a).2 || (i.op l b).2))
      (fun _ => 0))
  ∧ (∀ (p : BitVec 4) (d a c : BitVec 6) (n : BitVec 1) (r : BitVec 3),
    LaneGives (.cvt p d a c n r) { vecAttr 0x0D r.toNat 3 p d a 56 n false with
        legal := dstNw d n && src a && cvtCode c && decide (r.toNat < 6) } d n
      (fun i l => (BitVec.ofNat 32 (cvtOp c.toNat r.toNat (i.op l a).1.toNat).1, (i.op l a).2))
      (fun i => (lanesOf i.act).foldl (fun (g : Flags) l => g ||| (cvtOp c.toNat r.toNat (i.op l a).1.toNat).2) 0))

/-- 06 R150, R151 with R135: shuffles, ballot, match, reductions and S2V give each active lane the value of the rule,
made of the active lanes alone. -/
def Obligations.LaneResults : Prop :=
  ∀ (p : BitVec 4) (d a b : BitVec 6) (n : BitVec 1) (sa : BitVec 5),
  LaneGives (.shflIdx p d a b n) (laneAttr 0x10 0 p d a b n) d n
    (fun i l => shuffled i a b l (some ((i.op l b).1.toNat % 32))) (fun _ => 0)
  ∧ LaneGives (.shflXor p d a b n) (laneAttr 0x10 1 p d a b n) d n
    (fun i l => shuffled i a b l (some (l ^^^ ((i.op l b).1.toNat % 32)))) (fun _ => 0)
  ∧ LaneGives (.shflUp p d a b n) (laneAttr 0x10 2 p d a b n) d n
    (fun i l => shuffled i a b l (if l < (i.op l b).1.toNat then none else some (l - (i.op l b).1.toNat))) (fun _ => 0)
  ∧ LaneGives (.shflDown p d a b n) (laneAttr 0x10 3 p d a b n) d n
    (fun i l => shuffled i a b l (if 31 < l + (i.op l b).1.toNat then none else some (l + (i.op l b).1.toNat)))
    (fun _ => 0)
  ∧ LaneGives (.ballot p d a n) (laneAttr 0x10 6 p d a 56 n) d n
    (fun i _ => (maskOf ((lanesOf i.act).filter (fun m => (i.op m a).1 != 0)), columnTaint i a)) (fun _ => 0)
  ∧ LaneGives (.matchLanes p d a n) (laneAttr 0x10 7 p d a 56 n) d n
    (fun i l => (maskOf ((lanesOf i.act).filter (fun m => (i.op m a).1 == (i.op l a).1)), columnTaint i a)) (fun _ => 0)
  ∧ LaneGives (.reduxAddI32 p d a n) (laneAttr 0x11 0 p d a 56 n) d n
    (fun i _ => ((column i a).foldl (· + ·) 0, columnTaint i a)) (fun _ => 0)
  ∧ LaneGives (.reduxMinI32 p d a n) (laneAttr 0x11 1 p d a 56 n) d n
    (fun i _ => ((column i a).foldl (fun x y => if y.slt x then y else x) 0x7FFFFFFF, columnTaint i a)) (fun _ => 0)
  ∧ LaneGives (.reduxMaxI32 p d a n) (laneAttr 0x11 2 p d a 56 n) d n
    (fun i _ => ((column i a).foldl (fun x y => if x.slt y then y else x) 0x80000000, columnTaint i a)) (fun _ => 0)
  ∧ LaneGives (.reduxAddF32 p d a n) (laneAttr 0x11 3 p d a 56 n) d n
    (fun i _ => (BitVec.ofNat 32 (reduxF32 i.h.mods ((column i a).map BitVec.toNat)).1, columnTaint i a))
    (fun i => (reduxF32 i.h.mods ((column i a).map BitVec.toNat)).2)
  ∧ LaneGives (.s2v p d sa n) { laneAttr 0x11 5 p d 56 56 n with rs := [sa.toNat] } d n
    (fun i _ => (i.s sa, false)) (fun _ => 0)

/-- 06 R150, R151: VOTE and ELECT write a predicate of the active lanes, under the combine of 04 R91. -/
def Obligations.LanePredicates : Prop :=
  ∀ (s : State) (p : BitVec 4) (g : BitVec 2) (k : BitVec 3) (a : BitVec 6) (i : Iss) (ws : List Word),
  (Ready s (predAttr 0x10 4 4 p g k [a]) i always never ws → ∃ t, exec (.voteAny p g k a) s = .next t
    ∧ Past s t i (i.withPred g k (fun _ => (maskOf ((lanesOf i.act).filter (fun m => (i.op m a).1 != 0))) != 0) 0))
  ∧ (Ready s (predAttr 0x10 5 4 p g k [a]) i always never ws → ∃ t, exec (.voteAll p g k a) s = .next t
    ∧ Past s t i (i.withPred g k (fun _ => (maskOf ((lanesOf i.act).filter (fun m => (i.op m a).1 != 0))) == i.act) 0))
  ∧ (Ready s (predAttr 0x11 4 4 p g k []) i always never ws → ∃ t, exec (.elect p g k) s = .next t
    ∧ Past s t i (i.withPred g k (fun l => l == lowest i.act) 0))

/-- 06 R151, R152: V2S and the scalar operations write their scalar register, modulo 2^32. -/
def Obligations.ScalarResults : Prop :=
  (∀ r ∈ scalarRows, ∀ d a b : BitVec 5, ScalarGives (r.1 d a b) (scalAttr r.2.1 r.2.2.1 false d [a.toNat, b.toNat])
    always never d (fun _ i => r.2.2.2 (i.s a) (i.s b)))
  ∧ (∀ d a : BitVec 5, ScalarGives (.spopc d a) (scalAttr 0x14 5 false d [a.toNat]) always never d (fun _ i => popcW (i.s a))
    ∧ ScalarGives (.sclz d a) (scalAttr 0x14 6 false d [a.toNat]) always never d (fun _ i => clzW (i.s a)))
  ∧ (∀ (d a : BitVec 5) (x : BitVec 12),
    ScalarGives (.saddi d a x) (scalAttr 0x13 0 true d [a.toNat])
      (fun i _ => i.h.himm.isNone || decide (x.toNat < 2 ^ 10)) never d (fun _ i => i.s a + i.h.imm x)
    ∧ ScalarGives (.smovi d x) (scalAttr 0x16 0 true d [])
      (fun i _ => i.h.himm.isNone || decide (x.toNat < 2 ^ 10)) never d (fun _ i => i.h.imm x))
  ∧ (∀ (p : BitVec 4) (d : BitVec 5) (a : BitVec 6),
    ScalarGives (.v2s p d a) { maj := 0x11, fn := 6, cls := 4, p := some p, legal := src a, rv := [a], ws := [d.toNat] }
      always never d (fun _ i => (i.op (lowest i.act) a).1))

/-- 06 R153 to R155, 03 R79: an MMA word multiplies the fragments that a warp holds. -/
def Obligations.FragmentResults : Prop :=
  FragGives .mmaF16 0 16 (mmaFloat .f16) ∧ FragGives .mmaBf16 1 16 (mmaFloat .bf16)
  ∧ FragGives .mmaF8e4 2 8 (mmaFloat .f8e4) ∧ FragGives .mmaF8e5 3 8 (mmaFloat .f8e5)
  ∧ FragGives .mmaI8 4 8 mmaInt

namespace Sys2Proof.Claims

/-! ## Words with an effect of their own -/

/-- A word completes: held by nothing, it carries out its own effect `f`, of the state in which it issues; nothing else
changes but what every issue changes (`Does`). -/
def Carries (instr : Instr) (a : State → Attr) (extra stall : Iss → State → Bool) (f : State → Iss → State → State) :
    Prop :=
  ∀ (s : State) (i : Iss) (ws : List Word), Ready s (a s) i extra stall ws →
    ∃ t, exec instr s = .next t ∧ Does s t i (f s)

/-- A branch completes: each active lane that waited for nothing stands at its target `f`, no other lane of the path
does; CALL and CALLX leave the return address in v55; registers, predicates and everything outside the unit are as
before (05 R110 to R112). `leave` says that a target may lie outside a loop body, or at a body's end (R126, R127). -/
def BranchGives (instr : Instr) (a : Attr) (leave link : Bool) (f : Iss → Nat → Nat) : Prop :=
  ∀ (s : State) (i : Iss) (ws : List Word), Ready s a i always never ws →
    (∀ l ∈ lanesOf i.act, f i l % 4 = 0 ∧ (leave = true → i.backIn l (f i l) = none)) →
    ∃ t, exec instr s = .next t ∧ OnlyUnit s t i.blk i.u
      ∧ ∃ w, t.unit? i.blk i.u = some w ∧ w.unissued = i.w.unissued ∧ w.lanes.length = i.w.lanes.length
        ∧ (∀ l, (w.lane l).unissued =
            ((i.w.modLanes i.act (fun _ x => if link then x.setReg 55 (BitVec.ofNat 32 (nextPc i.pc)) else x)).lane l).unissued)
        ∧ (∀ l, l < 32 → l < i.w.lanes.length → (i.w.lane l).wait = .none →
            (inMask i.act l = true → (w.lane l).pc = f i l % 2 ^ 32 ∧ (w.lane l).wait = .none)
            ∧ (inMask i.path l = true → inMask i.act l = false → i.noLoopEnd →
                (w.lane l).pc = nextPc i.pc ∧ (w.lane l).wait = .none))

/-- Attributes of SBR. -/
def sbrAttr (c : BitVec 4) (a b : BitVec 5) : Attr :=
  { maj := 0x15, legal := decide (c.toNat < 6) || (c == 6 && a == 0 && b == 0), front := true,
    rs := if c = 6 then [] else [a.toNat, b.toNat] }

/-- An instruction on a rejoin set completes: ReleaseCheck, then LoopCheck, follow what `f` makes of the unit (05 R119 to
R121). -/
def SetGives (instr : Instr) (a : Attr) (e : BitVec 4) (f : Iss → Warp → Warp) : Prop :=
  Carries instr (fun _ => a) (fun i _ => decide (e.toNat < i.r.setLim)) never
    (fun _ i s => s.modUnit i.blk i.u (fun w => ((f i w).releaseCheck e.toNat).loopCheck))

/-- A loop word on level `k` completes, its end word's page being checked (`held` says that it still is, and `u` is the state after
looking there): where the level cannot open, all lanes of the path take LOOP_FORM; a count of 0 is a loop just exhausted; else the
level opens with the count, the body and the path (04 R84; 05 R124). -/
def LoopGives (instr : Instr) (maj k off : Nat) (rs : List Nat) (legal : Bool) (count : Iss → Nat) : Prop :=
  ∀ (s u : State) (i : Iss) (x : Nat) (held : Bool) (ws : List Word), s.issuer none = some i →
    s.skipHints i.core i.b.regid i.r 8 ((i.pc + 4 * off) % 2 ^ 32) = (x, held, u) →
    Ready u { maj := maj, legal := legal, rs := rs, noEnd := true } i always (fun _ _ => held) ws →
    ∃ t, exec instr s = .next t ∧ Does u t i (fun i v =>
      let last := (v.skipHints i.core i.b.regid i.r 8 ((i.pc + 4 * off) % 2 ^ 32)).1
      if (i.w.level k).active || (k == 0 && i.w.lc1.active) || (k == 1 && i.w.lc0.active && decide (i.w.lc0.endPc < last)) then
        v.takeFault i.blk i.u i.path (fun _ => { i.fault Cause.LOOP_FORM with coord := BitVec.ofNat 32 k })
      else if count i = 0 then v.modUnit i.blk i.u (fun w =>
        ((w.modLanes i.path (fun _ l => { l with pc := nextPc last })).endArrival i.path last k).loopCheck)
      else v.modUnit i.blk i.u (fun w => w.setLevel k
        { active := true, remaining := count i, body := nextPc i.pc, endPc := last, entry := i.path }))

end Sys2Proof.Claims

/-- 05 R110 to R112: branches, calls, returns and the scalar branch send the lanes to their targets. -/
def Obligations.BranchTargets : Prop :=
  (∀ (p : BitVec 4) (o : BitVec 22) (a : BitVec 6),
    BranchGives (.bra p o) (ctlAttr 0x18 0 p 56 false true) true false (fun i _ => i.target o)
    ∧ BranchGives (.brx p a) (ctlAttr 0x1A 0 p a false false) true false (fun i l => (i.op l a).1.toNat)
    ∧ BranchGives (.ret p) { ctlAttr 0x1A 2 p 56 true false with rr := [55] } true false
        (fun i l => ((i.w.lane l).reg 55).toNat)
    ∧ BranchGives (.call p o) { ctlAttr 0x19 0 p 56 true false with wv := [55] } false true (fun i _ => i.target o)
    ∧ BranchGives (.callx p a) { ctlAttr 0x1A 1 p a true false with wv := [55] } false true
        (fun i l => (i.op l a).1.toNat))
  ∧ (∀ (s : State) (c : BitVec 4) (a b : BitVec 5) (o : BitVec 12) (i : Iss) (ws : List Word),
      Ready s (sbrAttr c a b) i always never ws →
      let holds := [i.s a == i.s b, i.s a != i.s b, decide ((i.s a).toInt < (i.s b).toInt),
        decide ((i.s b).toInt ≤ (i.s a).toInt), decide ((i.s a).toNat < (i.s b).toNat),
        decide ((i.s b).toNat ≤ (i.s a).toNat)].getD c.toNat true
      ∃ t, exec (.sbr c a b o) s = .next t
        ∧ (holds = false → Past s t i i.w)
        ∧ (holds = true → i.target o % 4 = 0 → (∀ l ∈ lanesOf i.path, i.backIn l (i.target o) = none) →
            OnlyUnit s t i.blk i.u ∧ ∃ w, t.unit? i.blk i.u = some w ∧ w.unissued = i.w.unissued
              ∧ (∀ l, (w.lane l).unissued = (i.w.lane l).unissued)
              ∧ ∀ l, l < 32 → l < i.w.lanes.length → (i.w.lane l).wait = .none → inMask i.path l = true →
                  (w.lane l).pc = i.target o % 2 ^ 32 ∧ (w.lane l).wait = .none))

/-- 05 R113, R115 to R117, 09 R227: EXIT ends the active lanes with their statuses, YIELD and NOP let them go on, BRK
and TRAP park them past the word, NEXT sends them to a segment, once the lane's own accesses to its entry are done (R117). -/
def Obligations.FlowEffects : Prop :=
  ∀ (p : BitVec 4) (a : BitVec 6) (e : BitVec 4),
  Carries (.exit p a)
    (fun _ => { ctlAttr 0x1A 3 p 56 false true with
      rv := [a], serial := true, cmp := some (fun i _ => (lanesOf i.act).map (fun l => (i.status l a).toNat)) })
    (fun i _ => if i.front then decide (a.toNat < 32) || a == 56 else src a)
    (fun i _ => i.statusStall a)
    (fun _ i s => (s.loseItems i.blk i.act).exitLanes i.blk i.u i.act (fun l => i.status l a))
  ∧ (∀ (s : State) (i : Iss) (ws : List Word), Ready s (ctlAttr 0x1A 4 p 56 false true) i always never ws →
      ∃ t, exec (.yield p) s = .next t ∧ Past s t i { i.w with yieldLanes := i.path, yielded := true })
  ∧ (∀ (s : State) (i : Iss) (ws : List Word), Ready s (ctlAttr 0x1A 5 p 56 false true) i always never ws →
      ∃ t, exec (.nop p) s = .next t ∧ Past s t i i.w)
  ∧ Carries (.brk p) (fun _ => { ctlAttr 0x1A 7 p 56 false true with mirror := false }) always never
      (fun _ i s => s.takeFault i.blk i.u i.act (fun _ => { i.fault Cause.BRK with resume := nextPc i.pc }))
  ∧ Carries (.trap p e) (fun _ => sysAttr 0x32 0 p true) always never
      (fun _ i s => s.takeFault i.blk i.u i.act (fun _ =>
        { i.fault Cause.TRAP with resume := nextPc i.pc, coord := e.setWidth 32 }))
  ∧ (let index := fun (i : Iss) => (lanesOf i.act).map (fun l => (l, (i.op l a).1.toNat))
     Carries (.nextSeg p a) (fun _ => { ctlAttr 0x1A 6 p a true false with mirror := false }) always
      (fun i _ => (index i).any (fun e => decide (e.2 < i.r.segCnt) && i.readWaits e.1 (i.r.segBase + 4 * e.2) 4))
      (fun _ i s =>
        let x := s.segments i (index i)
        if x.2.2.1 then x.2.2.2.consume i.blk Cause.UNCORRECTABLE
        else
          let y := (x.2.2.2.takeFaults i.blk i.u 32 x.2.1).jump i true x.1
          (x.1.filter (fun e => inMask y.2 e.1)).foldl (fun (s : State) e => s.leave i.blk i.u (.jump (laneBit e.1) i.pc e.2)) y.1))

/-- 05 R118 to R121: the instructions on rejoin sets change their set as the rules say; JWAIT lets member lanes arrive
and wait, and a lane that is no member faults. -/
def Obligations.RejoinSets : Prop :=
  ∀ (p e : BitVec 4) (sa x : BitVec 5),
  SetGives (.jenter p e) (setAttr 0 p) e (fun i w => w.putSet e.toNat (w.mOf e.toNat ||| i.act) (w.aOf e.toNat))
  ∧ SetGives (.jquit p e) (setAttr 1 p) e
      (fun i w => w.putSet e.toNat (w.mOf e.toNat &&& ~~~i.act) (w.aOf e.toNat &&& ~~~i.act))
  ∧ SetGives (.jmovf p sa x e) { setAttr 3 p with legal := sa != x, ws := [sa.toNat, x.toNat] } e
      (fun i w => (w.sWrite i.act sa.toNat (w.mOf e.toNat)).sWrite i.act x.toNat (w.aOf e.toNat))
  ∧ SetGives (.jmovt p sa x e) { setAttr 4 p with rs := [sa.toNat, x.toNat] } e
      (fun i w => w.putSet e.toNat (i.s sa &&& ~~~w.exited) (i.s x &&& (i.s sa &&& ~~~w.exited) &&& w.waitingOn e.toNat))
  ∧ SetGives (.jclr p e) (setAttr 5 p) e (fun _ w => w.putSet e.toNat 0 0)
  ∧ Carries (.jwait p e) (fun _ => { setAttr 2 p with serial := true, noEnd := true })
      (fun i _ => decide (e.toNat < i.r.setLim)) never
      (fun _ i s =>
        let members := i.act &&& i.w.mOf e.toNat
        let s := s.modUnit i.blk i.u (fun w =>
          (w.putSet e.toNat (w.mOf e.toNat) (w.aOf e.toNat ||| members)).modLanes members
            (fun _ l => { l with pc := i.pc, wait := .set e.toNat }))
        let s := s.takeFault i.blk i.u (i.act &&& ~~~i.w.mOf e.toNat)
          (fun _ => { i.fault Cause.NOT_MEMBER with coord := BitVec.ofNat 32 e.toNat })
        s.modUnit i.blk i.u (fun w => (w.releaseCheck e.toNat).loopCheck))

/-- 05 R123, R124: LOOP and LOOPI open a level with their count, or say why it does not open. -/
def Obligations.LoopWords : Prop :=
  ∀ (l : BitVec 1) (sa : BitVec 5) (e : BitVec 12) (c : BitVec 10) (o : BitVec 11),
  LoopGives (.loop l sa e) 0x1C l.toNat e.toNat [sa.toNat] (e.toNat != 0) (fun i => (i.s sa).toNat)
  ∧ LoopGives (.loopi l c o) 0x1D l.toNat o.toNat [] (o.toNat != 0) (fun _ => c.toNat)

/-- 05 R129 to R131, 10 R248: the barrier words arrive, wait, or set the expected count; BAR.SYNC waits for the phase, and where its
own arrival completes it, for the phase's release. -/
def Obligations.BarrierWords : Prop :=
  ∀ (p e : BitVec 4) (sa : BitVec 5),
  Carries (.barSync p e) (fun _ => barAttr 0 p true) always never (fun _ i s =>
    if i.b.barOpen e.toNat then s
    else
      let u := s.arriveBar i e.toNat
      if (u.block? i.blk).any (fun b => b.phaseOver e.toNat false) then
        let v := u.completePhase i.blk e.toNat
        (v.fenceWait i.blk i.u i.act (v.awaited i.blk) none true).passFences i.blk
      else u.waitBar i e.toNat)
  ∧ Carries (.barArv p e) (fun _ => barAttr 1 p true) always never
      (fun _ i s => (s.arriveBar i e.toNat).barrierCheck i.blk e.toNat false)
  ∧ Carries (.barWait p e) (fun _ => barAttr 2 p true) always never
      (fun _ i s => if natBit (i.b.bar e.toNat).pending.toNat i.u.num then s.waitBar i e.toNat else s)
  ∧ Carries (.barCnt p sa e) (fun _ => { barAttr 3 p false with rs := [sa.toNat] })
      (fun i _ => decide ((i.s sa).toNat ≤ 17)) never
      (fun _ i s => s.modBlock i.blk (fun b => b.setBar e.toNat
        (if (b.bar e.toNat).arrived = 0 then { b.bar e.toNat with expected := (i.s sa).toNat, nextExpected := none }
         else { b.bar e.toNat with nextExpected := some (i.s sa).toNat })))

namespace Sys2Proof.Claims

/-! ## Memory words -/

abbrev MemCon := BitVec 4 → BitVec 6 → BitVec 6 → BitVec 7 → Instr

/-- Loads (07 R165 to R167): constructor, major, FN, bytes, whether it sign-extends, whether its result is tainted, its
own cache policy. -/
noncomputable def loadRows : List (MemCon × Nat × Nat × Nat × Bool × Bool × Option Nat) :=
  [(.ldB8I, 0x20, 0, 1, true, false, none), (.ldB8N, 0x20, 1, 1, false, false, none),
   (.ldB16I, 0x20, 2, 2, true, false, none), (.ldB16N, 0x20, 3, 2, false, false, none),
   (.ldB32, 0x20, 4, 4, false, false, none), (.ldB64, 0x20, 5, 8, false, false, none),
   (.ldB128, 0x20, 6, 16, false, false, none), (.ldcB32, 0x20, 7, 4, false, true, none),
   (.ldntB32, 0x29, 5, 4, false, false, some 2)]

/-- Stores (07 R165, R166): constructor, major, FN, bytes, data registers, its own cache policy. -/
noncomputable def storeRows : List (MemCon × Nat × Nat × Nat × Nat × Option Nat) :=
  [(.stB8, 0x21, 0, 1, 1, none), (.stB16, 0x21, 1, 2, 1, none), (.stB32, 0x21, 2, 4, 1, none),
   (.stB64, 0x21, 3, 8, 2, none), (.stB128, 0x21, 4, 16, 4, none), (.stntB32, 0x29, 6, 4, 1, some 2)]

/-- Atomics that return a value (07 R171 to R174): constructor, major, FN, operand registers from D on, operation. -/
noncomputable def atomRows : List (MemCon × Nat × Nat × Nat × MemOp) :=
  [(.atomAdd, 0x24, 0, 1, .atom .add), (.atomMinI32, 0x24, 1, 1, .atom .minS), (.atomMaxI32, 0x24, 2, 1, .atom .maxS),
   (.atomMinN32, 0x24, 3, 1, .atom .minU), (.atomMaxN32, 0x24, 4, 1, .atom .maxU), (.atomAnd, 0x24, 5, 1, .atom .and),
   (.atomOr, 0x24, 6, 1, .atom .or), (.atomXor, 0x24, 7, 1, .atom .xor), (.atomExch, 0x25, 0, 1, .atom .exch),
   (.atomCas, 0x25, 1, 2, .atom .cas), (.atomAddF32, 0x25, 2, 1, .atom .addF32), (.lrB32, 0x25, 3, 0, .lr),
   (.scB32, 0x25, 4, 1, .sc)]

/-- Atomics that return none. -/
noncomputable def redRows : List (MemCon × Nat × AtomOp) :=
  [(.redAddI32, 0, .add), (.redMinI32, 1, .minS), (.redMaxI32, 2, .maxS), (.redAnd, 3, .and), (.redOr, 4, .or),
   (.redXor, 5, .xor), (.redAddF32, 6, .addF32), (.redAddF16x2, 7, .addF16x2)]

/-- Scratchpad loads (07 R168): constructor, FN, bytes, the coordinate that a wide element runs along. -/
noncomputable def ldsRows : List (MemCon × Nat × Nat × Nat) :=
  [(.ldsB32Row, 0, 4, 0), (.ldsB32Col, 1, 4, 1), (.ldsB64Row, 2, 8, 0), (.ldsB64Col, 3, 8, 1),
   (.ldsB16Row, 4, 2, 0), (.ldsB16Col, 5, 2, 1), (.ldsB8Row, 6, 1, 0), (.ldsB128Row, 7, 16, 0)]

/-- Scratchpad stores: constructor, FN, bytes, data registers, coordinate. -/
noncomputable def stsRows : List (MemCon × Nat × Nat × Nat × Nat) :=
  [(.stsB32Row, 0, 4, 1, 0), (.stsB32Col, 1, 4, 1, 1), (.stsB64Row, 2, 8, 2, 0), (.stsB64Col, 3, 8, 2, 1),
   (.stsB16Row, 4, 2, 1, 0), (.stsB16Col, 5, 2, 1, 1), (.stsB8Row, 6, 1, 1, 0), (.stsB128Row, 7, 16, 4, 0)]

/-- Scratchpad atomics (07 R172): constructor, FN, operand registers, operation. -/
noncomputable def atomsRows : List (MemCon × Nat × Nat × AtomOp) :=
  [(.atomsAdd, 0, 1, .add), (.atomsMinI32, 1, 1, .minS), (.atomsMaxI32, 2, 1, .maxS), (.atomsExch, 3, 1, .exch),
   (.atomsCas, 4, 2, .cas), (.atomsAddF32, 5, 1, .addF32), (.atomsOr, 6, 1, .or), (.atomsAnd, 7, 1, .and)]

/-- A word on translated memory completes: with its operands read, each active lane's access goes through its view,
the checks and translation, to its fault point and past it (04 R89; 07 R161; 14 R333), the block having no release
due. -/
def MemoryGives (instr : Instr) (a : State → Attr) (c : BitVec 6) (v : BitVec 7) (m : State → MemIss) (pol : Option Nat) :
    Prop :=
  Carries instr a (fun _ s => coordsFit c (s.rankOf v c)) (fun i _ => i.b.commitDue && i.w.hints.isEmpty)
    (fun s i u => u.startAccess i (a s) { m s with rank := s.rankOf v c, offs := i.h.offs, pol := pol.getD i.h.pol } i.headPc)

/-- A scratchpad word completes, where no tile that it touches is an engine's (07 R168, R169; 08 R198). -/
def ScratchGives (instr : Instr) (a : State → Attr) (c : BitVec 6) (v : BitVec 7) (m : State → MemIss) : Prop :=
  ∀ (s : State) (i : Iss) (ws : List Word),
    let x : MemIss := { m s with rank := s.rankOf v c }
    let b : Attr := { a s with
      cls := 11
      onStall := fun i u => u.noteOwner i (some x.view) (u.ownedLanes i x) }
    Ready s b i (fun _ s => coordsFit c (s.rankOf v c)) (fun i s => (i.b.commitDue && i.w.hints.isEmpty) || !(s.ownedLanes i x).isEmpty) ws →
    ∃ t, exec instr s = .next t ∧ Does s t i (fun i u => u.startAccess i (a s) { x with offs := i.h.offs } i.headPc)

/-- Attributes of a store-like word: it waits for the fault points of the lane's earlier accesses and for its earlier reads
(10 R240; 14 R333), and is compared in a checked region by its addresses and data (12 R290). -/
def storing (a : Attr) (op : MemOp) (dir : Nat) (v : BitVec 7) (c : BitVec 6) (rank : Nat) (data : Iss → Nat → List Word) :
    Attr :=
  { a with serial := true, reads := true, cmp := some (comparedAccess op dir v c rank data) }

end Sys2Proof.Claims

/-- 07 R164 to R167, R170 to R174: the words on translated memory begin their accesses with the operands that their rule
names. -/
def Obligations.MemoryWords : Prop :=
  ∀ (p : BitVec 4) (d c : BitVec 6) (v : BitVec 7),
  (∀ r ∈ loadRows, let (op, maj, fn, w, signed, taint, pol) := r
    let regs := regRun d (max 1 (w / 4))
    MemoryGives (op p d c v)
      (fun s => { memAttr maj fn p (run d (max 1 (w / 4))) c (s.rankOf v c) with
        wv := regs, value := true, outs := regs.map Out.v }) c v
      (fun _ => { op := .load w signed, d := d.toNat, view := v.toNat, c := c.toNat, taint := taint, data := noData }) pol)
  ∧ (∀ r ∈ storeRows, let (op, maj, fn, w, n, pol) := r
    MemoryGives (op p d c v)
      (fun s => storing { memAttr maj fn p (data d n) c (s.rankOf v c) with
        rv := dataCodes d n, rr := coordRun c (s.rankOf v c) ++ dataRegs d n } (.store w) 0 v c (s.rankOf v c) (storeData d n)) c v
      (fun _ => { op := .store w, d := d.toNat, view := v.toNat, c := c.toNat, data := storeData d n }) pol)
  ∧ (∀ r ∈ atomRows, let (op, maj, fn, n, o) := r
    MemoryGives (op p d c v) (fun s => atomAttr maj fn n o p d c v (s.rankOf v c)) c v
      (fun _ => { op := o, d := d.toNat, view := v.toNat, c := c.toNat, data := atomData d n }) none)
  ∧ (∀ r ∈ redRows, let (op, fn, o) := r
    MemoryGives (op p d c v)
      (fun s => storing { memAttr 0x26 fn p (data d 1) c (s.rankOf v c) with rv := [d] } (.red o) 0 v c (s.rankOf v c)
        (storeData d 1)) c v
      (fun _ => { op := .red o, d := d.toNat, view := v.toNat, c := c.toNat, data := storeData d 1 }) none)
  ∧ (∀ r ∈ [(Instr.cwb, 2), (Instr.cinv, 3), (Instr.cwbi, 4)],
    MemoryGives (r.1 p c v) (fun s => { memAttr 0x29 r.2 p true c (s.rankOf v c) with serial := true, ordered := true }) c v
      (fun _ => { op := .maint r.2, d := 56, view := v.toNat, c := c.toNat, data := noData }) none)

/-- 07 R168, R169, R172: the scratchpad words begin their accesses where no engine owns a tile of theirs. -/
def Obligations.ScratchpadWords : Prop :=
  ∀ (p : BitVec 4) (d c : BitVec 6) (v : BitVec 7),
  (∀ r ∈ ldsRows, let (op, fn, w, dir) := r
    let regs := regRun d (max 1 (w / 4))
    ScratchGives (op p d c v)
      (fun s => { memAttr 0x22 fn p (run d (max 1 (w / 4))) c (s.rankOf v c) with
        wv := regs, value := true, outs := regs.map Out.v }) c v
      (fun _ => { op := .lds w, d := d.toNat, dir := dir, view := v.toNat, c := c.toNat, data := noData }))
  ∧ (∀ r ∈ stsRows, let (op, fn, w, n, dir) := r
    ScratchGives (op p d c v)
      (fun s => storing { memAttr 0x23 fn p (data d n) c (s.rankOf v c) with
        rv := dataCodes d n, rr := coordRun c (s.rankOf v c) ++ dataRegs d n } (.sts w) dir v c (s.rankOf v c) (storeData d n)) c v
      (fun _ => { op := .sts w, d := d.toNat, dir := dir, view := v.toNat, c := c.toNat, data := storeData d n }))
  ∧ (∀ r ∈ atomsRows, let (op, fn, n, o) := r
    ScratchGives (op p d c v) (fun s => atomAttr 0x27 fn n (.atoms o) p d c v (s.rankOf v c)) c v
      (fun _ => { op := .atoms o, d := d.toNat, view := v.toNat, c := c.toNat, data := atomData d n }))

/-- 07 R170: a prefetch acts lane by lane through the record, and does nothing where the record cannot be had. -/
def Obligations.PrefetchWords : Prop :=
  ∀ (p : BitVec 4) (c : BitVec 6) (v : BitVec 7), ∀ r ∈ [(Instr.pref, 0, false), (Instr.prefLlc, 1, true)],
  Carries (r.1 p c v) (fun s => { memAttr 0x29 r.2.1 p true c (s.rankOf v c) with logs := false })
    (fun _ s => coordsFit c (s.rankOf v c)) never
    (fun _ i u => match u.record i.core i.b.regid i.r v.toNat with
      | (.ok rec, w) => (lanesOf i.act).foldl (fun (x : State) l => x.prefetch i rec v.toNat c.toNat r.2.2 l) w
      | (_, w) => w)

namespace Sys2Proof.Claims

/-! ## Ordering, groups, system words -/

/-- A fence completes: of DIE scope or wider it commits the block's stores; an acquire takes in what has been released to the
core; a release passes set C on to the cores of its scope, and its lanes wait for the acknowledgements that the scope asks
for: at CORE scope for none, else for those of set C, at CLUS scope for those that have left the buffer (log entry 12; 07 R175; 10
R245; 11 R256, R258). -/
def FenceGives (instr : Instr) (fn : Nat) (p e : BitVec 4) (acquire release : Bool) (sc : Option Nat) : Prop :=
  Carries instr (fun _ => orderAttr 0x28 fn p (decide (e.toNat < 6))) always never (fun _ i u =>
    let u := if 2 ≤ e.toNat then u.commit i.blk else u
    let u := if acquire then u.acquireAt i.blk i.core e.toNat else u
    if release then
      let u := u.shareC i.blk (scopeCores i.core e.toNat)
      let ids := if e.toNat = 0 then [] else if e.toNat = 1 then u.setC i.blk else u.awaited i.blk
      (u.fenceWait i.blk i.u i.act ids sc (decide (e.toNat < 3))).passFences i.blk
    else u)

/-- An engine command completes: it is captured, where its queue has room and no engine owns its parameter block (08
R187, R188). -/
def EngineGives (mk : BitVec 4 → BitVec 5 → BitVec 5 → BitVec 5 → BitVec 1 → Instr) (maj fn : Nat) (op : CmdOp) : Prop :=
  ∀ (p : BitVec 4) (t sa x : BitVec 5) (r : BitVec 1),
  Carries (mk p t sa x r) (fun _ => engineAttr maj fn p t sa x r) always
    (fun i s => s.paramOwned i sa || s.queueFull i op sa)
    (fun _ i u => u.capture i op t sa (if r = 1 then (i.s x).toNat else 0))

/-- A hint word completes: it joins the unit of its path, whose lanes go on to the next word; a loop level that ends at the hint word
ends at the next (R84); nothing else changes (04 R96). -/
def HintGives (instr : Instr) (x : Word) : Prop :=
  ∀ (s : State) (i : Iss), s.issuer none = some i →
    exec instr s = .next (s.modUnit i.blk i.u (fun w =>
      { (w.modLanes i.path (fun _ l => { l with pc := nextPc i.pc })) with
        hints := w.hints ++ [x], hintPc := if w.hints.isEmpty then i.pc else w.hintPc, unitLanes := i.path
        lc0 := w.lc0.passHint i.pc, lc1 := w.lc1.passHint i.pc, lastIssue := s.now }))

/-- A precise fault that a system word finds. -/
def faultWith (i : Iss) (s : State) (p : Park) : State := s.takeFault i.blk i.u i.act (fun _ => p)

end Sys2Proof.Claims

/-- 07 R175, 11 R256, R258: the four fences. -/
def Obligations.FenceWords : Prop :=
  ∀ p e : BitVec 4, FenceGives (.fenceAcq p e) 0 p e true false none ∧ FenceGives (.fenceRel p e) 1 p e false true none
    ∧ FenceGives (.fenceAr p e) 2 p e true true none ∧ FenceGives (.fenceSc p e) 3 p e true true (some e.toNat)

/-- 07 R162, R163: VIEWF forgets records after a fence, VIEWP writes a word of a record and its generation at the home
point, VIEWQ reads a word of the record as the core holds it. -/
def Obligations.ViewWords : Prop :=
  ∀ (p : BitVec 4) (t sa x : BitVec 5) (e : BitVec 4),
  Carries (.viewf p sa e)
    (fun _ => { orderAttr 0x2B 0 p (e == 0 || (e == 15 && sa == 0)) with rs := if e = 15 then [] else [sa.toNat] })
    always never
    (fun _ i u =>
      let v := if e = 15 then none else some (i.viewNo sa)
      (u.fenceAt i 2 true true none (some v)).forgetViews i.core i.b.regid v)
  ∧ Carries (.viewp p t sa x e)
    (fun _ => { orderAttr 0x2B 1 p (e != 15) with
      rs := [sa.toNat, x.toNat], ws := [t.toNat], outs := [.s t.toNat],
      cmp := some (fun i _ => [i.viewNo sa, e.toNat, (i.s x).toNat]) }) always never
    (fun _ i u =>
      let va := i.recordVa (i.viewNo sa)
      match u.watchHits i.core i.r.part i.b.regid 2 [(va, 64)] with
      | n :: ns => u.takeFault i.blk i.u i.act (fun _ => { (i.fault 0).watching (n :: ns) with acc := 1, va := va })
      | [] => match u.translate i.core i.r.part va { r := false, w := true } 1 false with
        | (.fault c acc, v) => v.recordFault i c acc va
        | (.ok leaf, v) => v.patchRecord i t (i.viewNo sa) e.toNat (i.s x) (leaf.home va) (leaf.key va % Config.lineBytes))
  ∧ Carries (.viewq p t sa e)
    (fun _ => { maj := 0x2B, fn := 2, p := some p, legal := true, front := true, serial := true, rs := [sa.toNat],
                ws := [t.toNat], outs := [.s t.toNat], mirror := false }) always never
    (fun _ i u => match u.record i.core i.b.regid i.r (i.viewNo sa) with
      | (.ok r, v) => v.putS i t (BitVec.ofNat 32 (field r (32 * e.toNat) 32))
      | (.fault c acc va, v) => v.recordFault i c acc va
      | (.poison, v) => v.consume i.blk Cause.UNCORRECTABLE)

/-- 07 R176 to R178: GBEGIN runs a group that is well formed, of the words fetched after it, for the active lanes, and the path
goes on past its GEND; one that is not well formed is GROUP_FORM of the active lanes; with no active lane the whole group
does nothing. GEND outside a group is a fault. -/
def Obligations.SinkGroups : Prop :=
  (∀ (s u : State) (p : BitVec 4) (x : BitVec 5) (e : BitVec 4) (i : Iss) (l : Members) (n : Nat) (ws : List Word),
    s.issuer (some p) = some i → i.act ≠ 0 → 2 ≤ e.toNat → e.toNat ≤ 8 → x.toNat ≤ 3 →
    s.fetchGroup i.core i.b.regid i.r 64 e.toNat (nextPc i.pc) [] [] = (.ok l n, u) → groupOk l = true →
    let gend := (s.groupEnd i.core i.b.regid i.r 64 e.toNat (nextPc i.pc)).2.1
    let a := groupAttr p true l (some (nextPc gend))
    Ready u a i always (fun i s => (i.b.commitDue && i.w.hints.isEmpty) || decide (Config.sinkEntries ≤ s.sinkLines i.core)) ws →
    ∃ t, exec (.gbegin p x e) s = .next t ∧ Does u t i (fun i v => v.beginGroup i a (.ok l n) gend x.toNat) (nextPc gend))
  ∧ (∀ (s u : State) (p : BitVec 4) (x : BitVec 5) (e : BitVec 4) (i : Iss) (ws : List Word),
    s.issuer (some p) = some i → i.act ≠ 0 → 2 ≤ e.toNat → e.toNat ≤ 8 → x.toNat ≤ 3 →
    s.fetchGroup i.core i.b.regid i.r 64 e.toNat (nextPc i.pc) [] [] = (.form, u) →
    let gend := (s.groupEnd i.core i.b.regid i.r 64 e.toNat (nextPc i.pc)).2.1
    i.groupEnds gend = none →
    Ready u (groupAttr p true [] (some (nextPc gend))) i always
      (fun i s => (i.b.commitDue && i.w.hints.isEmpty) || decide (Config.sinkEntries ≤ s.sinkLines i.core)) ws →
    ∃ t, exec (.gbegin p x e) s = .next t
      ∧ Does u t i (fun i v => v.takeFault i.blk i.u i.act (fun _ => i.fault Cause.GROUP_FORM)) (nextPc gend))
  ∧ (∀ (s u : State) (p : BitVec 4) (x : BitVec 5) (e : BitVec 4) (i : Iss) (w : Word) (gend : Nat) (ws : List Word),
    s.issuer (some p) = some i → i.act = 0 → 2 ≤ e.toNat → e.toNat ≤ 8 → i.r.check = false → i.trailing = false →
    i.reissues = false →
    s.groupEnd i.core i.b.regid i.r 64 e.toNat (nextPc i.pc) = (.word w, gend, u) →
    u.ahead i = (.words ws, u) → u.issuer (some p) = some i →
    ∃ t, exec (.gbegin p x e) s = .next t ∧ Past u t i i.w (nextPc gend))
  ∧ (∀ p : BitVec 4, Carries (.gend p) (fun _ => { maj := 0x2A, fn := 1, p := some p, legal := true, serial := true })
      always never (fun _ i u => u.takeFault i.blk i.u i.act (fun _ => i.fault Cause.GROUP_FORM)))

/-- 08 R187, R188, R200 to R209: the engine commands are captured. -/
def Obligations.EngineCommands : Prop :=
  EngineGives .cpy 0x2C 0 .cpy ∧ EngineGives .cpyaF32 0x2C 1 .cpyaF32 ∧ EngineGives .cpyaF16 0x2C 2 .cpyaF16
  ∧ EngineGives .cpyg 0x2C 3 .cpyg ∧ EngineGives .csld 0x2E 0 .csld ∧ EngineGives .mmrun 0x2E 2 .mmrun
  ∧ EngineGives .mmdrain 0x2E 3 .mmdrain ∧ EngineGives .rede 0x2E 5 .rede
  ∧ (∀ (p : BitVec 4) (t sa : BitVec 5), Carries (.mmld p t sa) (fun _ => engineAttr 0x2E 1 p t sa 0 0) always
      (fun i s => s.paramOwned i sa || s.queueFull i .mmld sa)
      (fun _ i u => u.capture i .mmld t sa 0))

/-- 08 R196, R197: OWN.E and OWN.T set the owner bits of the named tiles, or fault PROT where they do not lie in the
window; OWN.T waits for the commands in flight that name them; OWNQ reads 32 owner bits, 0 outside the window. -/
def Obligations.OwnerWords : Prop :=
  ∀ (p : BitVec 4) (t sa x : BitVec 5),
  let set := fun (eng : Bool) (i : Iss) (u : State) =>
    if (i.s x) != 0 && decide (i.b.ntile < (i.s sa).toNat + (i.s x).toNat) then u.faultAct i Cause.PROT
    else ((List.range (i.s x).toNat).map ((i.s sa).toNat + ·)).foldl (fun (u : State) n =>
      u.modCore i.core (fun k => k.setTile (i.b.tile0 + n) eng)) u
  Carries (.ownE p sa x) (fun _ => ownAttr 0 p sa x) always never
      (fun _ i u => set true i (u.shareC i.blk (scopeCores i.core 0)))
  ∧ Carries (.ownT p sa x) (fun _ => ownAttr 1 p sa x) always
      (fun i s => !i.tilesBad sa x && s.tilesBusy i (i.tiles sa x)) 
      (fun _ i u => set false i (u.acquireAt i.blk i.core 0))
  ∧ ScalarGives (.ownq p t sa)
      { maj := 0x2D, fn := 2, p := some p, legal := true, rs := [sa.toNat], ws := [t.toNat], front := true,
        serial := true, outs := [.s t.toNat], mirror := false } always never t
      (fun s i => maskOf ((List.range 32).filter (fun k =>
        decide ((i.s sa).toNat + k < i.b.ntile) && (s.core i.core).engTile (i.b.tile0 + (i.s sa).toNat + k))))

/-- 09 R214, R216, R217, R219: the ladder words. -/
def Obligations.LadderWords : Prop :=
  ∀ (p : BitVec 4) (t sa x : BitVec 5) (e : BitVec 4),
  let ids := fun (i : Iss) => (lanesOf i.act).map (fun l => ((i.w.lane l).reg t.toNat).toNat)
  let regs := (List.range e.toNat).map (t.toNat + ·)
  let frame := fun (s : State) => (List.range s.rungFrame).map (t.toNat + ·)
  Carries (.ladrLane p t sa) (fun _ => ladrAttr p false [t.toNat] [sa.toNat] (fun i => i.viewNo sa :: ids i)) always never
    (fun _ i u => u.submitItems i (i.viewNo sa) (ids i) 0 0)
  ∧ Carries (.ladrRange p t sa x)
      (fun _ => ladrAttr p true [] [t.toNat, sa.toNat, x.toNat] (fun i => [i.viewNo sa, (i.s t).toNat, (i.s x).toNat])) always never
      (fun _ i u => u.submitItems i (i.viewNo sa) [] (i.s t).toNat (i.s x).toNat)
  ∧ Carries (.linfo p t sa e)
      (fun _ => { sysAttr 0x30 4 p true with
        legal := decide (e.toNat < 7), rs := [sa.toNat], ws := [t.toNat], outs := [.s t.toNat] }) always never
      (fun _ i u => match u.ladderView i (i.viewNo sa) with
        | (.poison, v) => v.consume i.blk Cause.UNCORRECTABLE
        | (.fault q, v) => faultWith i v q
        | (.ok (leaf, va), v) =>
          let reads := e = 5 && v.readsDesc (leaf.key va)
          let v := if reads then v.demandAt (leaf.home va) else v
          if reads && v.isPoisoned i.die (leaf.home va) then v.consume i.blk Cause.UNCORRECTABLE
          else v.putS i t (BitVec.ofNat 32 (v.ladderInfo (leaf.key va) e.toNat)))
  ∧ Carries (.lesc p t e)
      (fun _ => rungAttr 1 p (decide (e.toNat < 9)) regs
        (fun i => e.toNat :: (lanesOf i.act).flatMap (fun l => regs.map (fun r => ((i.w.lane l).reg r).toNat))))
      Iss.inRung never
      (fun _ i u => match u.rungOf i.b with
        | none => u
        | some (lid, k, _) =>
          let a := (lanesOf i.act).foldl (Esc.lane i lid k e.toNat t.toNat) { s := u }
          ((a.s.modUnit i.blk i.u (fun w => w.framePath i)).takeFaults i.blk i.u 32 a.faults).rungExit i lid a.out)
  ∧ Carries (.lret p t)
      (fun _ => rungAttr 2 p true [t.toNat] (fun i => (lanesOf i.act).map (fun l => ((i.w.lane l).reg t.toNat).toNat)))
      Iss.inRung never
      (fun _ i u => match u.rungOf i.b with
        | none => u
        | some (lid, _, y) =>
          let a := (lanesOf i.act).foldl (Esc.ret i lid (dResv y.desc) t.toNat) { s := u }
          (a.s.takeFaults i.blk i.u 32 a.faults).rungExit i lid a.out)
  ∧ Carries (.lfrm p t)
      (fun s => { sysAttr 0x30 3 p false with
        ordered := true, rr := frame s, wv := frame s, outs := (frame s).map Out.v })
      (fun i s => i.inRung s && decide (t.toNat + s.rungFrame ≤ 56)) never
      (fun _ i u => match u.rungOf i.b with
        | none => u
        | some (lid, k, _) =>
          let a := (lanesOf i.act).foldl (Esc.load i lid k t.toNat) { s := u }
          a.s.takeFaults i.blk i.u 32 a.faults)

/-- 09 R221 to R224: launch, its query, COMMIT and the decision queue. -/
def Obligations.LaunchWords : Prop :=
  ∀ (p : BitVec 4) (t sa x : BitVec 5) (d : BitVec 1) (e : BitVec 4),
  Carries (.rlaunch p t sa x d) (fun _ => rlaunchAttr p t sa x d) always never
    (fun _ i u => match u.rcbAt i sa x with
      | (.poison, v) => v.consume i.blk Cause.UNCORRECTABLE
      | (.fault q, v) => faultWith i v q
      | (.ok (_, va), v) => v.launchChild i t (d == 1) va)
  ∧ Carries (.rquery p t sa x e)
      (fun _ => { sysAttr 0x31 1 p true with
        legal := decide (e.toNat < 7), rs := [sa.toNat, x.toNat], ws := [t.toNat], outs := [.s t.toNat] }) always never
      (fun _ i u => match u.rcbAt i sa x with
        | (.poison, v) => v.consume i.blk Cause.UNCORRECTABLE
        | (.fault q, v) => faultWith i v q
        | (.ok (leaf, va), v) =>
          let v := (v.demandAt (leaf.home va)).demandAt (leaf.home (va + 128))
          if v.isPoisoned i.die (leaf.home va) || v.isPoisoned i.die (leaf.home (va + 128)) then v.consume i.blk Cause.UNCORRECTABLE
          else v.putS i t (BitVec.ofNat 32 (v.launchState (leaf.key va) e.toNat)))
  ∧ Carries (.commit p) (fun _ => { sysAttr 0x31 2 p true with ordered := true }) always never
      (fun _ i u => u.commit i.blk)
  ∧ Carries (.dqpush p sa x) (fun _ => { sysAttr 0x31 3 p true with
      rs := [sa.toNat, x.toNat], cmp := some (fun i _ => [(i.s sa).toNat, (i.s x).toNat]) }) (fun i _ => i.front)
      (fun i _ => decide (Config.dqEntries ≤ i.b.ctx.dq.length))
      (fun _ i u => u.modBlock i.blk (fun b =>
        if b.consumers = 0 then b
        else { b with ctx := { b.ctx with dq := b.ctx.dq ++ [{ word := i.s x ++ i.s sa, mask := b.consumers }] } }))
  ∧ Carries (.dqpop p t)
      (fun _ => { sysAttr 0x31 4 p false with
        legal := t != 31, ws := [t.toNat, t.toNat + 1], outs := [.s t.toNat, .s (t.toNat + 1)] })
      always (fun i _ => (dqTake i.u.num i.b.ctx.dq).isNone)
      (fun _ i u => match dqTake i.u.num i.b.ctx.dq with
        | some (y, rest) =>
          if i.b.ctx.dq.any (fun e => e.bad && natBit e.mask.toNat i.u.num && e.word == y) then u.consume i.blk Cause.UNCORRECTABLE
          else ((u.modBlock i.blk (fun b => { b with ctx := { b.ctx with dq := rest } })).putS i t (y.extractLsb' 0 32)).putS i
            (t + 1) (y.extractLsb' 32 32)
        | none => u)

/-- 09 R225, 02 R47 to R52: SRD reads a special register into a scalar register, and reading %clocklo fills the clock
latch; SWR writes %fflags, of a warp alone, behind its earlier groups. -/
def Obligations.SpecialRegisterWords : Prop :=
  ∀ (p : BitVec 4) (t r x : BitVec 5),
  let a : Attr := { sysAttr 0x31 5 p true with legal := decide (r.toNat ≤ 0x16), ws := [t.toNat], outs := [.s t.toNat] }
  (r ≠ 0x0B → ScalarGives (.srd p t r) a always (fun i _ => i.srdStall r.toNat) t (fun s i => s.special i r.toNat))
  ∧ (∀ (s : State) (i : Iss) (ws : List Word),
      Ready s { sysAttr 0x31 5 p true with legal := true, ws := [t.toNat], outs := [.s t.toNat] } i always never ws →
      ∃ u, exec (.srd p t 0x0B) s = .next u
        ∧ Past s u i { i.withScalar t (BitVec.ofNat 32 (s.cycles i.core)) with
            clkLatch := BitVec.ofNat 32 (s.cycles i.core / 2 ^ 32) })
  ∧ (∀ (s : State) (i : Iss) (ws : List Word),
      Ready s { sysAttr 0x31 6 p true with
        legal := r == 0x16, rs := [x.toNat], cmp := some (fun i _ => [r.toNat, (i.s x).toNat]) } i always (fun i _ => i.w.groupsOut) ws →
      ∃ u, exec (.swr p r x) s = .next u
        ∧ Past s u i (if i.front then i.w else { i.w with fflags := (i.s x).setWidth 5 }))

/-- 09 R226 to R228, 14 R337: the words of trap handling: the return, registers of parked lanes, the parked masks, the
end of a block. -/
def Obligations.TrapWords : Prop :=
  ∀ (p : BitVec 4) (t sa x : BitVec 5) (f : BitVec 1),
  Carries (.rte p f) (fun _ => sysAttr 0x32 1 p true) (fun i _ => i.inHandler) (fun i _ => i.bankPending)
    (fun _ i u => u.leaveHandler i (f == 1))
  ∧ (∀ (s : State) (i : Iss) (ws : List Word),
      Ready s { sysAttr 0x32 2 p false with rs := [sa.toNat, x.toNat], ws := [t.toNat], mirror := true } i
        (fun i _ => i.inHandler && !i.front && decide ((i.s x).toNat % 64 < 56)) never ws →
      let l := i.w.lane ((i.s sa).toNat % 32)
      ∃ u, exec (.xlr p t sa x) s = .next u
        ∧ (l.status = .parked → natBit l.bad.toNat ((i.s x).toNat % 64) = false →
            Past s u i (i.withScalar t (l.reg ((i.s x).toNat % 64))))
        ∧ (l.status = .parked → natBit l.bad.toNat ((i.s x).toNat % 64) = true →
            Does s u i (fun i v => v.consume i.blk Cause.UNCORRECTABLE 3))
        ∧ (l.status ≠ .parked → Does s u i (fun i v => v.faultAct i Cause.PROT)))
  ∧ (∀ (s : State) (i : Iss) (ws : List Word),
      Ready s { sysAttr 0x32 3 p false with
        rs := [sa.toNat, x.toNat, t.toNat]
        cmp := some (fun i _ => [(i.s sa).toNat, (i.s x).toNat, (i.s t).toNat]) } i
        (fun i _ => i.inHandler && !i.front && decide ((i.s x).toNat % 64 < 56)) never ws →
      let k := (i.s sa).toNat % 32
      ∃ u, exec (.xlw p t sa x) s = .next u
        ∧ ((i.w.lane k).status = .parked →
            Past s u i (i.w.modLane k (fun l => l.setReg ((i.s x).toNat % 64) (i.s t))))
        ∧ ((i.w.lane k).status ≠ .parked → Does s u i (fun i v => v.faultAct i Cause.PROT)))
  ∧ Carries (.kill p sa) (fun _ => { sysAttr 0x32 4 p true with rs := [sa.toNat], cmp := some (fun i _ => [(i.s sa).toNat]) })
      always never (fun _ i u => u.killBlock i.blk ((i.s sa).toNat % 256) .killed)
  ∧ Carries (.unpark p sa) (fun _ => { sysAttr 0x32 6 p false with rs := [sa.toNat] }) always never
      (fun _ i u => u.resumeLanes i.blk i.u (i.s sa &&& i.w.parked))
  ∧ (let parked := fun (i : Iss) => i.w.lanesWhere (fun l =>
        l.status == .parked && ((i.s sa).toNat % 64 == 0 || l.park.map Park.cause == some ((i.s sa).toNat % 64)))
     ScalarGives (.parkq p t sa) { sysAttr 0x32 5 p false with rs := [sa.toNat], ws := [t.toNat], outs := [.s t.toNat] }
       always (fun i _ => !i.w.faultPointsPassed) t (fun _ i => parked i))

/-- 09 R229 to R232: the performance counters. -/
def Obligations.CounterWords : Prop :=
  ∀ (p : BitVec 4) (t sa x : BitVec 5),
  let bank := fun (i : Iss) => (i.s sa).toNat % 4
  let no := fun (i : Iss) => (i.s sa).toNat / 4 % 8
  let reads : List Nat → Attr → Attr := fun rs a => { a with rs := rs, ws := [t.toNat], outs := [.s t.toNat] }
  Carries (.ctrclm p t sa) (fun _ => reads [sa.toNat] (sysAttr 0x33 0 p true)) always never
    (fun _ i u =>
      let b := u.bankOf i (bank i)
      if (u.part i.r.part).counters && ((b.holder.isNone && !b.stolen) || b.holder == some i.blk) then
        (u.modBank i (bank i) (fun b => { b with holder := some i.blk })).putS i t 0
      else u.putS i t 1)
  ∧ Carries (.ctrrel p sa) (fun _ => { sysAttr 0x33 1 p true with rs := [sa.toNat] }) always never
      (fun _ i u => if u.holds i (bank i) then u.modBank i (bank i) (fun b => { stolen := b.stolen }) else u)
  ∧ Carries (.ctrcfg p sa x) (fun _ => { sysAttr 0x33 2 p true with rs := [sa.toNat, x.toNat] }) always never
      (fun _ i u =>
        if !u.holds i (bank i) then u.faultAct i Cause.COUNTER_BUSY
        else u.modBank i (bank i) (fun b =>
          let c : Counter :=
            { config := i.s x &&& 0x7FF, count := if natBit (i.s x).toNat 11 then 0 else (b.ctrs.getD {} (no i)).count }
          { b with ctrs := b.ctrs.put (no i) c }))
  ∧ Carries (.ctrrdLo p t sa) (fun _ => reads [sa.toNat] (sysAttr 0x33 3 p true)) always never
      (fun _ i u =>
        if !u.holds i (bank i) then u.faultAct i Cause.COUNTER_BUSY
        else
          let c := ((u.bankOf i (bank i)).ctrs.getD {} (no i)).count
          (u.modUnit i.blk i.u (fun w => { w with ctrLatch := c.extractLsb' 32 16, ctrBank := bank i })).putS i t
            (c.extractLsb' 0 32))
  ∧ Carries (.ctrrdHi p t) (fun _ => reads [] (sysAttr 0x33 4 p true)) always never
      (fun _ i u =>
        let b := u.bankOf i i.w.ctrBank
        u.putS i t (i.w.ctrLatch.setWidth 32 ||| (if b.stolen && b.holder == some i.blk then 0x80000000 else 0)))

/-- 04 R96 to R100, 09 R234: the hint words. -/
def Obligations.HintWords : Prop :=
  (∀ x : BitVec 22, HintGives (.himm x) (wordH 0x3F 0 x))
  ∧ (∀ (g : BitVec 10) (w sa : BitVec 6), HintGives (.hstall g w sa) (wordHstall 0x3F 1 g w sa))
  ∧ (∀ (o : BitVec 2) (c sa v : BitVec 1) (m : BitVec 2), HintGives (.hmod o c sa v m) (wordHmod 0x3F 2 0 o c sa v m))
  ∧ (∀ w z y x : BitVec 5, HintGives (.hcoord w z y x) (wordHcoord 0x3F 3 0 w z y x))

/-! ## Events -/

/-- 07 R165, R170, R173, R178 to R180, 12 R270, 14 R330: a value that arrives is written to the lane's registers; a load binds, a
store is performed, a line is maintained; an atomic is performed at its home, the lowest lane first; a walked page takes its
lanes on, those that issue again first; a sunk group waits for room in its unit, runs at its level, or has the level chosen afresh; its results come back. -/
def Obligations.AccessEvents : Prop :=
  ∀ (s : State) (id : Nat) (t : Site) (x : LaneAcc) (b : Block),
  (s.site? (id / 32) = some t → t.a.lane? (id % 32) = some x → s.block? t.blk = some b →
    (x.past = true →
      (∀ v, x.value = some v →
        let u := (s.raiseLtime b.core x.time).putResult t x.lane t.a.dests v x.taint
        exec (.loadResponse id) s = .next ((if t.a.op.spaces == [1] then u else u.commitSoon t.blk).laneDone t x.lane))
      ∧ (∀ w signed, x.value = none → t.a.op = .load w signed → s.respWaits t.blk b.core t.a.op x = false →
        exec (.loadResponse id) s = .next (s.bindLoad t b.core w signed x))
      ∧ (∀ w, x.value = none → t.a.op = .store w →
        exec (.loadResponse id) s = .next (s.bindStore t true
          (fun y s => s.doStore t b.core (min t.a.width (recEs t.a.record)) t.a.pol y) x))
      ∧ (∀ fn, x.value = none → t.a.op = .maint fn → s.respWaits t.blk b.core t.a.op x = false →
        exec (.loadResponse id) s = .next (s.bindStore t false (fun y s => s.doMaint t b.core fn y) x)))
    ∧ (x.past = true → x.value = none →
      (∀ h, x.homeOf = some h → s.behind t (some h.line) (t.a.mates h.line) = false →
        s.cutHome (dieOf b.core) h 3 (s.partOf t.blk) = false →
        let y := (t.a.mates h.line).headD x
        let u := if y.lane = x.lane then s else s.push (.atomicCompletion id)
        let r := (if h.hdev = u.devNum then u else u.sendTo t.blk (dieOf b.core) h.hdev 3).doAtomic t b.core t.a.op y
        exec (.atomicCompletion id) s = .next (r.2.atomicDone t t.a.op y r.1 (h.hdie != dieOf b.core || h.hdev != r.2.devNum)
          (if t.a.op == .sc && r.1 == some 1 then 0 else r.2.homeTime b.core h)))
      ∧ (x.homeOf = none → exec (.atomicCompletion id) s = .next (s.atomicDone t t.a.op x (some 0) false 0))))
  ∧ (∀ page, s.site? id = some t →
      exec (.pageWalkDone id page) s = .next ((s.reissue t).tryLanes t (fun x => x.elems.isEmpty || x.page == page) true))
  ∧ (∀ (k : Sunk) (r : Region) (h : Home) (leaf : Leaf), s.sunk.get? id = some k → k.result = none → s.sunkBefore k = false →
      s.site? k.entry = some t → t.a.lane? k.lane = some x → s.block? t.blk = some b → s.region? b.regid = some r →
      x.homeOf = some h → x.leaf = some leaf →
      let moved := (b.buf.get? h.line).isSome || (k.level == 1 && !s.sliceServes (dieOf b.core) h)
      (moved = true → exec (.umberGroupExecute id) s = .next (s.resink k t b r h))
      ∧ (moved = false → (k.level = 3 → s.cutHome (dieOf b.core) h 3 (s.partOf t.blk) = false) →
        (k.accepted = true → exec (.umberGroupExecute id) s = .next
          ((if k.level = 3 then s.sendTo t.blk (dieOf b.core) h.hdev 3 else s).runSunk id k t b r x h leaf))
        ∧ (k.accepted = false → exec (.umberGroupExecute id) s = .next
          ((if s.umberRoom k h then { s with sunk := s.sunk.put id { k with accepted := true } } else s).push
            (.umberGroupExecute id)))))
  ∧ (∀ (k : Sunk) (regs : Table Word) (h : Home), s.sunk.get? id = some k → k.result = some regs → s.site? k.entry = some t →
      t.a.lane? k.lane = some x → x.homeOf = some h →
      let u := { s with sunk := s.sunk.erase id }
      ((k.parts.isEmpty = true ∨ u.roomStall t.blk h.line = false) →
        exec (.sinkGroupResponse id) s = .next (u.sunkReturn k t x h regs))
      ∧ (k.parts.isEmpty = false → u.roomStall t.blk h.line = true →
        exec (.sinkGroupResponse id) s = .next ((u.holdBack t [x]).push (.pageWalkDone t.id x.page))))

/-- 11 R254, R255, R260, 07 R174, 12 R298: a write that its home has performed is acknowledged to its core, and is complete once
every sharer has given it up; a die gives up a remote copy, and its later ones come no earlier than the lease, or a device
does; the tick counts every core of a die; a reservation ends. -/
def Obligations.CoherenceEvents : Prop :=
  (∀ (s : State) (id : Nat) (a : Ack), s.acks.get? id = some a →
    (a.core < 384 → s.cutHome (dieOf a.core) { line := a.line, hdie := a.die, hdev := devOfLine a.line, tracked := false } 0 = false) →
    let u := if a.dies ≠ 0 ∨ a.devs ≠ 0 then { s with acks := s.acks.put id { a with acked := true } }
      else { s with acks := s.acks.erase id }
    let v := if a.core < 384 ∧ a.acked = false then u.raiseLtime a.core a.wts else u
    let x := v.ladders.foldl (fun (s : State) e => if e.2.owed.any (fun x => x.2 == id) then s.ladderSettle e.1 else s) v
    exec (.storeAcknowledge id) s = .next (x.passAllFences.answerOwed.askCompletion a.block))
  ∧ (∀ (s : State) (die line id : Nat) (a : Ack), s.acks.get? id = some a → s.fencedBy a.die die = false →
      (die < 4 → s.fencedBy die a.die = false → exec (.directoryInvalidate die line id) s = .next
        ((match (s.die die).llc.get? line with
          | some x => if x.home then s
              else s.modDie die (fun d => { d with llc := d.llc.erase line, floor := max d.floor (time48 (x.rts + 1)) })
          | none => s).sharerGone die line id))
      ∧ (4 ≤ die → s.cutOff a.die (die - 4) 0 = false →
        exec (.directoryInvalidate die line id) s = .next (s.sharerGone die line id)))
  ∧ (∀ (s : State) (die : Nat), ∃ t, exec (.ltimeTick die) s = .next t
      ∧ { t with cores := s.cores } = s
      ∧ ∀ c, t.core c = if c / Config.coresPerDie = die then { s.core c with ltime := ((s.core c).ltime + 1) % 2 ^ 48 }
          else s.core c)
  ∧ (∀ (s : State) (blk warp lane stamp : Nat),
      exec (.lrReservationExpiry blk warp lane stamp) s = .next (s.modUnit blk (.warp warp) (fun w =>
        w.modLane lane (fun l => if l.resv.map Resv.stamp = some stamp then { l with resv := none } else l))))

/-- 05 R122, 08 R198, 12 R291: lanes that still stall on an engine's tile take OWNER_TIMEOUT; a warp that waits for ever
takes ORPHAN_SET in the lanes at a JWAIT; a leading warp held for 65,536 cycles is a mismatch. -/
def Obligations.TimeoutEvents : Prop :=
  (∀ (s : State) (blk unit stamp : Nat) (b : Block) (w : Warp) (o : OwnerStall) (e : Nat × Word × List Nat)
      (still : List (Nat × Word × List Nat)),
    s.block? blk = some b → s.unit? blk (UnitRef.ofNum unit) = some w → w.owners.find? (fun o => o.since == stamp) = some o →
    s.stillOwned b w o = e :: still →
    let s' := s.modUnit blk (UnitRef.ofNum unit) (fun w => { w with owners := w.owners.filter (fun x => x.since != stamp) })
    let view := match o.view with
      | some v => viewWord v 0
      | none => 0
    (o.entry.bind s'.site? = none → exec (.ownerTimeoutExpiry blk unit stamp) s = .next
      (s'.takeFault blk (UnitRef.ofNum unit) (maskOf ((e :: still).map Prod.fst)) (fun _ =>
        { cause := Cause.OWNER_TIMEOUT, pc := o.pc, resume := o.pc, view := view, coord := e.2.1, stamp := 0 })))
    ∧ (∀ t, o.entry.bind s'.site? = some t → exec (.ownerTimeoutExpiry blk unit stamp) s = .next
      (s'.accessFault t ((e :: still).map (fun x =>
        (x.1, { cause := Cause.OWNER_TIMEOUT, view := view, coord := e.2.1 }, 0, t.a.op.acc))))))
  ∧ (∀ (s : State) (blk warp : Nat) (w : Warp), s.unit? blk (.warp warp) = some w → w.orphaned = true →
      let sets := (List.range 16).filter (fun n => w.waitingOn n != 0)
      exec (.orphanDetection blk warp) s = .next
        (s.takeFault blk (.warp warp) (sets.foldl (fun (m : Word) k => m ||| w.waitingOn k) 0) (fun l =>
          { cause := Cause.ORPHAN_SET, pc := (w.lane (lowest (w.waitingOn (sets.headD 0)))).pc, resume := (w.lane l).pc,
            view := 0, coord := BitVec.ofNat 32 (sets.headD 0), stamp := 0 })))
  ∧ (∀ (s : State) (blk warp stamp : Nat) (b : Block), s.block? blk = some b → b.loc = .live →
      ((b.ctx.pairs[warp]?).getD {}).since = some stamp → stamp + 65536 ≤ s.now →
      exec (.trailingLagTimeout blk warp stamp) s = .next (s.consume blk Cause.CHECK_MISMATCH))

/-- 14 R331, R337, R338, R347: a handler starts in a live block between issue units; an answer resumes the lanes of its
fault that are still parked, or ends its block; an invalidation drops what it covers, or posts its event where it is malformed; a page's hash decides
its state word. -/
def Obligations.FaultEvents : Prop :=
  (∀ (s : State) (blk unit : Nat) (b : Block) (w : Warp), s.block? blk = some b →
    s.unit? blk (UnitRef.ofNum unit) = some w → b.loc = .live → w.hints = [] →
    exec (.handlerEntry blk unit) s = .next (s.enterHandler blk (UnitRef.ofNum unit)))
  ∧ (∀ (s : State) (die k : Nat) (word : BitVec 64) (rest : List (BitVec 64)) (x : Waiting) (b : Block),
      let s' := s.modDie die (fun d => { d with resumeQ := rest })
      (s.die die).resumeQ = word :: rest → s'.answered die (field word 0 32) = some (k, x) → x.request = none →
      (natBit word.toNat 32 = false → s'.block? x.block = some b → b.loc ≠ .spilled → b.loc ≠ .moved →
        ∀ w, (s'.dropWaiting k).unit? x.block (UnitRef.ofNum x.unit) = some w → exec (.faultResumeAnswer die) s = .next
          ((s'.dropWaiting k).resumeLanes x.block (UnitRef.ofNum x.unit) (x.lanes &&& w.parked)))
      ∧ (natBit word.toNat 32 = true →
        exec (.faultKillAnswer die) s = .next ((s'.dropWaiting k).killBlock x.block (field word 40 8) .killed)))
  ∧ (∀ (s : State) (die : Nat) (c : BitVec 128), openInval (s.die die).invalQ = some c → invalBad c = true →
      exec (.invalidationCommand die) s = .next ({ s with eventQ := s.eventQ ++ [s.invalEvent die c] }.modDie die (fun d =>
        { d with invalQ := closeInval d.invalQ })))
  ∧ (∀ (s : State) (die : Nat) (c : BitVec 128), openInval (s.die die).invalQ = some c → invalBad c = false →
      (s.dropLeaves die (invalCovers c)).usesLeaf die (invalCovers c) = false →
      exec (.invalidationCommand die) s = .next ((s.dropLeaves die (invalCovers c)).modDie die (fun d =>
        { d with invalQ := closeInval d.invalQ })))
  ∧ (∀ (s : State) (die region page stateVa hashVa : Nat) (r : Region) (bytes : List Byte) (ls lh : Leaf) (u v : State),
      let s' := s.modDie die (fun d => { d with hashing := d.hashing.filter (· != (region, page)) })
      s.region? region = some r → s'.stateWordAt die r page = some (stateVa, hashVa) →
      s'.codePage die r.part (r.codeBase + page * 2 ^ 16) 16 = some bytes →
      s'.translateEngine die r.part stateVa { r := true } 0 false = (.ok ls, u) →
      s'.translateEngine die r.part hashVa { r := true } 0 false = (.ok lh, v) → s'.rdNat (ls.key stateVa) 4 = 0 →
      let good := Config.sha384 bytes = BitVec.ofNat 384 (s'.rdNat (lh.key hashVa) 48)
      exec (.codePageHashDone die region page) s = .next
        (if good then s'.unitWrite die (ls.home stateVa) (stateVa % Config.lineBytes) (leBytes 4 1)
         else (s'.unitWrite die (ls.home stateVa) (stateVa % Config.lineBytes) (leBytes 4 2)).poisonObject die r))

/-- 08 R191 to R195, R204, 21 R380: the command at the head of its engine's queue begins, performs its next unit, or is
done; a page answer lets the commands that wait go on; a command whose writes are acknowledged ends; MMLD checks its
columns and makes the bank valid; a far completion is counted. -/
def Obligations.EngineEvents : Prop :=
  (∀ (s : State) (cmd : Nat) (c : Cmd) (b : Block) (r : Region), s.cmds.get? cmd = some c →
    (s.queueOf c.engine).head?.map Prod.fst = some cmd → s.block? c.dest.block = some b → s.region? c.regid = some r →
    let r' := { r with arrMask := r.arrMask &&& s.boot.arr.extractLsb' (4 * dieOf c.core) 4 }
    (c.state = .queued → c.uncaptured = none → exec (.engineUnit cmd) s = .next (s.beginCmd cmd c r'))
    ∧ (∀ q, c.state = .queued → c.uncaptured = some q → (s.pageReqs.get? q).isSome = true →
      exec (.engineUnit cmd) s = .next (s.modCmd cmd (fun c => { c with state := .waitPage q })))
    ∧ (∀ q c' u, c.state = .queued → c.uncaptured = some q → (s.pageReqs.get? q).isSome = false → s.resolveViews c r' = (c', u) →
      let v := { u with cmds := u.cmds.put cmd c' }
      exec (.engineUnit cmd) s = .next (if c'.uncaptured.isSome then v.push (.engineUnit cmd) else v.beginCmd cmd c' r'))
    ∧ (c.state = .running → c.op = .rede → c.flagged = false → c.total ≤ c.prog → (s.setC cmd).isEmpty = true →
      exec (.engineUnit cmd) s = .next (s.redeFlag cmd c b r'))
    ∧ (c.state = .running → c.op ≠ .mmld → c.prog < c.total → (c.far.isEmpty = true ∨ c.prog < c.awaits + c.window) →
      exec (.engineUnit cmd) s = .next (s.nextUnit cmd c b r'))
    ∧ (c.state = .running → c.op ≠ .mmld → c.op ≠ .rede → c.total ≤ c.prog →
      exec (.engineUnit cmd) s = .next (s.finishCmd cmd (if c.clipped then 2 else 0) { detail := 0 })))
  ∧ (∀ (s : State) (cmd : Nat) (c : Cmd), s.cmds.get? cmd = some c → c.op = .mmld → c.state = .running →
      let slot := latchSlot (s.die (dieOf c.core)).colStore (c.par 0 2) (c.par 8 7)
      let flawed := fun (j : Nat) => (s.die (dieOf c.core)).colFlawed (slotAt (c.par 0 2) j (c.par 8 7)) 1536
      (∀ j, (List.range 512).find? (fun j => flawed j || !columnGood (c.par 16 3) slot j) = some j →
        exec (.mmldBankValid cmd) s = .next ((s.modCmd cmd (fun c => { c with prog := j })).finishCmd cmd 1
          { detail := if flawed j then Detail.UNCORRECTABLE else Detail.WFORMAT }))
      ∧ ((List.range 512).find? (fun j => flawed j || !columnGood (c.par 16 3) slot j) = none →
        exec (.mmldBankValid cmd) s = .next
          (((s.modArray (dieOf c.core) (c.par 0 2) (fun u => { u with
              banks := u.banks.put (c.par 2 1) { valid := true, fmt := c.par 16 3, slot := slot } })).modCmd cmd
            (fun c => { c with prog := 512 })).finishCmd cmd 0 { detail := 0 })))
  ∧ (∀ (s : State) (cmd : Nat) (c : Cmd), s.cmds.get? cmd = some c → c.state = .ending →
      (s.acksOf cmd).isEmpty = true → c.far.isEmpty = true →
      exec (.engineCommandEnd cmd) s = .next (s.endCmd cmd))
  ∧ (∀ (s : State) (req : Nat) (granted : Bool) (q : PageReq), s.pageReqs.get? req = some q →
      let s' := { s with
        pageReqs := s.pageReqs.erase req
        waiting := s.waiting.filter (fun (e : Nat × Waiting) => e.2.request != some req) }
      exec (.enginePageAnswer req granted) s = .next
        (s.cmds.foldl (fun (s : State) e =>
          if e.2.uncaptured = some req then
            (s.modCmd e.1 (fun c => if granted then { c with state := .queued }
              else { c with state := .queued, uncaptured := none, status := 1 })).push (.engineUnit e.1)
          else if e.2.state ≠ .waitPage req then s
          else if granted then
            (s.modCmd e.1 (fun c => { c with state := .running, detail := 0, opnd := 0, srcn := 0 })).push (.engineUnit e.1)
          else s.finishCmd e.1 1 { detail := e.2.detail, opnd := e.2.opnd, srcn := e.2.srcn }) s'))
  ∧ (∀ (s : State) (cmd unit dev n : Nat) (c : Cmd), s.cmds.get? cmd = some c → c.far.get? (unit * 64 + dev) = some n →
      s.cutOff (dieOf c.core) dev 0 = false →
      exec (.fabricCompletionReceive cmd unit dev) s = .next ((s.modCmd cmd (fun c' => { c' with
        far := if n ≤ 1 then c.far.erase (unit * 64 + dev) else c.far.put (unit * 64 + dev) (n - 1) })).push
          (.engineUnit cmd)))

/-- 02 R56, 09 R215, 12 R286, 13 R315: the record at the head of a core's ring binds a block, a rung warp or a resumed
block, and stays there until the block has started; or it switches the banks; a filled window starts its threads, in the standby bank
where the ring's next record is a switch. -/
def Obligations.BindEvents : Prop :=
  ∀ (s : State) (die core : Nat) (r : Bind),
  let c := die * Config.coresPerDie + core
  (∀ g, s.head c 0 = .go r → s.region? (bRegid r) = some g → (g.state = 1 ∨ g.state = 2) → g.aborting = false →
    exec (.bindBlock die core) s = .next (s.bindFresh c r (dispatchCtx g (bX r) (bY r) (bZ r)) none))
  ∧ (∀ g lid items l, s.head c 1 = .go r → s.rungItems c r = some (lid, items) → s.region? (bRegid r) = some g →
      s.ladders.get? lid = some l →
      exec (.bindRungWarp die core) s = .next
        ((s.modLadder lid (fun l => { l with launched := l.launched.filter (fun x =>
            !(x.rung == bY r && x.core == c && x.wslot0 == bWslot0 r)) })).bindFresh c r
          (rungCtx g l.desc (bY r) items) (some (lid, bY r))))
  ∧ (∀ g blk b, s.head c 2 = .go r → s.unboundFor c r = some (blk, b) → s.region? (bRegid r) = some g →
      exec (.bindResumeSnapshot die core) s = .next (s.bindAgain c r blk g.check))
  ∧ (s.head c 3 = .go r →
      let t := s.popRing c
      let back := (t.onCore c).filter (fun e => e.2.loc == .standby || e.2.loc == .spilling)
      let out := (t.onCore c).filter (fun e => e.2.loc == .live)
      let t := t.dropRecords c (fun _ => true)
      let t := out.foldl (fun (t : State) e => t.modBlock e.1 (fun b => { b with loc := .standby, ctx := b.ctx.switched })) t
      let t := back.foldl (fun (t : State) e => t.modBlock e.1 (fun b => { b with loc := .live, ctx := b.ctx.switched })) t
      let t := back.foldl (fun (t : State) e => t.arrive e.1) t
      let t := if out.isEmpty then t else t.push (.ashSpillDone die core)
      exec (.bankSwitch die core) s = .next
        (((t.ringPump c).pumpCluster (dieOf c) (clusterOf c % Config.clustersPerDie)).villek))
  ∧ (∀ blk b, s.block? blk = some b → b.loc = .filling →
      let s' := ((s.bindOver b).modBlock blk (fun b' =>
        { b' with loc := if toStandby (s.ring b.core) then .standby else .live })).at (s.now + 1024) (.residenceEnergyCharge blk)
      exec (.dispatchStart blk) s = .next
        ((((b.units.foldl (fun (s : State) u => s.resumeForwarded blk u) ((s'.setMode blk).retryHeld blk)).passFences
          blk).askCompletion blk).ringPump b.core))

/-- 05 R114, 13 R302, R309, R310, R321, 15 R366: a root RCB is launched; a placed block gets its bind record; a waiting
region ages; regions past a limit are aborted; a block that is over takes its last commit point and ends; time is charged, and
residence while the block is on its core. -/
def Obligations.VillekEvents : Prop :=
  (∀ (s : State) (die part pa : Nat) (rest : List (Nat × Nat)), s.boot.runs 7 = true → (s.die die).rootQ = (part, pa) :: rest →
    exec (.rootLaunch die) s = .next (((s.modDie die (fun d => { d with rootQ := rest })).rootLaunch die part pa).villek))
  ∧ (∀ (s : State) (die region core tile0 wslot0 snap : Nat) (r : Region), s.region? region = some r → r.die = die →
      s.wants region r = true → (s.coresFor r).contains core = true →
      (s.fit core r.cls r.ntile r.nwarp r.check).isSome = true → r.relaunch = [] →
      ((List.range r.ntile).map (tile0 + ·)).any (s.tilesTaken core).contains = false →
      (slotRun wslot0 r.nwarp r.check).any (s.slotsTaken core).contains = false →
      s.ranked.any (fun e => ranksAbove e (region, r) && e.2.part == r.part
        && (s.coresFor e.2).contains core && (s.fit core e.2.cls e.2.ntile e.2.nwarp e.2.check).isSome) = false →
      let n := r.nextBlock
      exec (.villekPlacement die region core tile0 wslot0 snap) s = .next
        (((s.modRegion region (fun r => { r with relaunch := r.relaunch.drop 1, nextBlock := n + 1 })).writeBind core
          (bindRecord region (n % r.gx) (n / r.gx % r.gy) (n / (r.gx * r.gy)) (core % Config.coresPerDie) tile0 r.ntile wslot0
            snap 0)).villek))
  ∧ (∀ (s : State) (region : Nat) (r : Region), s.region? region = some r → (r.state = 1 ∨ r.state = 2) →
      (s.now - r.tLastBind) % 940000 = 0 → (s.now - r.tLastBind) / 940000 ≠ 0 →
      exec (.priorityAgeing region) s = .next (((s.modRegion region (fun r' =>
        { r' with eprio := min 255 (r'.prio + ((s.now - r.tLastBind) / 940000 - 1)) })).at (s.now + 940000)
          (.priorityAgeing region)).villek))
  ∧ (∀ (s : State) (die : Nat),
      let live := s.regions.filter (fun e => e.2.die == die && (e.2.state == 1 || e.2.state == 2))
      let late := live.filter (fun e => s.pastLimit (s.regions.length + 1) e.2)
      live.isEmpty = false →
      let s' := s.at (s.now + limitPeriod) (.limitCheck die)
      exec (.limitCheck die) s = .next
        (if late.isEmpty then s' else ((late.foldl (fun (s : State) e => s.abort e.1) s').pumpRings (fun _ => true)).villek))
  ∧ (∀ (s : State) (blk : Nat) (b : Block), s.block? blk = some b → b.over = true →
      s.cmds.any (fun e => e.2.dest.block == blk) = false → b.loc ≠ .unbound →
      (b.fate = .running → b.exiting = false → exec (.blockCompletion blk) s = .next
        (((s.modBlock blk (fun b => { b with exiting := true })).commit blk).askCompletion blk))
      ∧ (b.fate = .running → b.exiting = true → b.commitDue = false → b.consumed = none → (s.acksOf blk).isEmpty = true →
        exec (.blockCompletion blk) s = .next (s.blockEnd blk b))
      ∧ (b.fate ≠ .running → exec (.blockCompletion blk) s = .next (s.blockEnd blk b)))
  ∧ (∀ (s : State) (region : Nat) (r : Region), s.region? region = some r → r.state = 2 →
      exec (.execTimeCharge region) s = .next ((s.flushRecord region).at (s.now + limitPeriod) (.execTimeCharge region)))
  ∧ (∀ (s : State) (blk : Nat) (b : Block), s.block? blk = some b → b.loc ≠ .unbound →
      exec (.residenceEnergyCharge blk) s = .next
        ((if b.loc = .spilled ∨ b.loc = .moved then s else s.addEnergy blk 15 1).at (s.now + 1024) (.residenceEnergyCharge blk)))

/-- 09 R215, R216: a starved rung is looked at; a rung that is to launch gives its oldest items, 32 at most, to a warp,
whose bind record goes to its core; lanes that have waited their limit for a frame take LADDER_FRAME, and the others
of their path go on. -/
def Obligations.LadderEvents : Prop :=
  (∀ (s : State) (ladder rung : Nat), exec (.ladderStarvation ladder rung) s = .next (s.ladderPump ladder rung))
  ∧ (∀ (s : State) (ladder rung core tile0 wslot0 : Nat) (l : Ladder) (r : Region), s.ladders.get? ladder = some l →
      s.region? (dRegion l.desc) = some r → l.ready (s.dieCycles l.die) rung = true → s.roomFor (dRegion l.desc) r = true →
      (s.freeReserve l r).contains (core, tile0, wslot0) = true →
      let s1 := s.modLadder ladder (fun l' => { l' with
        queues := listMod l'.queues rung (List.drop 32)
        launched := l'.launched ++ [{ rung := rung, core := core, wslot0 := wslot0, items := (l.queue rung).take 32 }]
        flight := listMod l'.flight rung (· + 1) })
      let s2 := s1.writeBind core (bindRecord (dRegion l.desc) l.cluster rung 0 (core % Config.coresPerDie) tile0 r.ntile
        wslot0 (s1.freeSnap r.part) 1)
      let s3 := s2.ladders.foldl (fun (s : State) e =>
        if e.2.die = l.die ∧ e.2.cluster = l.cluster then s.acceptMore e.1 else s) s2
      exec (.ladderWarpLaunch ladder rung core tile0 wslot0) s = .next ((s3.starveClock ladder rung).ladderPump ladder rung))
  ∧ (∀ (s : State) (blk lane stamp : Nat) (w : Warp), s.unit? blk (.warp 0) = some w → (w.lane lane).wait = .frame →
      (w.lane lane).stamp = stamp →
      let m := w.lanesWhere (fun l => l.wait == .frame && l.stamp == stamp)
      exec (.ladderFrameTimeout blk lane stamp) s = .next
        ((s.modUnit blk (.warp 0) (fun w =>
          let w := w.modLanes m (fun _ l => { l with stamp := 0 })
          w.modLanes (w.lanesWhere (fun l => l.wait == .frame && l.stamp == 0) &&& ~~~m) (fun _ l =>
            { l with wait := .none }))).takeFault blk (.warp 0) m (fun _ =>
          { cause := Cause.LADDER_FRAME, pc := (w.lane lane).pc, resume := (w.lane lane).pc, view := 0, coord := 0xFFFFFFFF,
            stamp := 0 })))

/-- 02 R58, 09 R230, 14 R341, R344, R349: a settled standby bank is spilled, its windows with it where the core is wanted; an image
goes into a standby bank, or its request says RESTORE_CAPACITY; a halted block moves out, and one that has not halted by its
deadline runs on; a cleared cluster, whose translations nothing uses, is handed over; a counter bank is stolen and handed back. -/
def Obligations.SwitchEvents : Prop :=
  (∀ (s u : State) (die core image : Nat),
    let c := die * Config.coresPerDie + core
    (s.standby c).isEmpty = false → (s.standby c).all (fun e => e.2.settled) = true → s.fresh = (image, u) →
    exec (.ashSpillDone die core) s = .next
      (if s.claimed c && !(s.onCore c).any (fun e => e.2.inLive) then
         (((s.moveAll c (s.standby c)).moveAll c ((s.onCore c).filter (fun e => e.2.loc == .spilled))).ringPump c).villek
       else (((u.writeImage c (s.standby c) false).moveLoc c [.standby, .spilling] .spilled
        (fun b => { b with image := some image })).ringPump c).villek))
  ∧ (∀ (s : State) (blk die core tile0 wslot0 step : Nat) (b : Block) (r : Region), s.block? blk = some b →
      s.region? b.regid = some r → b.loc = .moved →
      let c := die * Config.coresPerDie + core
      (step ≠ Config.stepping →
        exec (.restoreRequest blk die core tile0 wslot0 step) s = .next
          { s with restores := s.restores ++ [(blk, Cause.RESTORE_CAPACITY)] })
      ∧ (step = Config.stepping → b.usedSets ≤ min 16 r.setLim → s.restoreFits blk b r c tile0 wslot0 = true →
        s.standbyTaken b c = false →
        let s' := (s.modBlock blk (fun b =>
          { b with loc := .standby, core := c, tile0 := tile0, wslot0 := wslot0, stopping := false })).fillWindow c tile0
            b.ntile b.imgWindow b.imgOwners
        let s'' := (if b.core = c then s' else (s'.leaveRecords b.core b.regid).enterCore blk b.core c).setMode blk
        exec (.restoreRequest blk die core tile0 wslot0 step) s = .next
          ({ s''.resumeAnswered blk with restores := s''.restores ++ [(blk, 0)] }.villek)))
  ∧ (∀ (s : State) (blk : Nat) (b : Block) (r : Region), s.block? blk = some b → s.region? b.regid = some r →
      b.fate = .running → b.loc = .live → (b.ctx.front :: b.ctx.warps).any (fun w => w.parked != 0) = false →
      ((b.ctx.front :: b.ctx.warps).all (fun w => w.halted r.codeBase) = true →
        s.cmds.any (fun e => e.2.dest.block == blk) = false →
        exec (.migrationStop blk) s = .next
          ((((s.moveAll b.core [(blk, b)]).ringPump b.core).pumpCluster (dieOf b.core)
            (clusterOf b.core % Config.clustersPerDie)).villek))
      ∧ (∀ d, (b.ctx.front :: b.ctx.warps).all (fun w => w.halted r.codeBase) = false → r.deadline = some d → d ≤ s.ns →
        exec (.migrationStop blk) s = .next (s.modBlock blk (fun b => { b with stopping := false }))))
  ∧ (∀ (s : State) (die cluster part : Nat),
      let cores := clusterCores die cluster
      let s' := cores.foldl (fun (s : State) c =>
        (s.moveLoc c [.live] .standby (fun b => { b with ctx := b.ctx.switched })).dropRecords c (fun _ => true)) s
      let gone := fun (l : Leaf) => ((cores.map (fun c => (s'.core c).part)).filter (· != part)).contains l.part
      let u := (cores.foldl (fun (s : State) c => (s.onCore c).foldl (fun (s : State) e => s.release e.1) s) s').dropLeaves die gone
      cores.all s'.coreClear = true → u.usesLeaf die gone = false →
      exec (.worldSwitch die cluster part) s = .next ((cores.foldl (fun (s : State) c => s.handOver part c) u).villek))
  ∧ (∀ (s : State) (core bank : Nat) (x : Bool),
      let t := s.modCore core (fun k =>
        { k with banks := k.banks.putD {} (bank % 4) { k.banks.getD {} (bank % 4) with stolen := x } })
      (x = true → exec (.counterSteal core bank) s = .next t) ∧ (x = false → exec (.counterReturn core bank) s = .next t))

/-- 00 R6, 02 R59, 12 R275, 13 R316, 15 R357, R359 to R361, R364, R366: calendars, patrol scrub, resets, boot,
measurement, telemetry, clock, stops and weights. -/
def Obligations.UpkeepEvents : Prop :=
  ∀ s : State,
  (∀ u cal, exec (.calendarWrite u cal) s = .next
    ((s.setCal u { s.calOf u with staged := some ((cal.take 256).map (· &&& 0x1F1F)) }).arm (s.nextZero u) (.calendarAdopt u)))
  ∧ (∀ u l, (s.calOf u).staged = some l → exec (.calendarAdopt u) s = .next (s.setCal u { live := l, staged := none }))
  ∧ (∀ die line, exec (.patrolScrub die line .clean) s = .next (s.setDram die line none)
      ∧ (∀ pin, exec (.patrolScrub die line (.corrected pin)) s = .next ((s.setDram die line none).correct die line pin true))
      ∧ (s.poison.contains line = false →
        let u := s.setDram die line (some none)
        exec (.patrolScrub die line .beyond) s = .next
          ((if u.llcHolds die line then u else { u with poison := u.poison ++ [line] }).post 0x02 6 die 0xFFFFFFFF
            (line * Config.lineBytes % Config.addrSpace))))
  ∧ (∀ die, die < 4 → exec (.dieReset die) s = .next (s.resetDie die))
  ∧ (∃ t, exec .deviceReset s = .next t ∧ t.mem = s.mem ∧ t.poison = s.poison ∧ t.meas = s.meas
      ∧ t.boot.stage = s.boot.stage ∧ t.boot.err = s.boot.err
      ∧ t.faultQ = s.faultQ ∧ t.blocks = [] ∧ t.regions = [] ∧ t.cmds = [] ∧ t.ladders = [] ∧ t.links = []
      ∧ t.agenda = [] ∧ t.cur = none ∧ t.parts = [])
  ∧ (∀ fails version, s.powered = false →
      exec (.powerOn fails version) s = .next ({ s with powered := true }.bootFrom 1 version fails))
  ∧ (∀ fails version, s.powered = true → s.boot.err ≠ 0 → 3 ≤ s.boot.stage → s.boot.stage ≤ 5 →
      exec (.bootRetry ⟨fails, version⟩) s = .next (s.bootFrom 3 version fails))
  ∧ (∀ nonce, exec (.attestationQuote nonce) s = .next
      (let regs := (List.range 8).map (s.meas.getD 0)
       { s with quote := some (nonce, regs, Config.quoteSignature nonce regs) }))
  ∧ (∀ reg digest, 4 ≤ reg → reg ≤ 7 → exec (.measurementExtend reg digest) s = .next (s.extend reg digest))
  ∧ (∀ die record, exec (.telemetryReport die record) s = .next (s.modDie die (fun d =>
      { d with telemetry := setField (setField record 192 8 d.fstep) 200 56 0 })))
  ∧ (∀ die, exec (.clockGovern die) s = .next
      ((s.modDie die (fun d => d.govern s.now)).arm (s.now + 9400) (.clockGovern die)))
  ∧ (∀ pat, exec (.stopRequest pat) s = .next { s with stops := s.stops ++ [{ pat := pat }] })
  ∧ exec .stopResume s = .next { s with stops := [] }
  ∧ (∀ die cls weight, exec (.energyWeightWrite die cls weight) s = .next (s.modDie die (fun d =>
      { d with weights := listMod d.weights cls (fun _ => weight.toNat) })))
  ∧ (∀ w, exec (.registerWrite w) s = .next (s.writeRegister w))
  ∧ (∀ v, exec (.registerWrite (.reserved v)) s = .next s)

/-- 12 R297 to R300, 15 R351 to R354: heartbeats and a lost peer; packets, their CRC failures (which port counts one is
the model's choice, log entry 104) and acknowledgements, ports and retraining, after which flits are dealt from the new member 0 on. -/
def Obligations.LinkEvents : Prop :=
  ∀ s : State,
  (let s' := s.links.foldl (fun (s : State) e =>
      if e.2.up && decide (e.2.flits < replayFlits) then s.sendPacket e.1 1 else s) s
   exec .heartbeatSend s = .next (s'.arm (s'.now + 94000) .heartbeatSend))
  ∧ (∀ die peer path, die < 4 → die ≠ peer → s.isPeer peer = true → s.fencedBy die peer = false →
      let k := missKey die peer path
      let n := s.missed.getD 0 k + 1
      exec (.heartbeatMiss ⟨die, peer⟩ path) s = .next
        (if n < 3 then { s with missed := s.missed.put k n } else { s with missed := s.missed.put k n }.fencePeer die peer))
  ∧ (∀ die peer path, s.fencedBy die peer = false →
      exec (.heartbeatReceive ⟨die, peer⟩ path) s = .next { s with missed := s.missed.erase (missKey die peer path) })
  ∧ (∀ die peer, peer < 4 → s.fencedBy die peer = true → ∃ t, exec (.fenceDirectoryScrub ⟨die, peer⟩) s = .next t ∧ t.mem = s.mem
      ∧ t.acks = s.acks.mapVals (fun a =>
          if a.die = die then { a with dies := a.dies &&& ~~~(BitVec.ofNat 4 (2 ^ peer)) } else a))
  ∧ (∀ die peer, 4 ≤ peer → s.fencedBy die peer = true → ∃ t, exec (.fenceDirectoryScrub ⟨die, peer⟩) s = .next t ∧ t.mem = s.mem
      ∧ t.acks = s.acks.mapVals (fun a =>
          if a.die = die then { a with devs := a.devs &&& ~~~(BitVec.ofNat 64 (2 ^ (peer - 4))) } else a))
  ∧ (∀ die peer, peer < 4 → (s.fenced.any (fun f => f.die == die && f.peer == peer && f.reset)) = true →
      exec (.peerReadmission ⟨die, peer⟩) s = .next
        { s with
          fenced := s.fenced.filter (fun f => !(f.die == die && f.peer == peer))
          missed := (s.missed.erase (missKey die peer 0)).erase (missKey die peer 1) })
  ∧ (∀ link seq body l, s.links.get? link = some l → l.down = false → s.cutPeer l.peer = false →
      body.bad = false →
      exec (.fabricPacketReceive link seq true body) s = .next (if seq ≠ l.nextRecv then
          s.modLink link (fun l => { l with heard := l.heard + body.flits })
        else match s.shareWaits body with
          | some (die, line) => (s.dirEvict die line).push (.fabricPacketReceive link seq true body)
          | none => (s.modLink link (fun l => { l with
              nextRecv := (l.nextRecv + 1) % 2 ^ 16, ackSent := some l.nextRecv, heard := l.heard + body.flits })).deliverPacket
                link l.peer body)
      ∧ (let u := s.modLink link (fun l => { l with heard := l.heard + body.flits })
         exec (.fabricPacketReceive link seq false body) s = .next (match
            ({ l with heard := l.heard + body.flits } : Link).member (l.heard + body.flits) with
          | some p =>
            let times := (u.port p).crc.filter (fun t => decide (u.now < t + 940000)) ++ [u.now]
            let v := u.modPort p (fun x => { x with crc := times })
            if 16 < times.length then v.failPort p else v
          | none => u)))
  ∧ (∀ link seq l, s.links.get? link = some l → l.up = true → s.cutPeer l.peer = false →
      l.replay.any (fun e => e.1 == seq) = true →
      exec (.fabricAckReceive link seq) s = .next (s.modLink link (fun l =>
        { l with replay := (l.replay.dropWhile (fun e => e.1 != seq)).drop 1 })).answerOwed)
  ∧ (∀ port, port < 72 → (s.port port).fail = false →
      let s' := (s.modPort port (fun p => { p.blank with fail := true, up := false, crc := [] })).interrupt port
      exec (.portFail port) s = .next (if (s.port port).link = 0x7F then s' else s'.retrain (s.port port).link))
  ∧ (∀ link l, s.links.get? link = some l → l.retraining = true →
      let healthy := l.members.filter (fun p => !(s.port p).fail)
      let kept := healthy.take (powerBelow healthy.length)
      let s1 := (l.members.filter (fun p => !kept.contains p)).foldl (fun (s : State) p => s.modPort p Port.leave) s
      let s2 := (mapFrom 0 (fun k p => (k, p)) kept).foldl (fun (s : State) e => s.joinPort link e.1 e.2) s1
      let s3 := s2.modLink link (fun l =>
        { l with members := kept, retraining := false, down := kept.isEmpty || s2.cutPeer l.peer, dealt := l.flits, heard := 0 })
      exec (.linkRetrainDone link) s = .next (match l.replay.getLast? with
        | some e => s3.push (.fabricAckReceive link e.1)
        | none => s3).answerOwed)
  ∧ (∀ link broken l, s.links.get? link = some l →
      let tried := l.formed.filter (fun p => (s.port p).link == link || (s.port p).link == 0x7F)
      let s' := tried.foldl (fun (s : State) p =>
        let s := s.modPort p (fun r => { r.blank with fail := broken.contains p, link := link, up := false })
        if broken.contains p then s.interrupt p else s) s
      exec (.linkRetrainRequest link broken) s = .next
        ((s'.modLink link (fun l => { l with members := tried, down := false })).retrain link))
  ∧ (∀ readings, exec (.portStatusRefresh readings) s = .next (readings.foldl State.refreshPort s))
  ∧ (∀ port mask, port < 72 → exec (.portWarnClear port mask) s = .next
      (s.modPort port (fun p => { p with warn := p.warn &&& ~~~mask })))

/-- 11 R252, R253, 15 R355, R356: accesses of system cores, of PCIe agents and of queue pairs are performed at the home
points, a message's writes line by line, its completion after them; a release waits for the writes before it, and what a core asks
for after it waits behind it; an operation that its key does not cover is a remote access error of its queue pair. -/
def Obligations.OutsideEvents : Prop :=
  ∀ s : State,
  (∀ core, s.boot.runs 8 = true → s.coreStopped core = false → s.sysQueue.getD [] core = [] →
    (∀ o aq rl, badRange o.range.1 o.range.2 = false → (rl = true → s.outsideOpen = false) →
      let u := if o.reads then s.outsideReads (memKey s.devNum o.range.1) o.range.2 else s
      exec (.systemCoreMemoryAccess core (.access o aq rl)) s = .next
        ((u.homeOp State.homeOfLine o).2.setSysRead core (u.homeOp State.homeOfLine o).1))
    ∧ (∀ pa n aq, badRange pa n = false →
      exec (.systemCoreMemoryAccess core (.lr pa n aq)) s = .next (s.sysLr core pa n))
    ∧ (∀ pa n x rl, badRange pa n = false → (rl = true → s.outsideOpen = false) →
      exec (.systemCoreMemoryAccess core (.sc pa n x rl)) s = .next (s.sysSc core pa n x))
    ∧ (∀ a b c d, (b && d && s.outsideOpen) = false →
      exec (.systemCoreMemoryAccess core (.fence a b c d)) s = .next s)
    ∧ (∀ op : CoreOp, badRange op.range.1 op.range.2 = false → op.releases = true → s.outsideOpen = true →
      exec (.systemCoreMemoryAccess core op) s = .next
        ({ s with sysQueue := s.sysQueue.put core [op] }.push (.systemCoreMemoryAccess core .again))))
  ∧ (∀ core op head rest, s.boot.runs 8 = true → s.coreStopped core = false → s.sysQueue.getD [] core = head :: rest →
      (op ≠ .again → exec (.systemCoreMemoryAccess core op) s = .next
        { s with sysQueue := s.sysQueue.put core (head :: rest ++ [op]) })
      ∧ ((head.releases && s.outsideOpen) = true → exec (.systemCoreMemoryAccess core .again) s = .next
        (s.push (.systemCoreMemoryAccess core .again)))
      ∧ ((head.releases && s.outsideOpen) = false → badRange head.range.1 head.range.2 = false →
        let u := { s with sysQueue := s.sysQueue.putD [] core rest }.sysDo core head
        exec (.systemCoreMemoryAccess core .again) s = .next
          (if rest.isEmpty then u else u.push (.systemCoreMemoryAccess core .again))))
  ∧ (∀ pa n, badRange pa n = false →
      let k := memKey s.devNum pa
      let x := (s.outsideReads k n).readAt State.homeOfLine k n
      exec (.pcieDmaAccess (.read pa n)) s = .next { x.2 with pcieRead := x.1.getD [] })
  ∧ (∀ pa data, badRange pa data.length = false →
      ((linePieces pa data).length ≤ 1 → exec (.pcieDmaAccess (.write pa data)) s = .next
        (s.writeAt State.homeOfLine (memKey s.devNum pa) data))
      ∧ (2 ≤ (linePieces pa data).length → exec (.pcieDmaAccess (.write pa data)) s = .next
        ((linePieces pa data).foldl (fun (s : State) e => s.push (.pcieDmaAccess (.write e.1 e.2))) s)))
  ∧ (∀ (dst : RdmaTarget) (data : List Byte) (imm : BitVec 32) (q : QueuePair), s.qps.get? dst.qp = some q → q.error = false →
      dst.ipv4 = false → s.outsideOpen = false → s.rdmaOpen dst.qp = false →
      exec (.rdmaSend dst data) s = .next (s.modQp dst.qp (fun q => { q with received := q.received ++ [(data, none)] }))
      ∧ exec (.rdmaSendImmediate dst data imm) s = .next
          (s.modQp dst.qp (fun q => { q with received := q.received ++ [(data, some imm)] }))
      ∧ exec (.rdmaWrite dst []) s = .next (s.modQp dst.qp (fun q => { q with completed := q.completed + 1 })))
  ∧ (∀ (dst : RdmaTarget) (data : List Byte) (imm : BitVec 32) (q : QueuePair) (l : List (Leaf × Nat × List Byte)) (u : State),
      s.qps.get? dst.qp = some q → q.error = false → dst.ipv4 = false → q.covers dst data.length = true →
      s.rdmaLines q.part { r := false, w := true } (linePieces dst.va data) = (some l, u) →
      let v := if l.length ≤ 1 then u.rdmaStore l
        else l.foldl (fun (s : State) e => s.push (.rdmaWrite { dst with va := e.2.1, piece := true } e.2.2)) u
      (data ≠ [] → exec (.rdmaWrite dst data) s = .next (if dst.piece then v else v.push (.rdmaWrite dst [])))
      ∧ exec (.rdmaWriteImmediate dst data imm) s = .next (v.push (.rdmaSendImmediate dst [] imm)))
  ∧ (∀ (dst : RdmaTarget) (n : Nat) (q : QueuePair) (l : List (Leaf × Nat × List Byte)) (u v : State) (x : List Byte),
      s.qps.get? dst.qp = some q → q.error = false → dst.ipv4 = false → q.covers dst n = true →
      s.rdmaLines q.part { r := true, w := false } (linePieces dst.va (List.replicate n 0)) = (some l, u) →
      u.rdmaFetch l = (some x, v) →
      exec (.rdmaRead dst n) s = .next (v.modQp dst.qp (fun q => { q with reply := x })))
  ∧ (∀ (dst : RdmaTarget) (q : QueuePair) (l : List (Leaf × Nat × List Byte)) (u v : State) (x : List Byte),
      s.qps.get? dst.qp = some q → q.error = false → dst.ipv4 = false → q.covers dst 8 = true → dst.va % 8 = 0 →
      s.rdmaLines q.part { r := true, w := true } (linePieces dst.va (List.replicate 8 0)) = (some l, u) →
      u.rdmaFetch l = (some x, v) →
      let store := fun (y : Nat) => v.rdmaStore (l.map (fun (e : Leaf × Nat × List Byte) => (e.1, e.2.1, leBytes 8 y)))
      (∀ old new : BitVec 64, exec (.rdmaCompareSwap dst old new) s = .next
        ((if leNat x = old.toNat then store new.toNat else v).modQp dst.qp (fun q => { q with reply := x })))
      ∧ (∀ y : BitVec 64, exec (.rdmaFetchAdd dst y) s = .next
        ((store ((leNat x + y.toNat) % 2 ^ 64)).modQp dst.qp (fun q => { q with reply := x }))))
  ∧ (∀ (dst : RdmaTarget) (q : QueuePair) (data : List Byte), s.qps.get? dst.qp = some q → q.error = false → dst.ipv4 = false →
      data ≠ [] → q.covers dst data.length = false →
      exec (.rdmaWrite dst data) s = .next (s.modQp dst.qp (fun q => { q with error := true })))
  ∧ (∀ qp, exec (.ecnMark qp) s = .next (s.modQp qp (fun q =>
      { q with rate := if q.rate = 0 then 0 else Config.ecnCut q.rate % q.rate })))

namespace Sys2Proof.Claims

/-! ## Words, whatever instruction they hold -/

/-- Reserved majors (04 R101). -/
def reservedMajors : List Nat := [0x0F, 0x17, 0x1F, 0x34, 0x35, 0x36, 0x37, 0x38, 0x39, 0x3A, 0x3B, 0x3C, 0x3D, 0x3E]

/-- Majors with FN values, or hint KINDs, that 04 R101 leaves without an instruction: the major, the lowest bit and the
width of the field, those values. -/
def reservedFns : List (Nat × Nat × Nat × List Nat) :=
  [(0x07, 7, 3, [7]), (0x0B, 0, 3, [7]), (0x0C, 0, 3, [7]), (0x11, 0, 3, [7]), (0x14, 4, 3, [7]), (0x1B, 4, 3, [6, 7]),
   (0x1E, 4, 3, [4, 5, 6, 7]), (0x21, 0, 3, [5, 6, 7]), (0x25, 0, 3, [5, 6, 7]), (0x28, 4, 3, [4, 5, 6, 7]),
   (0x29, 0, 3, [7]), (0x2A, 4, 3, [2, 3, 4, 5, 6, 7]), (0x2B, 4, 3, [3, 4, 5, 6, 7]), (0x2C, 4, 3, [4, 5, 6, 7]),
   (0x2D, 4, 3, [3, 4, 5, 6, 7]), (0x2E, 4, 3, [4, 6, 7]), (0x2F, 0, 3, [5, 6, 7]), (0x30, 4, 3, [5, 6, 7]),
   (0x31, 4, 3, [7]), (0x32, 4, 3, [7]), (0x33, 4, 3, [6, 7]),
   (0x3F, 22, 4, [4, 5, 6, 7, 8, 9, 10, 11, 12, 13, 14, 15])]

/-- The predicate that decides for which lanes of a path a word is active; none where it is active for the whole path
(04 R83 to R87). -/
def predOf (w : Word) : Option (BitVec 4) := (badAttr w).p

/-- The lanes that stand parked for faults of their unit that no handler has taken up are those of one fault alone: `f`, of one
instruction, with one cause (14 R337). -/
def oneFault (w : Warp) (f : Word) (age cause : Nat) : Prop :=
  f ≠ 0 ∧ (∀ l, inMask f l = true → l < w.lanes.length)
    ∧ ∀ l, l < w.lanes.length →
      (inMask f l = true ↔ (w.lane l).status = .parked ∧ ∃ p, (w.lane l).park = some p ∧ p.delivered = false
        ∧ forwardOnly p.cause = false)
      ∧ (inMask f l = true → (w.lane l).park.map (fun p => (p.age, p.cause)) = some (age, cause))

end Sys2Proof.Claims

/-- 04 R82 to R91, R101: every word of an instruction decodes to it, with every operand. -/
def Obligations.EncodedDecodes : Prop := ∀ (i : Instr) (w : Word), encode i = some w → decode w = .ok i

/-- 04 R82 to R91, R101: a word that decodes is the word of its instruction, so that no two words are one. -/
def Obligations.DecodedEncodes : Prop := ∀ (i : Instr) (w : Word), decode w = .ok i → encode i = some w

/-- 04 R101, R102: reserved majors, FN values and hint KINDs hold no instruction; nor does a conversion, a condition or
a scope outside its range stand in a well-formed one. -/
def Obligations.ReservedWords : Prop :=
  (∀ w : Word, (fld w 26 6).toNat ∈ reservedMajors → decode w = .error (.reservedMajor (fld w 26 6).toNat))
  ∧ (∀ r ∈ reservedFns, ∀ w : Word, (fld w 26 6).toNat = r.1 → (fld w r.2.1 r.2.2.1).toNat ∈ r.2.2.2 →
      decode w = .error (.reservedFunction r.1 (fld w r.2.1 r.2.2.1).toNat))
  ∧ (∀ (p : BitVec 4) (d a c : BitVec 6) (n : BitVec 1) (r : BitVec 3), cvtCode c = false ∨ 6 ≤ r.toNat →
      (Instr.cvt p d a c n r).wellFormed = false)
  ∧ (∀ (c : BitVec 4) (a b : BitVec 5) (o : BitVec 12), 7 ≤ c.toNat → (Instr.sbr c a b o).wellFormed = false)
  ∧ (∀ p e : BitVec 4, 6 ≤ e.toNat → (Instr.fenceAcq p e).wellFormed = false ∧ (Instr.fenceRel p e).wellFormed = false
      ∧ (Instr.fenceAr p e).wellFormed = false ∧ (Instr.fenceSc p e).wellFormed = false)

/-- 04 R82, R101: words written out from the spec's own examples decode to their instructions. -/
def Obligations.ExampleWords : Prop :=
  decode 0x01C7_0833 = .ok (.imad 7 7 2 3 0) ∧ decode 0x21C9_1053 = .ok (.ffma 7 9 4 5 0)
  ∧ decode 0x81C4_0008 = .ok (.ldB8I 7 4 0 1) ∧ decode 0x89D4_201B = .ok (.ldsB64Col 7 20 8 3)
  ∧ decode 0x95C6_2021 = .ok (.atomCas 7 6 8 4) ∧ decode 0x69F8_E383 = .ok (.exit 7 56)
  ∧ decode 0x71C4_0004 = .ok (.loop 0 4 4) ∧ decode 0xA1C0_0035 = .ok (.fenceSc 7 5)
  ∧ decode 0xB1D2_4281 = .ok (.cpy 7 9 4 5 1) ∧ decode 0xC1C4_0013 = .ok (.lesc 7 2 3)
  ∧ decode 0xCDD4_9030 = .ok (.ctrrdLo 7 10 9) ∧ decode 0xFC80_0015 = .ok (.hmod 0 1 0 1 1)

/-- 04 R88, R102: a word that holds no instruction raises ILLEGAL for its active lanes, before any effect. -/
def Obligations.IllegalWords : Prop :=
  ∀ (s : State) (w : Word) (e : DecodeError) (i : Iss) (ws : List Word), decode w = .error e → isHintWord w = false →
    Judged s (badAttr w) i ws → s.runWord w = Illegal s (badAttr w) i ws

/-- 04 R88, 05 R133: a word with no active lane is a no-operation, whatever its content: its lanes go on, and nothing
else changes. A GBEGIN, its fields well formed or not, goes past its group, and is not meant here; nor is a hint word, which
stands before a word. -/
def Obligations.InactiveWords : Prop :=
  ∀ (s : State) (w : Word) (i : Iss) (ws : List Word), isHintWord w = false → ¬(fld w 26 6 = 0x2A ∧ fld w 4 3 = 0) →
    s.issuer (predOf w) = some i → i.act = 0 → i.r.check = false → i.trailing = false → i.reissues = false → s.ahead i = (.words ws, s) →
    ∃ t, s.runWord w = .next t ∧ Past s t i i.w

/-- 04 R95, R96, 14 R333, R334, R337: a fault parks its lanes with what the fault has recorded, takes their reservations and
latches, and asks for the handler; in the middle of a chain or an issue unit the path's lanes go back to its start, where it is
not at its last word; registers, the other lanes and memory are as before. -/
def Obligations.ParkedLanes : Prop :=
  ∀ (s : State) (blk : Nat) (u : UnitRef) (m : Word) (p : Nat → Park) (b : Block) (w : Warp),
    s.block? blk = some b → s.unit? blk u = some w → m ≠ 0 → u.isTrail = false → w.handler = none →
    forwardOnly (p (lowest m)).cause = false → (p (lowest m)).cause ≠ Cause.WATCH →
    (s.region? b.regid).map Region.trapv ≠ none → (s.region? b.regid).map Region.trapv ≠ some 0xFFFFFFFF →
    let t := s.takeFault blk u m p
    let goesBack := fun l => ∃ n pc, w.backTo m = some (n, pc) ∧ inMask n l = true ∧ w.atLast = false ∧ (w.lane l).status = .running
    Instr.handlerEntry blk u.num ∈ t.agenda ∧ t.mem = s.mem ∧ t.regions = s.regions
    ∧ (∀ k v, (k, v) ≠ (blk, u) → t.unit? k v = s.unit? k v)
    ∧ ∃ v, t.unit? blk u = some v ∧ v.s = w.s ∧ v.preds = w.preds ∧ v.setM = w.setM ∧ v.lanes.length = w.lanes.length
      ∧ ∀ l, l < w.lanes.length →
        (inMask m l = false → ¬ goesBack l → v.lane l = w.lane l)
        ∧ (inMask m l = false → goesBack l →
            v.lane l = { w.lane l with pc := ((w.backTo m).map Prod.snd).getD 0, latches := [] })
        ∧ (inMask m l = true → (v.lane l).status = .parked ∧ (v.lane l).resv = none ∧ (v.lane l).latches = []
            ∧ (v.lane l).v = (w.lane l).v ∧ (v.lane l).pc = (w.lane l).pc
            ∧ ∃ q, (v.lane l).park = some q ∧ q.cause = (p l).cause ∧ q.pc = (p l).pc ∧ q.view = (p l).view
              ∧ q.coord = (p l).coord ∧ q.resume = (match w.backTo m with
                | some (n, pc) => if inMask n l && !((p l).issue.isSome && (p l).entry.isNone) then pc else (p l).resume
                | none => (p l).resume))

/-- 14 R337, 02 R47: the handler takes up the one fault of its unit, in a block that is not checked: the trap registers receive
it, the lowest of its lanes leaves its parked state and runs alone from TRAPV, the handler bank reads zero, and all else is as
before. -/
def Obligations.HandlerEntries : Prop :=
  ∀ (s : State) (blk : Nat) (u : UnitRef) (b : Block) (r : Region) (w : Warp) (f : Word) (age cause : Nat) (p : Park),
    s.block? blk = some b → b.loc = .live → b.ctx.pairs = [] → s.region? b.regid = some r →
    s.unit? blk (UnitRef.ofNum u.num) = some w → UnitRef.ofNum u.num = u → w.hints = [] → w.handler = none →
    oneFault w f age cause → (w.lane (lowest f)).park = some p →
    ∃ t v, exec (.handlerEntry blk u.num) s = .next t ∧ OnlyUnit s t blk u ∧ t.unit? blk u = some v
      ∧ v.handler = some (lowest f) ∧ v.bank = []
      ∧ v.trapCause = BitVec.ofNat 6 p.cause ∧ v.trapPc = BitVec.ofNat 32 p.pc ∧ v.trapView = p.view
      ∧ v.trapCoord = p.coord ∧ v.trapMask = (if u = .front then 0 else f)
      ∧ v.s = w.s ∧ v.preds = w.preds
      ∧ ∀ l, l < w.lanes.length → (v.lane l).v = (w.lane l).v
        ∧ (l ≠ lowest f → (v.lane l).status = (w.lane l).status ∧ (v.lane l).pc = (w.lane l).pc)
        ∧ (l = lowest f → (v.lane l).status = .running ∧ (v.lane l).pc = r.trapv)

/-- 02 R59: a device reset, or a reset of one die, unbinds every block on the affected cores, so that no tile belongs to
a window; the record cache and the sink table are empty; cycle counts and logical times start at 0. -/
def Obligations.ResetLeaves : Prop :=
  (∀ s : State, ∃ t, exec .deviceReset s = .next t ∧ t.blocks = [] ∧ t.sunk = []
    ∧ ∀ c, c < 384 → (t.core c).records = [] ∧ t.cycles c = 0 ∧ (t.core c).ltime = 0)
  ∧ (∀ (s : State) (die : Nat), die < 4 → ∃ t, exec (.dieReset die) s = .next t
    ∧ (∀ e ∈ t.blocks, e.2.loc ≠ .unbound → e.2.loc ≠ .moved → dieOf e.2.core ≠ die) ∧ (∀ e ∈ t.sunk, dieOf e.2.core ≠ die)
    ∧ ∀ c, dieOf c = die → c < 384 → (t.core c).records = [] ∧ t.cycles c = 0 ∧ (t.core c).ltime = 0)

/-- 02 R59, with the values that the model names (notes/assumptions/1, 2, 6): right after reset no block is bound, no
byte of memory is listed, every core's and die's state stands at its first value. -/
def Obligations.ResetState : Prop :=
  State.reset.blocks = [] ∧ State.reset.mem = [] ∧ State.reset.sunk = [] ∧ State.reset.agenda = []
  ∧ State.reset.cur = none ∧ State.reset.powered = false
  ∧ (∀ c, State.reset.core c = {} ∧ State.reset.cycles c = 0 ∧ (State.reset.core c).ltime = 0)
  ∧ (∀ d, State.reset.die d = {}) ∧ ∀ k, Memory.get State.reset.mem k = 0

/-- Right after reset memory is in its canonical form. -/
def Obligations.ResetMemory : Prop := MemCanonical State.reset

/-- Every step keeps memory in its canonical form. -/
def Obligations.StepKeepsMemory : Prop := ∀ s t : State, MemCanonical s → step s = .next t → MemCanonical t

/-- A step fetches the word at the PC of a path, which the core keeps as fetched (14 R384), and carries out the instruction
that it decodes to, for the lanes of the path; one that an HSTALL holds (04 R100) does nothing yet, and a unit without hint
words is never held. Where one unit alone may issue, on one path that is ready, and no pending step stands before it, the step of
the part is that path's, after what the cycle itself does: due steps, time charges and cycle counters. -/
def Obligations.StepRunsWord : Prop :=
  (∀ (s u : State) (c : Cand) (e : Nat × Word) (r : Region) (x : Word) (i : Instr),
    s.region? c.regid = some r → s.hstall c r e = false →
    { s with stalled := false }.fetch c.core c.regid r e.1 = (.word x, u) → decode x = .ok i →
    s.runPath c e = andThen (exec i { u.keepWord c.core c.regid e.1 x with cur := some { block := c.blk, unit := c.u, lanes := e.2 } })
      (fun t => .next { t with cur := none }))
  ∧ (∀ (s : State) (c : Cand) (e : Nat × Word) (r : Region), s.region? c.regid = some r →
    (c.w.hints = [] → s.hstall c r e = false) ∧ (s.hstall c r e = true → s.runPath c e = .next { s with stalled := true }))
  ∧ (∀ (s u : State) (c : Cand) (e : Nat × Word), runAll s.tick.2 s.tick.1 = .next u →
      let v := u.settle.chargeTime.countCycles
      v.agenda = [] → v.orphans = [] → v.cands.filterMap v.allowed = [c] → c.paths = [e] →
      (c.w.forced = 0 ∨ c.w.forced = e.2) → c.w.yieldLanes = 0 → c.w.age.getD 0 e.1 < c.amax → v.isReady c e = true →
      step s = ((v.chosen [c] c).modUnit c.blk c.u (fun w => { w.agePaths [e] e.1 with yielded := false })).runPath c e)

/-- 07 R172, R173: a read-modify-write at the home point answers the old word, leaves the new one in memory, and changes
no other byte. -/
def Obligations.AtomicUpdates : Prop :=
  ∀ (s : State) (core blk : Nat) (keep : Nat → UnitRef → Nat → Bool) (h : Home) (off : Nat) (f : Word → Option Word)
    (x : Word), s.isPoisoned (dieOf core) h = false → s.cutStore (dieOf core) h = false → off + 4 ≤ 128 →
    let k := h.line * 128 + off
    let old : Word := BitVec.ofNat 32 (s.rdNat k 4)
    let t := s.rmw core blk keep h off f
    t.1 = some old
    ∧ (f old = some x → t.2.rdNat k 4 = x.toNat
        ∧ ∀ j, ¬(k ≤ j ∧ j < k + 4) → Memory.get t.2.mem j = Memory.get s.mem j)
    ∧ (f old = none → t.2.mem = s.mem)

/-- 07 R174, 02 R30: LR reserves its lane's line and reads its word; SC stores and answers 0 where its lane holds a
reservation on the line, else stores nothing and answers 1; it leaves its lane no reservation. -/
def Obligations.Reservations : Prop :=
  ∀ (s : State) (t : Site) (core : Nat) (h : Home) (off lane : Nat) (x : Word) (w : Warp),
    s.isPoisoned (dieOf core) h = false → s.cutStore (dieOf core) h = false → off + 4 ≤ 128 → s.unit? t.blk t.unit = some w →
     lane < w.lanes.length →
    let k := h.line * 128 + off
    let lr := s.doLr t core h off lane
    let sc := s.doSc t core h off lane x
    (lr.1 = some (BitVec.ofNat 32 (s.rdNat k 4)) ∧ lr.2.mem = s.mem
      ∧ (lr.2.unit? t.blk t.unit).bind (fun v => (v.lane lane).resv.map Resv.line) = some h.line)
    ∧ ((w.lane lane).resv.map Resv.line = some h.line → sc.1 = some 0 ∧ sc.2.rdNat k 4 = x.toNat
        ∧ ∀ j, ¬(k ≤ j ∧ j < k + 4) → Memory.get sc.2.mem j = Memory.get s.mem j)
    ∧ ((w.lane lane).resv.map Resv.line ≠ some h.line → sc.1 = some 1 ∧ sc.2.mem = s.mem)
    ∧ (∀ v, sc.2.unit? t.blk t.unit = some v → (v.lane lane).resv = none)

/-- 07 R164, 03 R62: a loaded byte or half-word is sign- or zero-extended; wider values fill registers from the low word
up, each little-endian. -/
def Obligations.LoadExtension : Prop :=
  (∀ a : Byte, loadWords 1 true [a] = [a.signExtend 32] ∧ loadWords 1 false [a] = [a.setWidth 32])
  ∧ (∀ a b : Byte, loadWords 2 true [a, b] = [(b ++ a).signExtend 32] ∧ loadWords 2 false [a, b] = [(b ++ a).setWidth 32])
  ∧ (∀ a b c d : Byte, loadWords 4 false [a, b, c, d] = [d ++ c ++ b ++ a])
  ∧ (∀ a b c d e f g h : Byte, loadWords 8 false [a, b, c, d, e, f, g, h] = [d ++ c ++ b ++ a, h ++ g ++ f ++ e])

/-- 12 R290, R291: a trailing warp compares the item that its leading warp waits to perform: one that is another instruction, of
another PC, mask or operand, ends the block as one that has consumed an error, CHECK_MISMATCH, and nothing of the item takes
effect; one that matches lets the leading warp go on. -/
def Obligations.TrailingMismatches : Prop :=
  ∀ (s : State) (p : BitVec 4) (sa : BitVec 5) (i : Iss) (n : Nat) (x : CheckItem), s.issuer (some p) = some i → i.u = .trail n →
    i.pair.stream = [] → i.pair.item = some x → i.pair.compared = false →
    let a : Attr := { sysAttr 0x32 4 p true with rs := [sa.toNat], cmp := some (fun i _ => [(i.s sa).toNat]) }
    let own := i.checkItem s a (fun i _ => [(i.s sa).toNat])
    exec (.commit p) s = .next (s.consume i.blk Cause.CHECK_MISMATCH)
    ∧ (x ≠ own → exec (.kill p sa) s = .next (s.consume i.blk Cause.CHECK_MISMATCH))
    ∧ (x = own → exec (.kill p sa) s = .next
        ((s.modPair i.blk n (fun q => { q with compared := true })).modUnit i.blk i.u Warp.standBack))
    ∧ ∀ b, s.block? i.blk = some b → b.consumed = none →
        ((s.consume i.blk Cause.CHECK_MISMATCH).block? i.blk).map Block.consumed = some (some Cause.CHECK_MISMATCH)

/-- 09 R233: ENRD waits until the energy of the warp's earlier instructions is in the block's sum, and writes the sum. -/
def Obligations.EnergyReads : Prop :=
  ∀ (s : State) (p : BitVec 4) (t : BitVec 5) (i : Iss) (ws : List Word),
    let a : Attr := { sysAttr 0x33 5 p true with
      legal := t != 31, ws := [t.toNat, t.toNat + 1], outs := [.s t.toNat, .s (t.toNat + 1)] }
    (Ready s a i always (fun i _ => !i.w.energyIn) ws →
      ∃ u, exec (.enrd p t) s = .next u
        ∧ Past s u i ((i.withScalar t (i.b.energy.extractLsb' 0 32)).sWrite i.act (t + 1).toNat
            (i.b.energy.extractLsb' 32 32)))
    ∧ (Ready s a i always never ws → i.w.energyIn = false → exec (.enrd p t) s = .next (s.noteStall i a))

/-- 04 R88, R100, R103: in scheduled mode an HSTALL as the last hint word holds its path, where the instruction has an active
lane, for STALL cycles after its own slot and then for what its WAIT bits name; in interlocked mode it holds nothing. That
SFU, lane and MMA results are never outstanding is the model's choice (log entry 3). -/
def Obligations.HstallHolds : Prop :=
  ∀ (s : State) (c : Cand) (r : Region) (e : Nat × Word) (g : BitVec 10) (wait stall : BitVec 6),
    (∀ n, c.u ≠ .trail n) → c.w.hints.getLast? = some (wordHstall 0x3F 1 g wait stall) →
    (s.hstall c r e = true ↔ (s.block? c.blk).any (fun b => b.ctx.interlocked) = false ∧ s.executes c r e = true
      ∧ (s.now ≤ c.w.lastIssue + stall.toNat
        ∨ (wait.getLsbD 0 = true ∧ c.w.outstanding MemOp.isLoad = true)
        ∨ (wait.getLsbD 4 = true ∧ c.w.outstanding MemOp.isStore = true)
        ∨ (wait.getLsbD 5 = true ∧ c.w.pend ≠ [])))
end

