-- ==== Sys2Proof/Laws/Table.lean ====
section
/-! SUPPORT. Sparse tables: what a write leaves to be read, and that tables stay in their canonical form; then memory. -/

namespace Sys2Proof

namespace Table

variable {α : Type}

theorem get?_erase_same (t : Table α) (k : Nat) : (t.erase k).get? k = none := by
  induction t with
  | nil => rfl
  | cons e t ih =>
    simp only [erase, List.filter_cons] at ih ⊢
    by_cases h : e.1 = k
    · simpa [h] using ih
    · simp [h, get?, ih]

theorem get?_erase_other (t : Table α) {k j : Nat} (h : j ≠ k) : (t.erase k).get? j = t.get? j := by
  induction t with
  | nil => rfl
  | cons e t ih =>
    obtain ⟨a, w⟩ := e
    simp only [erase, List.filter_cons] at ih ⊢
    by_cases ha : a = k
    · have : a ≠ j := fun x => h (x.symm.trans ha)
      simpa [ha, get?, h.symm] using ih
    · by_cases hj : a = j
      · simp [get?, hj, h]
      · simp [ha, get?, hj, ih]

theorem get?_insert (t : Table α) (k : Nat) (v : α) (h : t.get? k = none) (j : Nat) :
    (t.insert k v).get? j = if j = k then some v else t.get? j := by
  induction t with
  | nil =>
    by_cases hj : j = k
    · simp [insert, get?, hj]
    · simp [insert, get?, hj, Ne.symm hj]
  | cons e t ih =>
    obtain ⟨a, w⟩ := e
    have hne : a ≠ k := by
      intro he
      simp [get?, he] at h
    have ht : get? t k = none := by simpa [get?, hne] using h
    by_cases hlt : k < a
    · rw [insert, if_pos hlt]
      by_cases hj : j = k
      · simp [get?, hj]
      · simp [get?, hj, Ne.symm hj]
    · rw [insert, if_neg hlt]
      by_cases he : a = j
      · have : j ≠ k := fun x => hne (he.trans x)
        simp [get?, he, this]
      · simp [get?, he, ih ht]

/-- What a put leaves to be read. -/
theorem get?_put (t : Table α) (k : Nat) (v : α) (j : Nat) :
    (t.put k v).get? j = if j = k then some v else t.get? j := by
  rw [put, get?_insert _ _ _ (get?_erase_same t k)]
  by_cases h : j = k
  · simp [h]
  · simp [h, get?_erase_other t h]

@[simp] theorem get?_put_same (t : Table α) (k : Nat) (v : α) : (t.put k v).get? k = some v := by simp [get?_put]

theorem get?_put_other (t : Table α) {k j : Nat} (v : α) (h : j ≠ k) : (t.put k v).get? j = t.get? j := by
  simp [get?_put, h]

@[simp] theorem getD_put_same (t : Table α) (d : α) (k : Nat) (v : α) : (t.put k v).getD d k = v := by simp [getD]

theorem getD_put_other (t : Table α) (d : α) {k j : Nat} (v : α) (h : j ≠ k) : (t.put k v).getD d j = t.getD d j := by
  simp [getD, get?_put, h]

/-- A write of a default value reads as any other. -/
theorem getD_putD [DecidableEq α] (t : Table α) (d : α) (k : Nat) (v : α) (j : Nat) :
    (t.putD d k v).getD d j = if j = k then v else t.getD d j := by
  by_cases hv : v = d
  · by_cases hj : j = k
    · simp [putD, hv, getD, hj, get?_erase_same]
    · simp [putD, hv, getD, hj, get?_erase_other t hj]
  · by_cases hj : j = k <;> simp [putD, hv, getD, get?_put, hj]

@[simp] theorem getD_putD_same [DecidableEq α] (t : Table α) (d : α) (k : Nat) (v : α) : (t.putD d k v).getD d k = v := by
  simp [getD_putD]

theorem getD_putD_other [DecidableEq α] (t : Table α) (d : α) {k j : Nat} (v : α) (h : j ≠ k) :
    (t.putD d k v).getD d j = t.getD d j := by simp [getD_putD, h]

theorem get?_modify (t : Table α) (k : Nat) (f : α → α) (j : Nat) :
    (t.modify k f).get? j = if j = k then (t.get? k).map f else t.get? j := by
  unfold modify
  cases h : t.get? k with
  | none => by_cases hj : j = k <;> simp [hj, h]
  | some v => by_cases hj : j = k <;> simp [get?_put, hj]

@[simp] theorem get?_modify_same (t : Table α) (k : Nat) (f : α → α) : (t.modify k f).get? k = (t.get? k).map f := by
  simp [get?_modify]

theorem get?_modify_other (t : Table α) {k j : Nat} (f : α → α) (h : j ≠ k) : (t.modify k f).get? j = t.get? j := by
  simp [get?_modify, h]

/-! The canonical form. -/

theorem sorted_cons {e : Nat × α} {t : Table α} :
    sorted (e :: t) = true ↔ (∀ x ∈ t, e.1 < x.1) ∧ sorted t = true := by simp [sorted]

theorem sorted_erase {t : Table α} (h : t.sorted = true) (k : Nat) : (t.erase k).sorted = true := by
  induction t with
  | nil => rfl
  | cons e t ih =>
    rw [sorted_cons] at h
    by_cases hk : e.1 = k
    · simpa [erase, hk] using ih h.2
    · have : erase (e :: t) k = e :: erase t k := by simp [erase, hk]
      rw [this, sorted_cons]
      exact ⟨fun x hx => h.1 x ((List.mem_filter.mp hx).1), ih h.2⟩

theorem mem_insert (t : Table α) (k : Nat) (v : α) (x : Nat × α) : x ∈ t.insert k v ↔ x = (k, v) ∨ x ∈ t := by
  induction t with
  | nil => simp [insert]
  | cons e t ih =>
    by_cases h : k < e.1
    · simp [insert, h]
    · simp only [insert, h, if_false, List.mem_cons, ih]
      exact or_left_comm

theorem sorted_insert {t : Table α} {k : Nat} (h : t.sorted = true) (hk : ∀ x ∈ t, x.1 ≠ k) (v : α) :
    (t.insert k v).sorted = true := by
  induction t with
  | nil => rfl
  | cons e t ih =>
    rw [sorted_cons] at h
    have hke : e.1 ≠ k := hk e (by simp)
    by_cases hlt : k < e.1
    · simp only [insert, hlt, if_true, sorted_cons]
      refine ⟨fun x hx => ?_, h.1, h.2⟩
      cases hx with
      | head => exact hlt
      | tail _ hx => exact Nat.lt_trans hlt (h.1 x hx)
    · simp only [insert, hlt, if_false, sorted_cons]
      refine ⟨fun x hx => ?_, ih h.2 (fun x hx => hk x (List.mem_cons_of_mem _ hx))⟩
      rcases (mem_insert t k v x).mp hx with rfl | hx
      · exact Nat.lt_of_le_of_ne (Nat.le_of_not_lt hlt) hke
      · exact h.1 x hx

/-- A put keeps keys strictly rising. -/
theorem sorted_put {t : Table α} (h : t.sorted = true) (k : Nat) (v : α) : (t.put k v).sorted = true := by
  refine sorted_insert (sorted_erase h k) (fun x hx => ?_) v
  simpa using (List.mem_filter.mp hx).2

end Table

namespace Machine

/-! ## Memory -/

theorem Memory.wf_iff (m : Table Byte) : Memory.wf m = true ↔ m.sorted = true ∧ ∀ e ∈ m, e.2 ≠ unlisted := by
  simp [Memory.wf]

/-- What a write of one byte leaves to be read. -/
theorem Memory.get_put (m : Table Byte) (k : Nat) (b : Byte) (j : Nat) :
    Memory.get (Memory.put m k b) j = if j = k then b else Memory.get m j := Table.getD_putD m unlisted k b j

@[simp] theorem Memory.get_put_same (m : Table Byte) (k : Nat) (b : Byte) : Memory.get (Memory.put m k b) k = b := by
  simp [Memory.get_put]

theorem Memory.get_put_other (m : Table Byte) {k j : Nat} (b : Byte) (h : j ≠ k) :
    Memory.get (Memory.put m k b) j = Memory.get m j := by simp [Memory.get_put, h]

/-- A write of one byte keeps the canonical form. -/
theorem Memory.wf_put {m : Table Byte} (h : Memory.wf m = true) (k : Nat) (b : Byte) : Memory.wf (Memory.put m k b) = true := by
  rw [Memory.wf_iff] at h ⊢
  have herase : ∀ e ∈ m.erase k, e.2 ≠ unlisted := fun e he => h.2 e ((List.mem_filter.mp he).1)
  by_cases hb : b = unlisted
  · simp only [Memory.put, Table.putD, hb, if_true]
    exact ⟨Table.sorted_erase h.1 k, herase⟩
  · simp only [Memory.put, Table.putD, hb, if_false]
    refine ⟨Table.sorted_put h.1 k b, fun e he => ?_⟩
    rcases (Table.mem_insert _ _ _ _).mp he with rfl | he
    · exact hb
    · exact herase e he

/-- A write of a run of bytes keeps the canonical form. -/
theorem Memory.wf_write {m : Table Byte} (h : Memory.wf m = true) (k : Nat) (l : List Byte) :
    Memory.wf (Memory.write m k l) = true := by
  induction l generalizing m k with
  | nil => exact h
  | cons b l ih => exact ih (Memory.wf_put h k b) (k + 1)

/-- What a write of a run of bytes leaves to be read. -/
theorem Memory.get_write (m : Table Byte) (k : Nat) (l : List Byte) (j : Nat) :
    Memory.get (Memory.write m k l) j = if k ≤ j ∧ j < k + l.length then l.getD (j - k) 0 else Memory.get m j := by
  induction l generalizing m k with
  | nil =>
    rw [if_neg (by simp only [List.length_nil]; omega)]
    rfl
  | cons b l ih =>
    rw [Memory.write, ih, Memory.get_put]
    by_cases hj : j = k
    · subst hj
      have h1 : ¬ (j + 1 ≤ j ∧ j < j + 1 + l.length) := by omega
      have h2 : j ≤ j ∧ j < j + (b :: l).length := by simp
      rw [if_neg h1, if_pos rfl, if_pos h2]
      simp
    · by_cases hin : k + 1 ≤ j ∧ j < k + 1 + l.length
      · have h2 : k ≤ j ∧ j < k + (b :: l).length := by simp; omega
        have h3 : j - k = j - (k + 1) + 1 := by omega
        rw [if_pos hin, if_pos h2, h3]
        simp
      · have h2 : ¬ (k ≤ j ∧ j < k + (b :: l).length) := by simp; omega
        rw [if_neg hin, if_neg h2, if_neg hj]

end Machine

end Sys2Proof
end

