-- ==== Sys2Proof/Laws/State.lean ====
section
/-! SUPPORT. What each update of the state leaves of each field: one lemma per field per update. -/

namespace Sys2Proof.Machine

/-! setCore -/

section

variable (s : State) (c : Nat) (x : Core)

@[simp] theorem State.setCore_mem : (s.setCore c x).mem = s.mem := rfl
@[simp] theorem State.setCore_poison : (s.setCore c x).poison = s.poison := rfl
@[simp] theorem State.setCore_far : (s.setCore c x).far = s.far := rfl
@[simp] theorem State.setCore_blocks : (s.setCore c x).blocks = s.blocks := rfl
@[simp] theorem State.setCore_dies : (s.setCore c x).dies = s.dies := rfl
@[simp] theorem State.setCore_regions : (s.setCore c x).regions = s.regions := rfl
@[simp] theorem State.setCore_parts : (s.setCore c x).parts = s.parts := rfl
@[simp] theorem State.setCore_cmds : (s.setCore c x).cmds = s.cmds := rfl
@[simp] theorem State.setCore_pageReqs : (s.setCore c x).pageReqs = s.pageReqs := rfl
@[simp] theorem State.setCore_ladders : (s.setCore c x).ladders = s.ladders := rfl
@[simp] theorem State.setCore_snaps : (s.setCore c x).snaps = s.snaps := rfl
@[simp] theorem State.setCore_acks : (s.setCore c x).acks = s.acks := rfl
@[simp] theorem State.setCore_sunk : (s.setCore c x).sunk = s.sunk := rfl
@[simp] theorem State.setCore_waiting : (s.setCore c x).waiting = s.waiting := rfl
@[simp] theorem State.setCore_faultQ : (s.setCore c x).faultQ = s.faultQ := rfl
@[simp] theorem State.setCore_eventQ : (s.setCore c x).eventQ = s.eventQ := rfl
@[simp] theorem State.setCore_ports : (s.setCore c x).ports = s.ports := rfl
@[simp] theorem State.setCore_links : (s.setCore c x).links = s.links := rfl
@[simp] theorem State.setCore_route : (s.setCore c x).route = s.route := rfl
@[simp] theorem State.setCore_missed : (s.setCore c x).missed = s.missed := rfl
@[simp] theorem State.setCore_fenced : (s.setCore c x).fenced = s.fenced := rfl
@[simp] theorem State.setCore_qps : (s.setCore c x).qps = s.qps := rfl
@[simp] theorem State.setCore_eth : (s.setCore c x).eth = s.eth := rfl
@[simp] theorem State.setCore_boot : (s.setCore c x).boot = s.boot := rfl
@[simp] theorem State.setCore_meas : (s.setCore c x).meas = s.meas := rfl
@[simp] theorem State.setCore_quote : (s.setCore c x).quote = s.quote := rfl
@[simp] theorem State.setCore_devNum : (s.setCore c x).devNum = s.devNum := rfl
@[simp] theorem State.setCore_sysResv : (s.setCore c x).sysResv = s.sysResv := rfl
@[simp] theorem State.setCore_sysRead : (s.setCore c x).sysRead = s.sysRead := rfl
@[simp] theorem State.setCore_sysQueue : (s.setCore c x).sysQueue = s.sysQueue := rfl
@[simp] theorem State.setCore_pcieRead : (s.setCore c x).pcieRead = s.pcieRead := rfl
@[simp] theorem State.setCore_interrupts : (s.setCore c x).interrupts = s.interrupts := rfl
@[simp] theorem State.setCore_cals : (s.setCore c x).cals = s.cals := rfl
@[simp] theorem State.setCore_served : (s.setCore c x).served = s.served := rfl
@[simp] theorem State.setCore_stops : (s.setCore c x).stops = s.stops := rfl
@[simp] theorem State.setCore_reports : (s.setCore c x).reports = s.reports := rfl
@[simp] theorem State.setCore_restores : (s.setCore c x).restores = s.restores := rfl
@[simp] theorem State.setCore_powered : (s.setCore c x).powered = s.powered := rfl
@[simp] theorem State.setCore_cur : (s.setCore c x).cur = s.cur := rfl
@[simp] theorem State.setCore_stalled : (s.setCore c x).stalled = s.stalled := rfl
@[simp] theorem State.setCore_agenda : (s.setCore c x).agenda = s.agenda := rfl
@[simp] theorem State.setCore_timers : (s.setCore c x).timers = s.timers := rfl
@[simp] theorem State.setCore_now : (s.setCore c x).now = s.now := rfl
@[simp] theorem State.setCore_next : (s.setCore c x).next = s.next := rfl
@[simp] theorem State.setCore_drawn : (s.setCore c x).drawn = s.drawn := rfl

end

/-! modCore -/

section

variable (s : State) (c : Nat) (f : Core → Core)

@[simp] theorem State.modCore_mem : (s.modCore c f).mem = s.mem := rfl
@[simp] theorem State.modCore_poison : (s.modCore c f).poison = s.poison := rfl
@[simp] theorem State.modCore_far : (s.modCore c f).far = s.far := rfl
@[simp] theorem State.modCore_blocks : (s.modCore c f).blocks = s.blocks := rfl
@[simp] theorem State.modCore_dies : (s.modCore c f).dies = s.dies := rfl
@[simp] theorem State.modCore_regions : (s.modCore c f).regions = s.regions := rfl
@[simp] theorem State.modCore_parts : (s.modCore c f).parts = s.parts := rfl
@[simp] theorem State.modCore_cmds : (s.modCore c f).cmds = s.cmds := rfl
@[simp] theorem State.modCore_pageReqs : (s.modCore c f).pageReqs = s.pageReqs := rfl
@[simp] theorem State.modCore_ladders : (s.modCore c f).ladders = s.ladders := rfl
@[simp] theorem State.modCore_snaps : (s.modCore c f).snaps = s.snaps := rfl
@[simp] theorem State.modCore_acks : (s.modCore c f).acks = s.acks := rfl
@[simp] theorem State.modCore_sunk : (s.modCore c f).sunk = s.sunk := rfl
@[simp] theorem State.modCore_waiting : (s.modCore c f).waiting = s.waiting := rfl
@[simp] theorem State.modCore_faultQ : (s.modCore c f).faultQ = s.faultQ := rfl
@[simp] theorem State.modCore_eventQ : (s.modCore c f).eventQ = s.eventQ := rfl
@[simp] theorem State.modCore_ports : (s.modCore c f).ports = s.ports := rfl
@[simp] theorem State.modCore_links : (s.modCore c f).links = s.links := rfl
@[simp] theorem State.modCore_route : (s.modCore c f).route = s.route := rfl
@[simp] theorem State.modCore_missed : (s.modCore c f).missed = s.missed := rfl
@[simp] theorem State.modCore_fenced : (s.modCore c f).fenced = s.fenced := rfl
@[simp] theorem State.modCore_qps : (s.modCore c f).qps = s.qps := rfl
@[simp] theorem State.modCore_eth : (s.modCore c f).eth = s.eth := rfl
@[simp] theorem State.modCore_boot : (s.modCore c f).boot = s.boot := rfl
@[simp] theorem State.modCore_meas : (s.modCore c f).meas = s.meas := rfl
@[simp] theorem State.modCore_quote : (s.modCore c f).quote = s.quote := rfl
@[simp] theorem State.modCore_devNum : (s.modCore c f).devNum = s.devNum := rfl
@[simp] theorem State.modCore_sysResv : (s.modCore c f).sysResv = s.sysResv := rfl
@[simp] theorem State.modCore_sysRead : (s.modCore c f).sysRead = s.sysRead := rfl
@[simp] theorem State.modCore_sysQueue : (s.modCore c f).sysQueue = s.sysQueue := rfl
@[simp] theorem State.modCore_pcieRead : (s.modCore c f).pcieRead = s.pcieRead := rfl
@[simp] theorem State.modCore_interrupts : (s.modCore c f).interrupts = s.interrupts := rfl
@[simp] theorem State.modCore_cals : (s.modCore c f).cals = s.cals := rfl
@[simp] theorem State.modCore_served : (s.modCore c f).served = s.served := rfl
@[simp] theorem State.modCore_stops : (s.modCore c f).stops = s.stops := rfl
@[simp] theorem State.modCore_reports : (s.modCore c f).reports = s.reports := rfl
@[simp] theorem State.modCore_restores : (s.modCore c f).restores = s.restores := rfl
@[simp] theorem State.modCore_powered : (s.modCore c f).powered = s.powered := rfl
@[simp] theorem State.modCore_cur : (s.modCore c f).cur = s.cur := rfl
@[simp] theorem State.modCore_stalled : (s.modCore c f).stalled = s.stalled := rfl
@[simp] theorem State.modCore_agenda : (s.modCore c f).agenda = s.agenda := rfl
@[simp] theorem State.modCore_timers : (s.modCore c f).timers = s.timers := rfl
@[simp] theorem State.modCore_now : (s.modCore c f).now = s.now := rfl
@[simp] theorem State.modCore_next : (s.modCore c f).next = s.next := rfl
@[simp] theorem State.modCore_drawn : (s.modCore c f).drawn = s.drawn := rfl

end

/-! setDie -/

section

variable (s : State) (d : Nat) (x : Die)

@[simp] theorem State.setDie_mem : (s.setDie d x).mem = s.mem := rfl
@[simp] theorem State.setDie_poison : (s.setDie d x).poison = s.poison := rfl
@[simp] theorem State.setDie_far : (s.setDie d x).far = s.far := rfl
@[simp] theorem State.setDie_blocks : (s.setDie d x).blocks = s.blocks := rfl
@[simp] theorem State.setDie_cores : (s.setDie d x).cores = s.cores := rfl
@[simp] theorem State.setDie_regions : (s.setDie d x).regions = s.regions := rfl
@[simp] theorem State.setDie_parts : (s.setDie d x).parts = s.parts := rfl
@[simp] theorem State.setDie_cmds : (s.setDie d x).cmds = s.cmds := rfl
@[simp] theorem State.setDie_pageReqs : (s.setDie d x).pageReqs = s.pageReqs := rfl
@[simp] theorem State.setDie_ladders : (s.setDie d x).ladders = s.ladders := rfl
@[simp] theorem State.setDie_snaps : (s.setDie d x).snaps = s.snaps := rfl
@[simp] theorem State.setDie_acks : (s.setDie d x).acks = s.acks := rfl
@[simp] theorem State.setDie_sunk : (s.setDie d x).sunk = s.sunk := rfl
@[simp] theorem State.setDie_waiting : (s.setDie d x).waiting = s.waiting := rfl
@[simp] theorem State.setDie_faultQ : (s.setDie d x).faultQ = s.faultQ := rfl
@[simp] theorem State.setDie_eventQ : (s.setDie d x).eventQ = s.eventQ := rfl
@[simp] theorem State.setDie_ports : (s.setDie d x).ports = s.ports := rfl
@[simp] theorem State.setDie_links : (s.setDie d x).links = s.links := rfl
@[simp] theorem State.setDie_route : (s.setDie d x).route = s.route := rfl
@[simp] theorem State.setDie_missed : (s.setDie d x).missed = s.missed := rfl
@[simp] theorem State.setDie_fenced : (s.setDie d x).fenced = s.fenced := rfl
@[simp] theorem State.setDie_qps : (s.setDie d x).qps = s.qps := rfl
@[simp] theorem State.setDie_eth : (s.setDie d x).eth = s.eth := rfl
@[simp] theorem State.setDie_boot : (s.setDie d x).boot = s.boot := rfl
@[simp] theorem State.setDie_meas : (s.setDie d x).meas = s.meas := rfl
@[simp] theorem State.setDie_quote : (s.setDie d x).quote = s.quote := rfl
@[simp] theorem State.setDie_devNum : (s.setDie d x).devNum = s.devNum := rfl
@[simp] theorem State.setDie_sysResv : (s.setDie d x).sysResv = s.sysResv := rfl
@[simp] theorem State.setDie_sysRead : (s.setDie d x).sysRead = s.sysRead := rfl
@[simp] theorem State.setDie_sysQueue : (s.setDie d x).sysQueue = s.sysQueue := rfl
@[simp] theorem State.setDie_pcieRead : (s.setDie d x).pcieRead = s.pcieRead := rfl
@[simp] theorem State.setDie_interrupts : (s.setDie d x).interrupts = s.interrupts := rfl
@[simp] theorem State.setDie_cals : (s.setDie d x).cals = s.cals := rfl
@[simp] theorem State.setDie_served : (s.setDie d x).served = s.served := rfl
@[simp] theorem State.setDie_stops : (s.setDie d x).stops = s.stops := rfl
@[simp] theorem State.setDie_reports : (s.setDie d x).reports = s.reports := rfl
@[simp] theorem State.setDie_restores : (s.setDie d x).restores = s.restores := rfl
@[simp] theorem State.setDie_powered : (s.setDie d x).powered = s.powered := rfl
@[simp] theorem State.setDie_cur : (s.setDie d x).cur = s.cur := rfl
@[simp] theorem State.setDie_stalled : (s.setDie d x).stalled = s.stalled := rfl
@[simp] theorem State.setDie_agenda : (s.setDie d x).agenda = s.agenda := rfl
@[simp] theorem State.setDie_timers : (s.setDie d x).timers = s.timers := rfl
@[simp] theorem State.setDie_now : (s.setDie d x).now = s.now := rfl
@[simp] theorem State.setDie_next : (s.setDie d x).next = s.next := rfl
@[simp] theorem State.setDie_drawn : (s.setDie d x).drawn = s.drawn := rfl

end

/-! modDie -/

section

variable (s : State) (d : Nat) (f : Die → Die)

@[simp] theorem State.modDie_mem : (s.modDie d f).mem = s.mem := rfl
@[simp] theorem State.modDie_poison : (s.modDie d f).poison = s.poison := rfl
@[simp] theorem State.modDie_far : (s.modDie d f).far = s.far := rfl
@[simp] theorem State.modDie_blocks : (s.modDie d f).blocks = s.blocks := rfl
@[simp] theorem State.modDie_cores : (s.modDie d f).cores = s.cores := rfl
@[simp] theorem State.modDie_regions : (s.modDie d f).regions = s.regions := rfl
@[simp] theorem State.modDie_parts : (s.modDie d f).parts = s.parts := rfl
@[simp] theorem State.modDie_cmds : (s.modDie d f).cmds = s.cmds := rfl
@[simp] theorem State.modDie_pageReqs : (s.modDie d f).pageReqs = s.pageReqs := rfl
@[simp] theorem State.modDie_ladders : (s.modDie d f).ladders = s.ladders := rfl
@[simp] theorem State.modDie_snaps : (s.modDie d f).snaps = s.snaps := rfl
@[simp] theorem State.modDie_acks : (s.modDie d f).acks = s.acks := rfl
@[simp] theorem State.modDie_sunk : (s.modDie d f).sunk = s.sunk := rfl
@[simp] theorem State.modDie_waiting : (s.modDie d f).waiting = s.waiting := rfl
@[simp] theorem State.modDie_faultQ : (s.modDie d f).faultQ = s.faultQ := rfl
@[simp] theorem State.modDie_eventQ : (s.modDie d f).eventQ = s.eventQ := rfl
@[simp] theorem State.modDie_ports : (s.modDie d f).ports = s.ports := rfl
@[simp] theorem State.modDie_links : (s.modDie d f).links = s.links := rfl
@[simp] theorem State.modDie_route : (s.modDie d f).route = s.route := rfl
@[simp] theorem State.modDie_missed : (s.modDie d f).missed = s.missed := rfl
@[simp] theorem State.modDie_fenced : (s.modDie d f).fenced = s.fenced := rfl
@[simp] theorem State.modDie_qps : (s.modDie d f).qps = s.qps := rfl
@[simp] theorem State.modDie_eth : (s.modDie d f).eth = s.eth := rfl
@[simp] theorem State.modDie_boot : (s.modDie d f).boot = s.boot := rfl
@[simp] theorem State.modDie_meas : (s.modDie d f).meas = s.meas := rfl
@[simp] theorem State.modDie_quote : (s.modDie d f).quote = s.quote := rfl
@[simp] theorem State.modDie_devNum : (s.modDie d f).devNum = s.devNum := rfl
@[simp] theorem State.modDie_sysResv : (s.modDie d f).sysResv = s.sysResv := rfl
@[simp] theorem State.modDie_sysRead : (s.modDie d f).sysRead = s.sysRead := rfl
@[simp] theorem State.modDie_sysQueue : (s.modDie d f).sysQueue = s.sysQueue := rfl
@[simp] theorem State.modDie_pcieRead : (s.modDie d f).pcieRead = s.pcieRead := rfl
@[simp] theorem State.modDie_interrupts : (s.modDie d f).interrupts = s.interrupts := rfl
@[simp] theorem State.modDie_cals : (s.modDie d f).cals = s.cals := rfl
@[simp] theorem State.modDie_served : (s.modDie d f).served = s.served := rfl
@[simp] theorem State.modDie_stops : (s.modDie d f).stops = s.stops := rfl
@[simp] theorem State.modDie_reports : (s.modDie d f).reports = s.reports := rfl
@[simp] theorem State.modDie_restores : (s.modDie d f).restores = s.restores := rfl
@[simp] theorem State.modDie_powered : (s.modDie d f).powered = s.powered := rfl
@[simp] theorem State.modDie_cur : (s.modDie d f).cur = s.cur := rfl
@[simp] theorem State.modDie_stalled : (s.modDie d f).stalled = s.stalled := rfl
@[simp] theorem State.modDie_agenda : (s.modDie d f).agenda = s.agenda := rfl
@[simp] theorem State.modDie_timers : (s.modDie d f).timers = s.timers := rfl
@[simp] theorem State.modDie_now : (s.modDie d f).now = s.now := rfl
@[simp] theorem State.modDie_next : (s.modDie d f).next = s.next := rfl
@[simp] theorem State.modDie_drawn : (s.modDie d f).drawn = s.drawn := rfl

end

/-! setBlock -/

section

variable (s : State) (b : Nat) (x : Block)

@[simp] theorem State.setBlock_mem : (s.setBlock b x).mem = s.mem := rfl
@[simp] theorem State.setBlock_poison : (s.setBlock b x).poison = s.poison := rfl
@[simp] theorem State.setBlock_far : (s.setBlock b x).far = s.far := rfl
@[simp] theorem State.setBlock_cores : (s.setBlock b x).cores = s.cores := rfl
@[simp] theorem State.setBlock_dies : (s.setBlock b x).dies = s.dies := rfl
@[simp] theorem State.setBlock_regions : (s.setBlock b x).regions = s.regions := rfl
@[simp] theorem State.setBlock_parts : (s.setBlock b x).parts = s.parts := rfl
@[simp] theorem State.setBlock_cmds : (s.setBlock b x).cmds = s.cmds := rfl
@[simp] theorem State.setBlock_pageReqs : (s.setBlock b x).pageReqs = s.pageReqs := rfl
@[simp] theorem State.setBlock_ladders : (s.setBlock b x).ladders = s.ladders := rfl
@[simp] theorem State.setBlock_snaps : (s.setBlock b x).snaps = s.snaps := rfl
@[simp] theorem State.setBlock_acks : (s.setBlock b x).acks = s.acks := rfl
@[simp] theorem State.setBlock_sunk : (s.setBlock b x).sunk = s.sunk := rfl
@[simp] theorem State.setBlock_waiting : (s.setBlock b x).waiting = s.waiting := rfl
@[simp] theorem State.setBlock_faultQ : (s.setBlock b x).faultQ = s.faultQ := rfl
@[simp] theorem State.setBlock_eventQ : (s.setBlock b x).eventQ = s.eventQ := rfl
@[simp] theorem State.setBlock_ports : (s.setBlock b x).ports = s.ports := rfl
@[simp] theorem State.setBlock_links : (s.setBlock b x).links = s.links := rfl
@[simp] theorem State.setBlock_route : (s.setBlock b x).route = s.route := rfl
@[simp] theorem State.setBlock_missed : (s.setBlock b x).missed = s.missed := rfl
@[simp] theorem State.setBlock_fenced : (s.setBlock b x).fenced = s.fenced := rfl
@[simp] theorem State.setBlock_qps : (s.setBlock b x).qps = s.qps := rfl
@[simp] theorem State.setBlock_eth : (s.setBlock b x).eth = s.eth := rfl
@[simp] theorem State.setBlock_boot : (s.setBlock b x).boot = s.boot := rfl
@[simp] theorem State.setBlock_meas : (s.setBlock b x).meas = s.meas := rfl
@[simp] theorem State.setBlock_quote : (s.setBlock b x).quote = s.quote := rfl
@[simp] theorem State.setBlock_devNum : (s.setBlock b x).devNum = s.devNum := rfl
@[simp] theorem State.setBlock_sysResv : (s.setBlock b x).sysResv = s.sysResv := rfl
@[simp] theorem State.setBlock_sysRead : (s.setBlock b x).sysRead = s.sysRead := rfl
@[simp] theorem State.setBlock_sysQueue : (s.setBlock b x).sysQueue = s.sysQueue := rfl
@[simp] theorem State.setBlock_pcieRead : (s.setBlock b x).pcieRead = s.pcieRead := rfl
@[simp] theorem State.setBlock_interrupts : (s.setBlock b x).interrupts = s.interrupts := rfl
@[simp] theorem State.setBlock_cals : (s.setBlock b x).cals = s.cals := rfl
@[simp] theorem State.setBlock_served : (s.setBlock b x).served = s.served := rfl
@[simp] theorem State.setBlock_stops : (s.setBlock b x).stops = s.stops := rfl
@[simp] theorem State.setBlock_reports : (s.setBlock b x).reports = s.reports := rfl
@[simp] theorem State.setBlock_restores : (s.setBlock b x).restores = s.restores := rfl
@[simp] theorem State.setBlock_powered : (s.setBlock b x).powered = s.powered := rfl
@[simp] theorem State.setBlock_cur : (s.setBlock b x).cur = s.cur := rfl
@[simp] theorem State.setBlock_stalled : (s.setBlock b x).stalled = s.stalled := rfl
@[simp] theorem State.setBlock_agenda : (s.setBlock b x).agenda = s.agenda := rfl
@[simp] theorem State.setBlock_timers : (s.setBlock b x).timers = s.timers := rfl
@[simp] theorem State.setBlock_now : (s.setBlock b x).now = s.now := rfl
@[simp] theorem State.setBlock_next : (s.setBlock b x).next = s.next := rfl
@[simp] theorem State.setBlock_drawn : (s.setBlock b x).drawn = s.drawn := rfl

end

/-! modBlock -/

section

variable (s : State) (b : Nat) (f : Block → Block)

@[simp] theorem State.modBlock_mem : (s.modBlock b f).mem = s.mem := rfl
@[simp] theorem State.modBlock_poison : (s.modBlock b f).poison = s.poison := rfl
@[simp] theorem State.modBlock_far : (s.modBlock b f).far = s.far := rfl
@[simp] theorem State.modBlock_cores : (s.modBlock b f).cores = s.cores := rfl
@[simp] theorem State.modBlock_dies : (s.modBlock b f).dies = s.dies := rfl
@[simp] theorem State.modBlock_regions : (s.modBlock b f).regions = s.regions := rfl
@[simp] theorem State.modBlock_parts : (s.modBlock b f).parts = s.parts := rfl
@[simp] theorem State.modBlock_cmds : (s.modBlock b f).cmds = s.cmds := rfl
@[simp] theorem State.modBlock_pageReqs : (s.modBlock b f).pageReqs = s.pageReqs := rfl
@[simp] theorem State.modBlock_ladders : (s.modBlock b f).ladders = s.ladders := rfl
@[simp] theorem State.modBlock_snaps : (s.modBlock b f).snaps = s.snaps := rfl
@[simp] theorem State.modBlock_acks : (s.modBlock b f).acks = s.acks := rfl
@[simp] theorem State.modBlock_sunk : (s.modBlock b f).sunk = s.sunk := rfl
@[simp] theorem State.modBlock_waiting : (s.modBlock b f).waiting = s.waiting := rfl
@[simp] theorem State.modBlock_faultQ : (s.modBlock b f).faultQ = s.faultQ := rfl
@[simp] theorem State.modBlock_eventQ : (s.modBlock b f).eventQ = s.eventQ := rfl
@[simp] theorem State.modBlock_ports : (s.modBlock b f).ports = s.ports := rfl
@[simp] theorem State.modBlock_links : (s.modBlock b f).links = s.links := rfl
@[simp] theorem State.modBlock_route : (s.modBlock b f).route = s.route := rfl
@[simp] theorem State.modBlock_missed : (s.modBlock b f).missed = s.missed := rfl
@[simp] theorem State.modBlock_fenced : (s.modBlock b f).fenced = s.fenced := rfl
@[simp] theorem State.modBlock_qps : (s.modBlock b f).qps = s.qps := rfl
@[simp] theorem State.modBlock_eth : (s.modBlock b f).eth = s.eth := rfl
@[simp] theorem State.modBlock_boot : (s.modBlock b f).boot = s.boot := rfl
@[simp] theorem State.modBlock_meas : (s.modBlock b f).meas = s.meas := rfl
@[simp] theorem State.modBlock_quote : (s.modBlock b f).quote = s.quote := rfl
@[simp] theorem State.modBlock_devNum : (s.modBlock b f).devNum = s.devNum := rfl
@[simp] theorem State.modBlock_sysResv : (s.modBlock b f).sysResv = s.sysResv := rfl
@[simp] theorem State.modBlock_sysRead : (s.modBlock b f).sysRead = s.sysRead := rfl
@[simp] theorem State.modBlock_sysQueue : (s.modBlock b f).sysQueue = s.sysQueue := rfl
@[simp] theorem State.modBlock_pcieRead : (s.modBlock b f).pcieRead = s.pcieRead := rfl
@[simp] theorem State.modBlock_interrupts : (s.modBlock b f).interrupts = s.interrupts := rfl
@[simp] theorem State.modBlock_cals : (s.modBlock b f).cals = s.cals := rfl
@[simp] theorem State.modBlock_served : (s.modBlock b f).served = s.served := rfl
@[simp] theorem State.modBlock_stops : (s.modBlock b f).stops = s.stops := rfl
@[simp] theorem State.modBlock_reports : (s.modBlock b f).reports = s.reports := rfl
@[simp] theorem State.modBlock_restores : (s.modBlock b f).restores = s.restores := rfl
@[simp] theorem State.modBlock_powered : (s.modBlock b f).powered = s.powered := rfl
@[simp] theorem State.modBlock_cur : (s.modBlock b f).cur = s.cur := rfl
@[simp] theorem State.modBlock_stalled : (s.modBlock b f).stalled = s.stalled := rfl
@[simp] theorem State.modBlock_agenda : (s.modBlock b f).agenda = s.agenda := rfl
@[simp] theorem State.modBlock_timers : (s.modBlock b f).timers = s.timers := rfl
@[simp] theorem State.modBlock_now : (s.modBlock b f).now = s.now := rfl
@[simp] theorem State.modBlock_next : (s.modBlock b f).next = s.next := rfl
@[simp] theorem State.modBlock_drawn : (s.modBlock b f).drawn = s.drawn := rfl

end

/-! modUnit -/

section

variable (s : State) (b : Nat) (u : UnitRef) (f : Warp → Warp)

@[simp] theorem State.modUnit_mem : (s.modUnit b u f).mem = s.mem := rfl
@[simp] theorem State.modUnit_poison : (s.modUnit b u f).poison = s.poison := rfl
@[simp] theorem State.modUnit_far : (s.modUnit b u f).far = s.far := rfl
@[simp] theorem State.modUnit_cores : (s.modUnit b u f).cores = s.cores := rfl
@[simp] theorem State.modUnit_dies : (s.modUnit b u f).dies = s.dies := rfl
@[simp] theorem State.modUnit_regions : (s.modUnit b u f).regions = s.regions := rfl
@[simp] theorem State.modUnit_parts : (s.modUnit b u f).parts = s.parts := rfl
@[simp] theorem State.modUnit_cmds : (s.modUnit b u f).cmds = s.cmds := rfl
@[simp] theorem State.modUnit_pageReqs : (s.modUnit b u f).pageReqs = s.pageReqs := rfl
@[simp] theorem State.modUnit_ladders : (s.modUnit b u f).ladders = s.ladders := rfl
@[simp] theorem State.modUnit_snaps : (s.modUnit b u f).snaps = s.snaps := rfl
@[simp] theorem State.modUnit_acks : (s.modUnit b u f).acks = s.acks := rfl
@[simp] theorem State.modUnit_sunk : (s.modUnit b u f).sunk = s.sunk := rfl
@[simp] theorem State.modUnit_waiting : (s.modUnit b u f).waiting = s.waiting := rfl
@[simp] theorem State.modUnit_faultQ : (s.modUnit b u f).faultQ = s.faultQ := rfl
@[simp] theorem State.modUnit_eventQ : (s.modUnit b u f).eventQ = s.eventQ := rfl
@[simp] theorem State.modUnit_ports : (s.modUnit b u f).ports = s.ports := rfl
@[simp] theorem State.modUnit_links : (s.modUnit b u f).links = s.links := rfl
@[simp] theorem State.modUnit_route : (s.modUnit b u f).route = s.route := rfl
@[simp] theorem State.modUnit_missed : (s.modUnit b u f).missed = s.missed := rfl
@[simp] theorem State.modUnit_fenced : (s.modUnit b u f).fenced = s.fenced := rfl
@[simp] theorem State.modUnit_qps : (s.modUnit b u f).qps = s.qps := rfl
@[simp] theorem State.modUnit_eth : (s.modUnit b u f).eth = s.eth := rfl
@[simp] theorem State.modUnit_boot : (s.modUnit b u f).boot = s.boot := rfl
@[simp] theorem State.modUnit_meas : (s.modUnit b u f).meas = s.meas := rfl
@[simp] theorem State.modUnit_quote : (s.modUnit b u f).quote = s.quote := rfl
@[simp] theorem State.modUnit_devNum : (s.modUnit b u f).devNum = s.devNum := rfl
@[simp] theorem State.modUnit_sysResv : (s.modUnit b u f).sysResv = s.sysResv := rfl
@[simp] theorem State.modUnit_sysRead : (s.modUnit b u f).sysRead = s.sysRead := rfl
@[simp] theorem State.modUnit_sysQueue : (s.modUnit b u f).sysQueue = s.sysQueue := rfl
@[simp] theorem State.modUnit_pcieRead : (s.modUnit b u f).pcieRead = s.pcieRead := rfl
@[simp] theorem State.modUnit_interrupts : (s.modUnit b u f).interrupts = s.interrupts := rfl
@[simp] theorem State.modUnit_cals : (s.modUnit b u f).cals = s.cals := rfl
@[simp] theorem State.modUnit_served : (s.modUnit b u f).served = s.served := rfl
@[simp] theorem State.modUnit_stops : (s.modUnit b u f).stops = s.stops := rfl
@[simp] theorem State.modUnit_reports : (s.modUnit b u f).reports = s.reports := rfl
@[simp] theorem State.modUnit_restores : (s.modUnit b u f).restores = s.restores := rfl
@[simp] theorem State.modUnit_powered : (s.modUnit b u f).powered = s.powered := rfl
@[simp] theorem State.modUnit_cur : (s.modUnit b u f).cur = s.cur := rfl
@[simp] theorem State.modUnit_stalled : (s.modUnit b u f).stalled = s.stalled := rfl
@[simp] theorem State.modUnit_agenda : (s.modUnit b u f).agenda = s.agenda := rfl
@[simp] theorem State.modUnit_timers : (s.modUnit b u f).timers = s.timers := rfl
@[simp] theorem State.modUnit_now : (s.modUnit b u f).now = s.now := rfl
@[simp] theorem State.modUnit_next : (s.modUnit b u f).next = s.next := rfl
@[simp] theorem State.modUnit_drawn : (s.modUnit b u f).drawn = s.drawn := rfl

end

/-! modRegion -/

section

variable (s : State) (r : Nat) (f : Region → Region)

@[simp] theorem State.modRegion_mem : (s.modRegion r f).mem = s.mem := rfl
@[simp] theorem State.modRegion_poison : (s.modRegion r f).poison = s.poison := rfl
@[simp] theorem State.modRegion_far : (s.modRegion r f).far = s.far := rfl
@[simp] theorem State.modRegion_blocks : (s.modRegion r f).blocks = s.blocks := rfl
@[simp] theorem State.modRegion_cores : (s.modRegion r f).cores = s.cores := rfl
@[simp] theorem State.modRegion_dies : (s.modRegion r f).dies = s.dies := rfl
@[simp] theorem State.modRegion_parts : (s.modRegion r f).parts = s.parts := rfl
@[simp] theorem State.modRegion_cmds : (s.modRegion r f).cmds = s.cmds := rfl
@[simp] theorem State.modRegion_pageReqs : (s.modRegion r f).pageReqs = s.pageReqs := rfl
@[simp] theorem State.modRegion_ladders : (s.modRegion r f).ladders = s.ladders := rfl
@[simp] theorem State.modRegion_snaps : (s.modRegion r f).snaps = s.snaps := rfl
@[simp] theorem State.modRegion_acks : (s.modRegion r f).acks = s.acks := rfl
@[simp] theorem State.modRegion_sunk : (s.modRegion r f).sunk = s.sunk := rfl
@[simp] theorem State.modRegion_waiting : (s.modRegion r f).waiting = s.waiting := rfl
@[simp] theorem State.modRegion_faultQ : (s.modRegion r f).faultQ = s.faultQ := rfl
@[simp] theorem State.modRegion_eventQ : (s.modRegion r f).eventQ = s.eventQ := rfl
@[simp] theorem State.modRegion_ports : (s.modRegion r f).ports = s.ports := rfl
@[simp] theorem State.modRegion_links : (s.modRegion r f).links = s.links := rfl
@[simp] theorem State.modRegion_route : (s.modRegion r f).route = s.route := rfl
@[simp] theorem State.modRegion_missed : (s.modRegion r f).missed = s.missed := rfl
@[simp] theorem State.modRegion_fenced : (s.modRegion r f).fenced = s.fenced := rfl
@[simp] theorem State.modRegion_qps : (s.modRegion r f).qps = s.qps := rfl
@[simp] theorem State.modRegion_eth : (s.modRegion r f).eth = s.eth := rfl
@[simp] theorem State.modRegion_boot : (s.modRegion r f).boot = s.boot := rfl
@[simp] theorem State.modRegion_meas : (s.modRegion r f).meas = s.meas := rfl
@[simp] theorem State.modRegion_quote : (s.modRegion r f).quote = s.quote := rfl
@[simp] theorem State.modRegion_devNum : (s.modRegion r f).devNum = s.devNum := rfl
@[simp] theorem State.modRegion_sysResv : (s.modRegion r f).sysResv = s.sysResv := rfl
@[simp] theorem State.modRegion_sysRead : (s.modRegion r f).sysRead = s.sysRead := rfl
@[simp] theorem State.modRegion_sysQueue : (s.modRegion r f).sysQueue = s.sysQueue := rfl
@[simp] theorem State.modRegion_pcieRead : (s.modRegion r f).pcieRead = s.pcieRead := rfl
@[simp] theorem State.modRegion_interrupts : (s.modRegion r f).interrupts = s.interrupts := rfl
@[simp] theorem State.modRegion_cals : (s.modRegion r f).cals = s.cals := rfl
@[simp] theorem State.modRegion_served : (s.modRegion r f).served = s.served := rfl
@[simp] theorem State.modRegion_stops : (s.modRegion r f).stops = s.stops := rfl
@[simp] theorem State.modRegion_reports : (s.modRegion r f).reports = s.reports := rfl
@[simp] theorem State.modRegion_restores : (s.modRegion r f).restores = s.restores := rfl
@[simp] theorem State.modRegion_powered : (s.modRegion r f).powered = s.powered := rfl
@[simp] theorem State.modRegion_cur : (s.modRegion r f).cur = s.cur := rfl
@[simp] theorem State.modRegion_stalled : (s.modRegion r f).stalled = s.stalled := rfl
@[simp] theorem State.modRegion_agenda : (s.modRegion r f).agenda = s.agenda := rfl
@[simp] theorem State.modRegion_timers : (s.modRegion r f).timers = s.timers := rfl
@[simp] theorem State.modRegion_now : (s.modRegion r f).now = s.now := rfl
@[simp] theorem State.modRegion_next : (s.modRegion r f).next = s.next := rfl
@[simp] theorem State.modRegion_drawn : (s.modRegion r f).drawn = s.drawn := rfl

end

/-! modCmd -/

section

variable (s : State) (c : Nat) (f : Cmd → Cmd)

@[simp] theorem State.modCmd_mem : (s.modCmd c f).mem = s.mem := rfl
@[simp] theorem State.modCmd_poison : (s.modCmd c f).poison = s.poison := rfl
@[simp] theorem State.modCmd_far : (s.modCmd c f).far = s.far := rfl
@[simp] theorem State.modCmd_blocks : (s.modCmd c f).blocks = s.blocks := rfl
@[simp] theorem State.modCmd_cores : (s.modCmd c f).cores = s.cores := rfl
@[simp] theorem State.modCmd_dies : (s.modCmd c f).dies = s.dies := rfl
@[simp] theorem State.modCmd_regions : (s.modCmd c f).regions = s.regions := rfl
@[simp] theorem State.modCmd_parts : (s.modCmd c f).parts = s.parts := rfl
@[simp] theorem State.modCmd_pageReqs : (s.modCmd c f).pageReqs = s.pageReqs := rfl
@[simp] theorem State.modCmd_ladders : (s.modCmd c f).ladders = s.ladders := rfl
@[simp] theorem State.modCmd_snaps : (s.modCmd c f).snaps = s.snaps := rfl
@[simp] theorem State.modCmd_acks : (s.modCmd c f).acks = s.acks := rfl
@[simp] theorem State.modCmd_sunk : (s.modCmd c f).sunk = s.sunk := rfl
@[simp] theorem State.modCmd_waiting : (s.modCmd c f).waiting = s.waiting := rfl
@[simp] theorem State.modCmd_faultQ : (s.modCmd c f).faultQ = s.faultQ := rfl
@[simp] theorem State.modCmd_eventQ : (s.modCmd c f).eventQ = s.eventQ := rfl
@[simp] theorem State.modCmd_ports : (s.modCmd c f).ports = s.ports := rfl
@[simp] theorem State.modCmd_links : (s.modCmd c f).links = s.links := rfl
@[simp] theorem State.modCmd_route : (s.modCmd c f).route = s.route := rfl
@[simp] theorem State.modCmd_missed : (s.modCmd c f).missed = s.missed := rfl
@[simp] theorem State.modCmd_fenced : (s.modCmd c f).fenced = s.fenced := rfl
@[simp] theorem State.modCmd_qps : (s.modCmd c f).qps = s.qps := rfl
@[simp] theorem State.modCmd_eth : (s.modCmd c f).eth = s.eth := rfl
@[simp] theorem State.modCmd_boot : (s.modCmd c f).boot = s.boot := rfl
@[simp] theorem State.modCmd_meas : (s.modCmd c f).meas = s.meas := rfl
@[simp] theorem State.modCmd_quote : (s.modCmd c f).quote = s.quote := rfl
@[simp] theorem State.modCmd_devNum : (s.modCmd c f).devNum = s.devNum := rfl
@[simp] theorem State.modCmd_sysResv : (s.modCmd c f).sysResv = s.sysResv := rfl
@[simp] theorem State.modCmd_sysRead : (s.modCmd c f).sysRead = s.sysRead := rfl
@[simp] theorem State.modCmd_sysQueue : (s.modCmd c f).sysQueue = s.sysQueue := rfl
@[simp] theorem State.modCmd_pcieRead : (s.modCmd c f).pcieRead = s.pcieRead := rfl
@[simp] theorem State.modCmd_interrupts : (s.modCmd c f).interrupts = s.interrupts := rfl
@[simp] theorem State.modCmd_cals : (s.modCmd c f).cals = s.cals := rfl
@[simp] theorem State.modCmd_served : (s.modCmd c f).served = s.served := rfl
@[simp] theorem State.modCmd_stops : (s.modCmd c f).stops = s.stops := rfl
@[simp] theorem State.modCmd_reports : (s.modCmd c f).reports = s.reports := rfl
@[simp] theorem State.modCmd_restores : (s.modCmd c f).restores = s.restores := rfl
@[simp] theorem State.modCmd_powered : (s.modCmd c f).powered = s.powered := rfl
@[simp] theorem State.modCmd_cur : (s.modCmd c f).cur = s.cur := rfl
@[simp] theorem State.modCmd_stalled : (s.modCmd c f).stalled = s.stalled := rfl
@[simp] theorem State.modCmd_agenda : (s.modCmd c f).agenda = s.agenda := rfl
@[simp] theorem State.modCmd_timers : (s.modCmd c f).timers = s.timers := rfl
@[simp] theorem State.modCmd_now : (s.modCmd c f).now = s.now := rfl
@[simp] theorem State.modCmd_next : (s.modCmd c f).next = s.next := rfl
@[simp] theorem State.modCmd_drawn : (s.modCmd c f).drawn = s.drawn := rfl

end

/-! modLadder -/

section

variable (s : State) (l : Nat) (f : Ladder → Ladder)

@[simp] theorem State.modLadder_mem : (s.modLadder l f).mem = s.mem := rfl
@[simp] theorem State.modLadder_poison : (s.modLadder l f).poison = s.poison := rfl
@[simp] theorem State.modLadder_far : (s.modLadder l f).far = s.far := rfl
@[simp] theorem State.modLadder_blocks : (s.modLadder l f).blocks = s.blocks := rfl
@[simp] theorem State.modLadder_cores : (s.modLadder l f).cores = s.cores := rfl
@[simp] theorem State.modLadder_dies : (s.modLadder l f).dies = s.dies := rfl
@[simp] theorem State.modLadder_regions : (s.modLadder l f).regions = s.regions := rfl
@[simp] theorem State.modLadder_parts : (s.modLadder l f).parts = s.parts := rfl
@[simp] theorem State.modLadder_cmds : (s.modLadder l f).cmds = s.cmds := rfl
@[simp] theorem State.modLadder_pageReqs : (s.modLadder l f).pageReqs = s.pageReqs := rfl
@[simp] theorem State.modLadder_snaps : (s.modLadder l f).snaps = s.snaps := rfl
@[simp] theorem State.modLadder_acks : (s.modLadder l f).acks = s.acks := rfl
@[simp] theorem State.modLadder_sunk : (s.modLadder l f).sunk = s.sunk := rfl
@[simp] theorem State.modLadder_waiting : (s.modLadder l f).waiting = s.waiting := rfl
@[simp] theorem State.modLadder_faultQ : (s.modLadder l f).faultQ = s.faultQ := rfl
@[simp] theorem State.modLadder_eventQ : (s.modLadder l f).eventQ = s.eventQ := rfl
@[simp] theorem State.modLadder_ports : (s.modLadder l f).ports = s.ports := rfl
@[simp] theorem State.modLadder_links : (s.modLadder l f).links = s.links := rfl
@[simp] theorem State.modLadder_route : (s.modLadder l f).route = s.route := rfl
@[simp] theorem State.modLadder_missed : (s.modLadder l f).missed = s.missed := rfl
@[simp] theorem State.modLadder_fenced : (s.modLadder l f).fenced = s.fenced := rfl
@[simp] theorem State.modLadder_qps : (s.modLadder l f).qps = s.qps := rfl
@[simp] theorem State.modLadder_eth : (s.modLadder l f).eth = s.eth := rfl
@[simp] theorem State.modLadder_boot : (s.modLadder l f).boot = s.boot := rfl
@[simp] theorem State.modLadder_meas : (s.modLadder l f).meas = s.meas := rfl
@[simp] theorem State.modLadder_quote : (s.modLadder l f).quote = s.quote := rfl
@[simp] theorem State.modLadder_devNum : (s.modLadder l f).devNum = s.devNum := rfl
@[simp] theorem State.modLadder_sysResv : (s.modLadder l f).sysResv = s.sysResv := rfl
@[simp] theorem State.modLadder_sysRead : (s.modLadder l f).sysRead = s.sysRead := rfl
@[simp] theorem State.modLadder_sysQueue : (s.modLadder l f).sysQueue = s.sysQueue := rfl
@[simp] theorem State.modLadder_pcieRead : (s.modLadder l f).pcieRead = s.pcieRead := rfl
@[simp] theorem State.modLadder_interrupts : (s.modLadder l f).interrupts = s.interrupts := rfl
@[simp] theorem State.modLadder_cals : (s.modLadder l f).cals = s.cals := rfl
@[simp] theorem State.modLadder_served : (s.modLadder l f).served = s.served := rfl
@[simp] theorem State.modLadder_stops : (s.modLadder l f).stops = s.stops := rfl
@[simp] theorem State.modLadder_reports : (s.modLadder l f).reports = s.reports := rfl
@[simp] theorem State.modLadder_restores : (s.modLadder l f).restores = s.restores := rfl
@[simp] theorem State.modLadder_powered : (s.modLadder l f).powered = s.powered := rfl
@[simp] theorem State.modLadder_cur : (s.modLadder l f).cur = s.cur := rfl
@[simp] theorem State.modLadder_stalled : (s.modLadder l f).stalled = s.stalled := rfl
@[simp] theorem State.modLadder_agenda : (s.modLadder l f).agenda = s.agenda := rfl
@[simp] theorem State.modLadder_timers : (s.modLadder l f).timers = s.timers := rfl
@[simp] theorem State.modLadder_now : (s.modLadder l f).now = s.now := rfl
@[simp] theorem State.modLadder_next : (s.modLadder l f).next = s.next := rfl
@[simp] theorem State.modLadder_drawn : (s.modLadder l f).drawn = s.drawn := rfl

end

/-! push -/

section

variable (s : State) (i : Instr)

@[simp] theorem State.push_mem : (s.push i).mem = s.mem := rfl
@[simp] theorem State.push_poison : (s.push i).poison = s.poison := rfl
@[simp] theorem State.push_far : (s.push i).far = s.far := rfl
@[simp] theorem State.push_blocks : (s.push i).blocks = s.blocks := rfl
@[simp] theorem State.push_cores : (s.push i).cores = s.cores := rfl
@[simp] theorem State.push_dies : (s.push i).dies = s.dies := rfl
@[simp] theorem State.push_regions : (s.push i).regions = s.regions := rfl
@[simp] theorem State.push_parts : (s.push i).parts = s.parts := rfl
@[simp] theorem State.push_cmds : (s.push i).cmds = s.cmds := rfl
@[simp] theorem State.push_pageReqs : (s.push i).pageReqs = s.pageReqs := rfl
@[simp] theorem State.push_ladders : (s.push i).ladders = s.ladders := rfl
@[simp] theorem State.push_snaps : (s.push i).snaps = s.snaps := rfl
@[simp] theorem State.push_acks : (s.push i).acks = s.acks := rfl
@[simp] theorem State.push_sunk : (s.push i).sunk = s.sunk := rfl
@[simp] theorem State.push_waiting : (s.push i).waiting = s.waiting := rfl
@[simp] theorem State.push_faultQ : (s.push i).faultQ = s.faultQ := rfl
@[simp] theorem State.push_eventQ : (s.push i).eventQ = s.eventQ := rfl
@[simp] theorem State.push_ports : (s.push i).ports = s.ports := rfl
@[simp] theorem State.push_links : (s.push i).links = s.links := rfl
@[simp] theorem State.push_route : (s.push i).route = s.route := rfl
@[simp] theorem State.push_missed : (s.push i).missed = s.missed := rfl
@[simp] theorem State.push_fenced : (s.push i).fenced = s.fenced := rfl
@[simp] theorem State.push_qps : (s.push i).qps = s.qps := rfl
@[simp] theorem State.push_eth : (s.push i).eth = s.eth := rfl
@[simp] theorem State.push_boot : (s.push i).boot = s.boot := rfl
@[simp] theorem State.push_meas : (s.push i).meas = s.meas := rfl
@[simp] theorem State.push_quote : (s.push i).quote = s.quote := rfl
@[simp] theorem State.push_devNum : (s.push i).devNum = s.devNum := rfl
@[simp] theorem State.push_sysResv : (s.push i).sysResv = s.sysResv := rfl
@[simp] theorem State.push_sysRead : (s.push i).sysRead = s.sysRead := rfl
@[simp] theorem State.push_sysQueue : (s.push i).sysQueue = s.sysQueue := rfl
@[simp] theorem State.push_pcieRead : (s.push i).pcieRead = s.pcieRead := rfl
@[simp] theorem State.push_interrupts : (s.push i).interrupts = s.interrupts := rfl
@[simp] theorem State.push_cals : (s.push i).cals = s.cals := rfl
@[simp] theorem State.push_served : (s.push i).served = s.served := rfl
@[simp] theorem State.push_stops : (s.push i).stops = s.stops := rfl
@[simp] theorem State.push_reports : (s.push i).reports = s.reports := rfl
@[simp] theorem State.push_restores : (s.push i).restores = s.restores := rfl
@[simp] theorem State.push_powered : (s.push i).powered = s.powered := rfl
@[simp] theorem State.push_cur : (s.push i).cur = s.cur := rfl
@[simp] theorem State.push_stalled : (s.push i).stalled = s.stalled := rfl
@[simp] theorem State.push_timers : (s.push i).timers = s.timers := rfl
@[simp] theorem State.push_now : (s.push i).now = s.now := rfl
@[simp] theorem State.push_next : (s.push i).next = s.next := rfl
@[simp] theorem State.push_drawn : (s.push i).drawn = s.drawn := rfl

end

/-! at -/

section

variable (s : State) (n : Nat) (i : Instr)

@[simp] theorem State.at_mem : (s.at n i).mem = s.mem := rfl
@[simp] theorem State.at_poison : (s.at n i).poison = s.poison := rfl
@[simp] theorem State.at_far : (s.at n i).far = s.far := rfl
@[simp] theorem State.at_blocks : (s.at n i).blocks = s.blocks := rfl
@[simp] theorem State.at_cores : (s.at n i).cores = s.cores := rfl
@[simp] theorem State.at_dies : (s.at n i).dies = s.dies := rfl
@[simp] theorem State.at_regions : (s.at n i).regions = s.regions := rfl
@[simp] theorem State.at_parts : (s.at n i).parts = s.parts := rfl
@[simp] theorem State.at_cmds : (s.at n i).cmds = s.cmds := rfl
@[simp] theorem State.at_pageReqs : (s.at n i).pageReqs = s.pageReqs := rfl
@[simp] theorem State.at_ladders : (s.at n i).ladders = s.ladders := rfl
@[simp] theorem State.at_snaps : (s.at n i).snaps = s.snaps := rfl
@[simp] theorem State.at_acks : (s.at n i).acks = s.acks := rfl
@[simp] theorem State.at_sunk : (s.at n i).sunk = s.sunk := rfl
@[simp] theorem State.at_waiting : (s.at n i).waiting = s.waiting := rfl
@[simp] theorem State.at_faultQ : (s.at n i).faultQ = s.faultQ := rfl
@[simp] theorem State.at_eventQ : (s.at n i).eventQ = s.eventQ := rfl
@[simp] theorem State.at_ports : (s.at n i).ports = s.ports := rfl
@[simp] theorem State.at_links : (s.at n i).links = s.links := rfl
@[simp] theorem State.at_route : (s.at n i).route = s.route := rfl
@[simp] theorem State.at_missed : (s.at n i).missed = s.missed := rfl
@[simp] theorem State.at_fenced : (s.at n i).fenced = s.fenced := rfl
@[simp] theorem State.at_qps : (s.at n i).qps = s.qps := rfl
@[simp] theorem State.at_eth : (s.at n i).eth = s.eth := rfl
@[simp] theorem State.at_boot : (s.at n i).boot = s.boot := rfl
@[simp] theorem State.at_meas : (s.at n i).meas = s.meas := rfl
@[simp] theorem State.at_quote : (s.at n i).quote = s.quote := rfl
@[simp] theorem State.at_devNum : (s.at n i).devNum = s.devNum := rfl
@[simp] theorem State.at_sysResv : (s.at n i).sysResv = s.sysResv := rfl
@[simp] theorem State.at_sysRead : (s.at n i).sysRead = s.sysRead := rfl
@[simp] theorem State.at_sysQueue : (s.at n i).sysQueue = s.sysQueue := rfl
@[simp] theorem State.at_pcieRead : (s.at n i).pcieRead = s.pcieRead := rfl
@[simp] theorem State.at_interrupts : (s.at n i).interrupts = s.interrupts := rfl
@[simp] theorem State.at_cals : (s.at n i).cals = s.cals := rfl
@[simp] theorem State.at_served : (s.at n i).served = s.served := rfl
@[simp] theorem State.at_stops : (s.at n i).stops = s.stops := rfl
@[simp] theorem State.at_reports : (s.at n i).reports = s.reports := rfl
@[simp] theorem State.at_restores : (s.at n i).restores = s.restores := rfl
@[simp] theorem State.at_powered : (s.at n i).powered = s.powered := rfl
@[simp] theorem State.at_cur : (s.at n i).cur = s.cur := rfl
@[simp] theorem State.at_stalled : (s.at n i).stalled = s.stalled := rfl
@[simp] theorem State.at_agenda : (s.at n i).agenda = s.agenda := rfl
@[simp] theorem State.at_now : (s.at n i).now = s.now := rfl
@[simp] theorem State.at_next : (s.at n i).next = s.next := rfl
@[simp] theorem State.at_drawn : (s.at n i).drawn = s.drawn := rfl

end

/-! drop -/

section

variable (s : State) (i : Instr)

@[simp] theorem State.drop_mem : (s.drop i).mem = s.mem := rfl
@[simp] theorem State.drop_poison : (s.drop i).poison = s.poison := rfl
@[simp] theorem State.drop_far : (s.drop i).far = s.far := rfl
@[simp] theorem State.drop_blocks : (s.drop i).blocks = s.blocks := rfl
@[simp] theorem State.drop_cores : (s.drop i).cores = s.cores := rfl
@[simp] theorem State.drop_dies : (s.drop i).dies = s.dies := rfl
@[simp] theorem State.drop_regions : (s.drop i).regions = s.regions := rfl
@[simp] theorem State.drop_parts : (s.drop i).parts = s.parts := rfl
@[simp] theorem State.drop_cmds : (s.drop i).cmds = s.cmds := rfl
@[simp] theorem State.drop_pageReqs : (s.drop i).pageReqs = s.pageReqs := rfl
@[simp] theorem State.drop_ladders : (s.drop i).ladders = s.ladders := rfl
@[simp] theorem State.drop_snaps : (s.drop i).snaps = s.snaps := rfl
@[simp] theorem State.drop_acks : (s.drop i).acks = s.acks := rfl
@[simp] theorem State.drop_sunk : (s.drop i).sunk = s.sunk := rfl
@[simp] theorem State.drop_waiting : (s.drop i).waiting = s.waiting := rfl
@[simp] theorem State.drop_faultQ : (s.drop i).faultQ = s.faultQ := rfl
@[simp] theorem State.drop_eventQ : (s.drop i).eventQ = s.eventQ := rfl
@[simp] theorem State.drop_ports : (s.drop i).ports = s.ports := rfl
@[simp] theorem State.drop_links : (s.drop i).links = s.links := rfl
@[simp] theorem State.drop_route : (s.drop i).route = s.route := rfl
@[simp] theorem State.drop_missed : (s.drop i).missed = s.missed := rfl
@[simp] theorem State.drop_fenced : (s.drop i).fenced = s.fenced := rfl
@[simp] theorem State.drop_qps : (s.drop i).qps = s.qps := rfl
@[simp] theorem State.drop_eth : (s.drop i).eth = s.eth := rfl
@[simp] theorem State.drop_boot : (s.drop i).boot = s.boot := rfl
@[simp] theorem State.drop_meas : (s.drop i).meas = s.meas := rfl
@[simp] theorem State.drop_quote : (s.drop i).quote = s.quote := rfl
@[simp] theorem State.drop_devNum : (s.drop i).devNum = s.devNum := rfl
@[simp] theorem State.drop_sysResv : (s.drop i).sysResv = s.sysResv := rfl
@[simp] theorem State.drop_sysRead : (s.drop i).sysRead = s.sysRead := rfl
@[simp] theorem State.drop_sysQueue : (s.drop i).sysQueue = s.sysQueue := rfl
@[simp] theorem State.drop_pcieRead : (s.drop i).pcieRead = s.pcieRead := rfl
@[simp] theorem State.drop_interrupts : (s.drop i).interrupts = s.interrupts := rfl
@[simp] theorem State.drop_cals : (s.drop i).cals = s.cals := rfl
@[simp] theorem State.drop_served : (s.drop i).served = s.served := rfl
@[simp] theorem State.drop_stops : (s.drop i).stops = s.stops := rfl
@[simp] theorem State.drop_reports : (s.drop i).reports = s.reports := rfl
@[simp] theorem State.drop_restores : (s.drop i).restores = s.restores := rfl
@[simp] theorem State.drop_powered : (s.drop i).powered = s.powered := rfl
@[simp] theorem State.drop_cur : (s.drop i).cur = s.cur := rfl
@[simp] theorem State.drop_stalled : (s.drop i).stalled = s.stalled := rfl
@[simp] theorem State.drop_timers : (s.drop i).timers = s.timers := rfl
@[simp] theorem State.drop_now : (s.drop i).now = s.now := rfl
@[simp] theorem State.drop_next : (s.drop i).next = s.next := rfl
@[simp] theorem State.drop_drawn : (s.drop i).drawn = s.drawn := rfl

end

/-! wrBytes -/

section

variable (s : State) (a : Nat) (l : List Byte)

@[simp] theorem State.wrBytes_poison : (s.wrBytes a l).poison = s.poison := rfl
@[simp] theorem State.wrBytes_far : (s.wrBytes a l).far = s.far := rfl
@[simp] theorem State.wrBytes_blocks : (s.wrBytes a l).blocks = s.blocks := rfl
@[simp] theorem State.wrBytes_cores : (s.wrBytes a l).cores = s.cores := rfl
@[simp] theorem State.wrBytes_dies : (s.wrBytes a l).dies = s.dies := rfl
@[simp] theorem State.wrBytes_regions : (s.wrBytes a l).regions = s.regions := rfl
@[simp] theorem State.wrBytes_parts : (s.wrBytes a l).parts = s.parts := rfl
@[simp] theorem State.wrBytes_cmds : (s.wrBytes a l).cmds = s.cmds := rfl
@[simp] theorem State.wrBytes_pageReqs : (s.wrBytes a l).pageReqs = s.pageReqs := rfl
@[simp] theorem State.wrBytes_ladders : (s.wrBytes a l).ladders = s.ladders := rfl
@[simp] theorem State.wrBytes_snaps : (s.wrBytes a l).snaps = s.snaps := rfl
@[simp] theorem State.wrBytes_acks : (s.wrBytes a l).acks = s.acks := rfl
@[simp] theorem State.wrBytes_sunk : (s.wrBytes a l).sunk = s.sunk := rfl
@[simp] theorem State.wrBytes_waiting : (s.wrBytes a l).waiting = s.waiting := rfl
@[simp] theorem State.wrBytes_faultQ : (s.wrBytes a l).faultQ = s.faultQ := rfl
@[simp] theorem State.wrBytes_eventQ : (s.wrBytes a l).eventQ = s.eventQ := rfl
@[simp] theorem State.wrBytes_ports : (s.wrBytes a l).ports = s.ports := rfl
@[simp] theorem State.wrBytes_links : (s.wrBytes a l).links = s.links := rfl
@[simp] theorem State.wrBytes_route : (s.wrBytes a l).route = s.route := rfl
@[simp] theorem State.wrBytes_missed : (s.wrBytes a l).missed = s.missed := rfl
@[simp] theorem State.wrBytes_fenced : (s.wrBytes a l).fenced = s.fenced := rfl
@[simp] theorem State.wrBytes_qps : (s.wrBytes a l).qps = s.qps := rfl
@[simp] theorem State.wrBytes_eth : (s.wrBytes a l).eth = s.eth := rfl
@[simp] theorem State.wrBytes_boot : (s.wrBytes a l).boot = s.boot := rfl
@[simp] theorem State.wrBytes_meas : (s.wrBytes a l).meas = s.meas := rfl
@[simp] theorem State.wrBytes_quote : (s.wrBytes a l).quote = s.quote := rfl
@[simp] theorem State.wrBytes_devNum : (s.wrBytes a l).devNum = s.devNum := rfl
@[simp] theorem State.wrBytes_sysResv : (s.wrBytes a l).sysResv = s.sysResv := rfl
@[simp] theorem State.wrBytes_sysRead : (s.wrBytes a l).sysRead = s.sysRead := rfl
@[simp] theorem State.wrBytes_sysQueue : (s.wrBytes a l).sysQueue = s.sysQueue := rfl
@[simp] theorem State.wrBytes_pcieRead : (s.wrBytes a l).pcieRead = s.pcieRead := rfl
@[simp] theorem State.wrBytes_interrupts : (s.wrBytes a l).interrupts = s.interrupts := rfl
@[simp] theorem State.wrBytes_cals : (s.wrBytes a l).cals = s.cals := rfl
@[simp] theorem State.wrBytes_served : (s.wrBytes a l).served = s.served := rfl
@[simp] theorem State.wrBytes_stops : (s.wrBytes a l).stops = s.stops := rfl
@[simp] theorem State.wrBytes_reports : (s.wrBytes a l).reports = s.reports := rfl
@[simp] theorem State.wrBytes_restores : (s.wrBytes a l).restores = s.restores := rfl
@[simp] theorem State.wrBytes_powered : (s.wrBytes a l).powered = s.powered := rfl
@[simp] theorem State.wrBytes_cur : (s.wrBytes a l).cur = s.cur := rfl
@[simp] theorem State.wrBytes_stalled : (s.wrBytes a l).stalled = s.stalled := rfl
@[simp] theorem State.wrBytes_agenda : (s.wrBytes a l).agenda = s.agenda := rfl
@[simp] theorem State.wrBytes_timers : (s.wrBytes a l).timers = s.timers := rfl
@[simp] theorem State.wrBytes_now : (s.wrBytes a l).now = s.now := rfl
@[simp] theorem State.wrBytes_next : (s.wrBytes a l).next = s.next := rfl
@[simp] theorem State.wrBytes_drawn : (s.wrBytes a l).drawn = s.drawn := rfl

end

/-! wrNat -/

section

variable (s : State) (a n x : Nat)

@[simp] theorem State.wrNat_poison : (s.wrNat a n x).poison = s.poison := rfl
@[simp] theorem State.wrNat_far : (s.wrNat a n x).far = s.far := rfl
@[simp] theorem State.wrNat_blocks : (s.wrNat a n x).blocks = s.blocks := rfl
@[simp] theorem State.wrNat_cores : (s.wrNat a n x).cores = s.cores := rfl
@[simp] theorem State.wrNat_dies : (s.wrNat a n x).dies = s.dies := rfl
@[simp] theorem State.wrNat_regions : (s.wrNat a n x).regions = s.regions := rfl
@[simp] theorem State.wrNat_parts : (s.wrNat a n x).parts = s.parts := rfl
@[simp] theorem State.wrNat_cmds : (s.wrNat a n x).cmds = s.cmds := rfl
@[simp] theorem State.wrNat_pageReqs : (s.wrNat a n x).pageReqs = s.pageReqs := rfl
@[simp] theorem State.wrNat_ladders : (s.wrNat a n x).ladders = s.ladders := rfl
@[simp] theorem State.wrNat_snaps : (s.wrNat a n x).snaps = s.snaps := rfl
@[simp] theorem State.wrNat_acks : (s.wrNat a n x).acks = s.acks := rfl
@[simp] theorem State.wrNat_sunk : (s.wrNat a n x).sunk = s.sunk := rfl
@[simp] theorem State.wrNat_waiting : (s.wrNat a n x).waiting = s.waiting := rfl
@[simp] theorem State.wrNat_faultQ : (s.wrNat a n x).faultQ = s.faultQ := rfl
@[simp] theorem State.wrNat_eventQ : (s.wrNat a n x).eventQ = s.eventQ := rfl
@[simp] theorem State.wrNat_ports : (s.wrNat a n x).ports = s.ports := rfl
@[simp] theorem State.wrNat_links : (s.wrNat a n x).links = s.links := rfl
@[simp] theorem State.wrNat_route : (s.wrNat a n x).route = s.route := rfl
@[simp] theorem State.wrNat_missed : (s.wrNat a n x).missed = s.missed := rfl
@[simp] theorem State.wrNat_fenced : (s.wrNat a n x).fenced = s.fenced := rfl
@[simp] theorem State.wrNat_qps : (s.wrNat a n x).qps = s.qps := rfl
@[simp] theorem State.wrNat_eth : (s.wrNat a n x).eth = s.eth := rfl
@[simp] theorem State.wrNat_boot : (s.wrNat a n x).boot = s.boot := rfl
@[simp] theorem State.wrNat_meas : (s.wrNat a n x).meas = s.meas := rfl
@[simp] theorem State.wrNat_quote : (s.wrNat a n x).quote = s.quote := rfl
@[simp] theorem State.wrNat_devNum : (s.wrNat a n x).devNum = s.devNum := rfl
@[simp] theorem State.wrNat_sysResv : (s.wrNat a n x).sysResv = s.sysResv := rfl
@[simp] theorem State.wrNat_sysRead : (s.wrNat a n x).sysRead = s.sysRead := rfl
@[simp] theorem State.wrNat_sysQueue : (s.wrNat a n x).sysQueue = s.sysQueue := rfl
@[simp] theorem State.wrNat_pcieRead : (s.wrNat a n x).pcieRead = s.pcieRead := rfl
@[simp] theorem State.wrNat_interrupts : (s.wrNat a n x).interrupts = s.interrupts := rfl
@[simp] theorem State.wrNat_cals : (s.wrNat a n x).cals = s.cals := rfl
@[simp] theorem State.wrNat_served : (s.wrNat a n x).served = s.served := rfl
@[simp] theorem State.wrNat_stops : (s.wrNat a n x).stops = s.stops := rfl
@[simp] theorem State.wrNat_reports : (s.wrNat a n x).reports = s.reports := rfl
@[simp] theorem State.wrNat_restores : (s.wrNat a n x).restores = s.restores := rfl
@[simp] theorem State.wrNat_powered : (s.wrNat a n x).powered = s.powered := rfl
@[simp] theorem State.wrNat_cur : (s.wrNat a n x).cur = s.cur := rfl
@[simp] theorem State.wrNat_stalled : (s.wrNat a n x).stalled = s.stalled := rfl
@[simp] theorem State.wrNat_agenda : (s.wrNat a n x).agenda = s.agenda := rfl
@[simp] theorem State.wrNat_timers : (s.wrNat a n x).timers = s.timers := rfl
@[simp] theorem State.wrNat_now : (s.wrNat a n x).now = s.now := rfl
@[simp] theorem State.wrNat_next : (s.wrNat a n x).next = s.next := rfl
@[simp] theorem State.wrNat_drawn : (s.wrNat a n x).drawn = s.drawn := rfl

end

/-! post -/

section

variable (s : State) (kind unit die regid loc : Nat)

@[simp] theorem State.post_mem : (s.post kind unit die regid loc).mem = s.mem := rfl
@[simp] theorem State.post_poison : (s.post kind unit die regid loc).poison = s.poison := rfl
@[simp] theorem State.post_far : (s.post kind unit die regid loc).far = s.far := rfl
@[simp] theorem State.post_blocks : (s.post kind unit die regid loc).blocks = s.blocks := rfl
@[simp] theorem State.post_cores : (s.post kind unit die regid loc).cores = s.cores := rfl
@[simp] theorem State.post_dies : (s.post kind unit die regid loc).dies = s.dies := rfl
@[simp] theorem State.post_regions : (s.post kind unit die regid loc).regions = s.regions := rfl
@[simp] theorem State.post_parts : (s.post kind unit die regid loc).parts = s.parts := rfl
@[simp] theorem State.post_cmds : (s.post kind unit die regid loc).cmds = s.cmds := rfl
@[simp] theorem State.post_pageReqs : (s.post kind unit die regid loc).pageReqs = s.pageReqs := rfl
@[simp] theorem State.post_ladders : (s.post kind unit die regid loc).ladders = s.ladders := rfl
@[simp] theorem State.post_snaps : (s.post kind unit die regid loc).snaps = s.snaps := rfl
@[simp] theorem State.post_acks : (s.post kind unit die regid loc).acks = s.acks := rfl
@[simp] theorem State.post_sunk : (s.post kind unit die regid loc).sunk = s.sunk := rfl
@[simp] theorem State.post_waiting : (s.post kind unit die regid loc).waiting = s.waiting := rfl
@[simp] theorem State.post_faultQ : (s.post kind unit die regid loc).faultQ = s.faultQ := rfl
@[simp] theorem State.post_ports : (s.post kind unit die regid loc).ports = s.ports := rfl
@[simp] theorem State.post_links : (s.post kind unit die regid loc).links = s.links := rfl
@[simp] theorem State.post_route : (s.post kind unit die regid loc).route = s.route := rfl
@[simp] theorem State.post_missed : (s.post kind unit die regid loc).missed = s.missed := rfl
@[simp] theorem State.post_fenced : (s.post kind unit die regid loc).fenced = s.fenced := rfl
@[simp] theorem State.post_qps : (s.post kind unit die regid loc).qps = s.qps := rfl
@[simp] theorem State.post_eth : (s.post kind unit die regid loc).eth = s.eth := rfl
@[simp] theorem State.post_boot : (s.post kind unit die regid loc).boot = s.boot := rfl
@[simp] theorem State.post_meas : (s.post kind unit die regid loc).meas = s.meas := rfl
@[simp] theorem State.post_quote : (s.post kind unit die regid loc).quote = s.quote := rfl
@[simp] theorem State.post_devNum : (s.post kind unit die regid loc).devNum = s.devNum := rfl
@[simp] theorem State.post_sysResv : (s.post kind unit die regid loc).sysResv = s.sysResv := rfl
@[simp] theorem State.post_sysRead : (s.post kind unit die regid loc).sysRead = s.sysRead := rfl
@[simp] theorem State.post_sysQueue : (s.post kind unit die regid loc).sysQueue = s.sysQueue := rfl
@[simp] theorem State.post_pcieRead : (s.post kind unit die regid loc).pcieRead = s.pcieRead := rfl
@[simp] theorem State.post_interrupts : (s.post kind unit die regid loc).interrupts = s.interrupts := rfl
@[simp] theorem State.post_cals : (s.post kind unit die regid loc).cals = s.cals := rfl
@[simp] theorem State.post_served : (s.post kind unit die regid loc).served = s.served := rfl
@[simp] theorem State.post_stops : (s.post kind unit die regid loc).stops = s.stops := rfl
@[simp] theorem State.post_reports : (s.post kind unit die regid loc).reports = s.reports := rfl
@[simp] theorem State.post_restores : (s.post kind unit die regid loc).restores = s.restores := rfl
@[simp] theorem State.post_powered : (s.post kind unit die regid loc).powered = s.powered := rfl
@[simp] theorem State.post_cur : (s.post kind unit die regid loc).cur = s.cur := rfl
@[simp] theorem State.post_stalled : (s.post kind unit die regid loc).stalled = s.stalled := rfl
@[simp] theorem State.post_agenda : (s.post kind unit die regid loc).agenda = s.agenda := rfl
@[simp] theorem State.post_timers : (s.post kind unit die regid loc).timers = s.timers := rfl
@[simp] theorem State.post_now : (s.post kind unit die regid loc).now = s.now := rfl
@[simp] theorem State.post_next : (s.post kind unit die regid loc).next = s.next := rfl
@[simp] theorem State.post_drawn : (s.post kind unit die regid loc).drawn = s.drawn := rfl

end

/-! raiseLtime -/

section

variable (s : State) (c n : Nat)

@[simp] theorem State.raiseLtime_mem : (s.raiseLtime c n).mem = s.mem := rfl
@[simp] theorem State.raiseLtime_poison : (s.raiseLtime c n).poison = s.poison := rfl
@[simp] theorem State.raiseLtime_far : (s.raiseLtime c n).far = s.far := rfl
@[simp] theorem State.raiseLtime_blocks : (s.raiseLtime c n).blocks = s.blocks := rfl
@[simp] theorem State.raiseLtime_dies : (s.raiseLtime c n).dies = s.dies := rfl
@[simp] theorem State.raiseLtime_regions : (s.raiseLtime c n).regions = s.regions := rfl
@[simp] theorem State.raiseLtime_parts : (s.raiseLtime c n).parts = s.parts := rfl
@[simp] theorem State.raiseLtime_cmds : (s.raiseLtime c n).cmds = s.cmds := rfl
@[simp] theorem State.raiseLtime_pageReqs : (s.raiseLtime c n).pageReqs = s.pageReqs := rfl
@[simp] theorem State.raiseLtime_ladders : (s.raiseLtime c n).ladders = s.ladders := rfl
@[simp] theorem State.raiseLtime_snaps : (s.raiseLtime c n).snaps = s.snaps := rfl
@[simp] theorem State.raiseLtime_acks : (s.raiseLtime c n).acks = s.acks := rfl
@[simp] theorem State.raiseLtime_sunk : (s.raiseLtime c n).sunk = s.sunk := rfl
@[simp] theorem State.raiseLtime_waiting : (s.raiseLtime c n).waiting = s.waiting := rfl
@[simp] theorem State.raiseLtime_faultQ : (s.raiseLtime c n).faultQ = s.faultQ := rfl
@[simp] theorem State.raiseLtime_eventQ : (s.raiseLtime c n).eventQ = s.eventQ := rfl
@[simp] theorem State.raiseLtime_ports : (s.raiseLtime c n).ports = s.ports := rfl
@[simp] theorem State.raiseLtime_links : (s.raiseLtime c n).links = s.links := rfl
@[simp] theorem State.raiseLtime_route : (s.raiseLtime c n).route = s.route := rfl
@[simp] theorem State.raiseLtime_missed : (s.raiseLtime c n).missed = s.missed := rfl
@[simp] theorem State.raiseLtime_fenced : (s.raiseLtime c n).fenced = s.fenced := rfl
@[simp] theorem State.raiseLtime_qps : (s.raiseLtime c n).qps = s.qps := rfl
@[simp] theorem State.raiseLtime_eth : (s.raiseLtime c n).eth = s.eth := rfl
@[simp] theorem State.raiseLtime_boot : (s.raiseLtime c n).boot = s.boot := rfl
@[simp] theorem State.raiseLtime_meas : (s.raiseLtime c n).meas = s.meas := rfl
@[simp] theorem State.raiseLtime_quote : (s.raiseLtime c n).quote = s.quote := rfl
@[simp] theorem State.raiseLtime_devNum : (s.raiseLtime c n).devNum = s.devNum := rfl
@[simp] theorem State.raiseLtime_sysResv : (s.raiseLtime c n).sysResv = s.sysResv := rfl
@[simp] theorem State.raiseLtime_sysRead : (s.raiseLtime c n).sysRead = s.sysRead := rfl
@[simp] theorem State.raiseLtime_sysQueue : (s.raiseLtime c n).sysQueue = s.sysQueue := rfl
@[simp] theorem State.raiseLtime_pcieRead : (s.raiseLtime c n).pcieRead = s.pcieRead := rfl
@[simp] theorem State.raiseLtime_interrupts : (s.raiseLtime c n).interrupts = s.interrupts := rfl
@[simp] theorem State.raiseLtime_cals : (s.raiseLtime c n).cals = s.cals := rfl
@[simp] theorem State.raiseLtime_served : (s.raiseLtime c n).served = s.served := rfl
@[simp] theorem State.raiseLtime_stops : (s.raiseLtime c n).stops = s.stops := rfl
@[simp] theorem State.raiseLtime_reports : (s.raiseLtime c n).reports = s.reports := rfl
@[simp] theorem State.raiseLtime_restores : (s.raiseLtime c n).restores = s.restores := rfl
@[simp] theorem State.raiseLtime_powered : (s.raiseLtime c n).powered = s.powered := rfl
@[simp] theorem State.raiseLtime_cur : (s.raiseLtime c n).cur = s.cur := rfl
@[simp] theorem State.raiseLtime_stalled : (s.raiseLtime c n).stalled = s.stalled := rfl
@[simp] theorem State.raiseLtime_agenda : (s.raiseLtime c n).agenda = s.agenda := rfl
@[simp] theorem State.raiseLtime_timers : (s.raiseLtime c n).timers = s.timers := rfl
@[simp] theorem State.raiseLtime_now : (s.raiseLtime c n).now = s.now := rfl
@[simp] theorem State.raiseLtime_next : (s.raiseLtime c n).next = s.next := rfl
@[simp] theorem State.raiseLtime_drawn : (s.raiseLtime c n).drawn = s.drawn := rfl

end

/-! A number not used before. -/

section

variable (s : State)

@[simp] theorem State.fresh_mem : s.fresh.2.mem = s.mem := rfl
@[simp] theorem State.fresh_poison : s.fresh.2.poison = s.poison := rfl
@[simp] theorem State.fresh_far : s.fresh.2.far = s.far := rfl
@[simp] theorem State.fresh_blocks : s.fresh.2.blocks = s.blocks := rfl
@[simp] theorem State.fresh_cores : s.fresh.2.cores = s.cores := rfl
@[simp] theorem State.fresh_dies : s.fresh.2.dies = s.dies := rfl
@[simp] theorem State.fresh_regions : s.fresh.2.regions = s.regions := rfl
@[simp] theorem State.fresh_parts : s.fresh.2.parts = s.parts := rfl
@[simp] theorem State.fresh_cmds : s.fresh.2.cmds = s.cmds := rfl
@[simp] theorem State.fresh_pageReqs : s.fresh.2.pageReqs = s.pageReqs := rfl
@[simp] theorem State.fresh_ladders : s.fresh.2.ladders = s.ladders := rfl
@[simp] theorem State.fresh_snaps : s.fresh.2.snaps = s.snaps := rfl
@[simp] theorem State.fresh_acks : s.fresh.2.acks = s.acks := rfl
@[simp] theorem State.fresh_sunk : s.fresh.2.sunk = s.sunk := rfl
@[simp] theorem State.fresh_waiting : s.fresh.2.waiting = s.waiting := rfl
@[simp] theorem State.fresh_faultQ : s.fresh.2.faultQ = s.faultQ := rfl
@[simp] theorem State.fresh_eventQ : s.fresh.2.eventQ = s.eventQ := rfl
@[simp] theorem State.fresh_ports : s.fresh.2.ports = s.ports := rfl
@[simp] theorem State.fresh_links : s.fresh.2.links = s.links := rfl
@[simp] theorem State.fresh_route : s.fresh.2.route = s.route := rfl
@[simp] theorem State.fresh_missed : s.fresh.2.missed = s.missed := rfl
@[simp] theorem State.fresh_fenced : s.fresh.2.fenced = s.fenced := rfl
@[simp] theorem State.fresh_qps : s.fresh.2.qps = s.qps := rfl
@[simp] theorem State.fresh_eth : s.fresh.2.eth = s.eth := rfl
@[simp] theorem State.fresh_boot : s.fresh.2.boot = s.boot := rfl
@[simp] theorem State.fresh_meas : s.fresh.2.meas = s.meas := rfl
@[simp] theorem State.fresh_quote : s.fresh.2.quote = s.quote := rfl
@[simp] theorem State.fresh_devNum : s.fresh.2.devNum = s.devNum := rfl
@[simp] theorem State.fresh_sysResv : s.fresh.2.sysResv = s.sysResv := rfl
@[simp] theorem State.fresh_sysRead : s.fresh.2.sysRead = s.sysRead := rfl
@[simp] theorem State.fresh_sysQueue : s.fresh.2.sysQueue = s.sysQueue := rfl
@[simp] theorem State.fresh_pcieRead : s.fresh.2.pcieRead = s.pcieRead := rfl
@[simp] theorem State.fresh_interrupts : s.fresh.2.interrupts = s.interrupts := rfl
@[simp] theorem State.fresh_cals : s.fresh.2.cals = s.cals := rfl
@[simp] theorem State.fresh_served : s.fresh.2.served = s.served := rfl
@[simp] theorem State.fresh_stops : s.fresh.2.stops = s.stops := rfl
@[simp] theorem State.fresh_reports : s.fresh.2.reports = s.reports := rfl
@[simp] theorem State.fresh_restores : s.fresh.2.restores = s.restores := rfl
@[simp] theorem State.fresh_powered : s.fresh.2.powered = s.powered := rfl
@[simp] theorem State.fresh_cur : s.fresh.2.cur = s.cur := rfl
@[simp] theorem State.fresh_stalled : s.fresh.2.stalled = s.stalled := rfl
@[simp] theorem State.fresh_agenda : s.fresh.2.agenda = s.agenda := rfl
@[simp] theorem State.fresh_timers : s.fresh.2.timers = s.timers := rfl
@[simp] theorem State.fresh_now : s.fresh.2.now = s.now := rfl
@[simp] theorem State.fresh_drawn : s.fresh.2.drawn = s.drawn := rfl
@[simp] theorem State.fresh_next : s.fresh.2.next = s.next + 1 := rfl

end

/-! What an update of a table leaves to be read from it. -/

@[simp] theorem State.core_setCore_same (s : State) (c : Nat) (x : Core) : (s.setCore c x).core c = x :=
  Table.getD_putD_same _ _ _ _

theorem State.core_setCore (s : State) (c d : Nat) (x : Core) : (s.setCore c x).core d = if d = c then x else s.core d :=
  Table.getD_putD _ _ _ _ _

@[simp] theorem State.core_modCore_same (s : State) (c : Nat) (f : Core → Core) : (s.modCore c f).core c = f (s.core c) :=
  Table.getD_putD_same _ _ _ _

theorem State.core_modCore (s : State) (c d : Nat) (f : Core → Core) :
    (s.modCore c f).core d = if d = c then f (s.core c) else s.core d := Table.getD_putD _ _ _ _ _

@[simp] theorem State.die_modDie_same (s : State) (d : Nat) (f : Die → Die) : (s.modDie d f).die d = f (s.die d) :=
  Table.getD_putD_same _ _ _ _

theorem State.die_modDie (s : State) (d e : Nat) (f : Die → Die) :
    (s.modDie d f).die e = if e = d then f (s.die d) else s.die e := Table.getD_putD _ _ _ _ _

theorem State.block?_modBlock (s : State) (b c : Nat) (f : Block → Block) :
    (s.modBlock b f).block? c = if c = b then (s.block? b).map f else s.block? c := Table.get?_modify _ _ _ _

@[simp] theorem State.block?_modBlock_same (s : State) (b : Nat) (f : Block → Block) :
    (s.modBlock b f).block? b = (s.block? b).map f := Table.get?_modify_same _ _ _

theorem State.region?_modRegion (s : State) (r q : Nat) (f : Region → Region) :
    (s.modRegion r f).region? q = if q = r then (s.region? r).map f else s.region? q := Table.get?_modify _ _ _ _

/-! Reads that depend on one field alone. -/

@[simp] theorem State.die_setCore (s : State) (c : Nat) (x : Core) (k : Nat) : (s.setCore c x).die k = s.die k := rfl
@[simp] theorem State.block?_setCore (s : State) (c : Nat) (x : Core) (k : Nat) : (s.setCore c x).block? k = s.block? k := rfl
@[simp] theorem State.region?_setCore (s : State) (c : Nat) (x : Core) (k : Nat) : (s.setCore c x).region? k = s.region? k := rfl
@[simp] theorem State.unit?_setCore (s : State) (c : Nat) (x : Core) (k : Nat) (v : UnitRef) : (s.setCore c x).unit? k v = s.unit? k v := rfl
@[simp] theorem State.die_modCore (s : State) (c : Nat) (f : Core → Core) (k : Nat) : (s.modCore c f).die k = s.die k := rfl
@[simp] theorem State.block?_modCore (s : State) (c : Nat) (f : Core → Core) (k : Nat) : (s.modCore c f).block? k = s.block? k := rfl
@[simp] theorem State.region?_modCore (s : State) (c : Nat) (f : Core → Core) (k : Nat) : (s.modCore c f).region? k = s.region? k := rfl
@[simp] theorem State.unit?_modCore (s : State) (c : Nat) (f : Core → Core) (k : Nat) (v : UnitRef) : (s.modCore c f).unit? k v = s.unit? k v := rfl
@[simp] theorem State.core_setDie (s : State) (d : Nat) (x : Die) (k : Nat) : (s.setDie d x).core k = s.core k := rfl
@[simp] theorem State.block?_setDie (s : State) (d : Nat) (x : Die) (k : Nat) : (s.setDie d x).block? k = s.block? k := rfl
@[simp] theorem State.region?_setDie (s : State) (d : Nat) (x : Die) (k : Nat) : (s.setDie d x).region? k = s.region? k := rfl
@[simp] theorem State.unit?_setDie (s : State) (d : Nat) (x : Die) (k : Nat) (v : UnitRef) : (s.setDie d x).unit? k v = s.unit? k v := rfl
@[simp] theorem State.core_modDie (s : State) (d : Nat) (f : Die → Die) (k : Nat) : (s.modDie d f).core k = s.core k := rfl
@[simp] theorem State.block?_modDie (s : State) (d : Nat) (f : Die → Die) (k : Nat) : (s.modDie d f).block? k = s.block? k := rfl
@[simp] theorem State.region?_modDie (s : State) (d : Nat) (f : Die → Die) (k : Nat) : (s.modDie d f).region? k = s.region? k := rfl
@[simp] theorem State.unit?_modDie (s : State) (d : Nat) (f : Die → Die) (k : Nat) (v : UnitRef) : (s.modDie d f).unit? k v = s.unit? k v := rfl
@[simp] theorem State.core_setBlock (s : State) (b : Nat) (x : Block) (k : Nat) : (s.setBlock b x).core k = s.core k := rfl
@[simp] theorem State.die_setBlock (s : State) (b : Nat) (x : Block) (k : Nat) : (s.setBlock b x).die k = s.die k := rfl
@[simp] theorem State.region?_setBlock (s : State) (b : Nat) (x : Block) (k : Nat) : (s.setBlock b x).region? k = s.region? k := rfl
@[simp] theorem State.core_modBlock (s : State) (b : Nat) (f : Block → Block) (k : Nat) : (s.modBlock b f).core k = s.core k := rfl
@[simp] theorem State.die_modBlock (s : State) (b : Nat) (f : Block → Block) (k : Nat) : (s.modBlock b f).die k = s.die k := rfl
@[simp] theorem State.region?_modBlock (s : State) (b : Nat) (f : Block → Block) (k : Nat) : (s.modBlock b f).region? k = s.region? k := rfl
@[simp] theorem State.core_modUnit (s : State) (b : Nat) (u : UnitRef) (f : Warp → Warp) (k : Nat) : (s.modUnit b u f).core k = s.core k := rfl
@[simp] theorem State.die_modUnit (s : State) (b : Nat) (u : UnitRef) (f : Warp → Warp) (k : Nat) : (s.modUnit b u f).die k = s.die k := rfl
@[simp] theorem State.region?_modUnit (s : State) (b : Nat) (u : UnitRef) (f : Warp → Warp) (k : Nat) : (s.modUnit b u f).region? k = s.region? k := rfl
@[simp] theorem State.core_modRegion (s : State) (r : Nat) (f : Region → Region) (k : Nat) : (s.modRegion r f).core k = s.core k := rfl
@[simp] theorem State.die_modRegion (s : State) (r : Nat) (f : Region → Region) (k : Nat) : (s.modRegion r f).die k = s.die k := rfl
@[simp] theorem State.block?_modRegion (s : State) (r : Nat) (f : Region → Region) (k : Nat) : (s.modRegion r f).block? k = s.block? k := rfl
@[simp] theorem State.unit?_modRegion (s : State) (r : Nat) (f : Region → Region) (k : Nat) (v : UnitRef) : (s.modRegion r f).unit? k v = s.unit? k v := rfl
@[simp] theorem State.core_modCmd (s : State) (c : Nat) (f : Cmd → Cmd) (k : Nat) : (s.modCmd c f).core k = s.core k := rfl
@[simp] theorem State.die_modCmd (s : State) (c : Nat) (f : Cmd → Cmd) (k : Nat) : (s.modCmd c f).die k = s.die k := rfl
@[simp] theorem State.block?_modCmd (s : State) (c : Nat) (f : Cmd → Cmd) (k : Nat) : (s.modCmd c f).block? k = s.block? k := rfl
@[simp] theorem State.region?_modCmd (s : State) (c : Nat) (f : Cmd → Cmd) (k : Nat) : (s.modCmd c f).region? k = s.region? k := rfl
@[simp] theorem State.unit?_modCmd (s : State) (c : Nat) (f : Cmd → Cmd) (k : Nat) (v : UnitRef) : (s.modCmd c f).unit? k v = s.unit? k v := rfl
@[simp] theorem State.core_modLadder (s : State) (l : Nat) (f : Ladder → Ladder) (k : Nat) : (s.modLadder l f).core k = s.core k := rfl
@[simp] theorem State.die_modLadder (s : State) (l : Nat) (f : Ladder → Ladder) (k : Nat) : (s.modLadder l f).die k = s.die k := rfl
@[simp] theorem State.block?_modLadder (s : State) (l : Nat) (f : Ladder → Ladder) (k : Nat) : (s.modLadder l f).block? k = s.block? k := rfl
@[simp] theorem State.region?_modLadder (s : State) (l : Nat) (f : Ladder → Ladder) (k : Nat) : (s.modLadder l f).region? k = s.region? k := rfl
@[simp] theorem State.unit?_modLadder (s : State) (l : Nat) (f : Ladder → Ladder) (k : Nat) (v : UnitRef) : (s.modLadder l f).unit? k v = s.unit? k v := rfl
@[simp] theorem State.core_push (s : State) (i : Instr) (k : Nat) : (s.push i).core k = s.core k := rfl
@[simp] theorem State.die_push (s : State) (i : Instr) (k : Nat) : (s.push i).die k = s.die k := rfl
@[simp] theorem State.block?_push (s : State) (i : Instr) (k : Nat) : (s.push i).block? k = s.block? k := rfl
@[simp] theorem State.region?_push (s : State) (i : Instr) (k : Nat) : (s.push i).region? k = s.region? k := rfl
@[simp] theorem State.unit?_push (s : State) (i : Instr) (k : Nat) (v : UnitRef) : (s.push i).unit? k v = s.unit? k v := rfl
@[simp] theorem State.core_at (s : State) (n : Nat) (i : Instr) (k : Nat) : (s.at n i).core k = s.core k := rfl
@[simp] theorem State.die_at (s : State) (n : Nat) (i : Instr) (k : Nat) : (s.at n i).die k = s.die k := rfl
@[simp] theorem State.block?_at (s : State) (n : Nat) (i : Instr) (k : Nat) : (s.at n i).block? k = s.block? k := rfl
@[simp] theorem State.region?_at (s : State) (n : Nat) (i : Instr) (k : Nat) : (s.at n i).region? k = s.region? k := rfl
@[simp] theorem State.unit?_at (s : State) (n : Nat) (i : Instr) (k : Nat) (v : UnitRef) : (s.at n i).unit? k v = s.unit? k v := rfl
@[simp] theorem State.core_drop (s : State) (i : Instr) (k : Nat) : (s.drop i).core k = s.core k := rfl
@[simp] theorem State.die_drop (s : State) (i : Instr) (k : Nat) : (s.drop i).die k = s.die k := rfl
@[simp] theorem State.block?_drop (s : State) (i : Instr) (k : Nat) : (s.drop i).block? k = s.block? k := rfl
@[simp] theorem State.region?_drop (s : State) (i : Instr) (k : Nat) : (s.drop i).region? k = s.region? k := rfl
@[simp] theorem State.unit?_drop (s : State) (i : Instr) (k : Nat) (v : UnitRef) : (s.drop i).unit? k v = s.unit? k v := rfl
@[simp] theorem State.core_wrBytes (s : State) (a : Nat) (l : List Byte) (k : Nat) : (s.wrBytes a l).core k = s.core k := rfl
@[simp] theorem State.die_wrBytes (s : State) (a : Nat) (l : List Byte) (k : Nat) : (s.wrBytes a l).die k = s.die k := rfl
@[simp] theorem State.block?_wrBytes (s : State) (a : Nat) (l : List Byte) (k : Nat) : (s.wrBytes a l).block? k = s.block? k := rfl
@[simp] theorem State.region?_wrBytes (s : State) (a : Nat) (l : List Byte) (k : Nat) : (s.wrBytes a l).region? k = s.region? k := rfl
@[simp] theorem State.unit?_wrBytes (s : State) (a : Nat) (l : List Byte) (k : Nat) (v : UnitRef) : (s.wrBytes a l).unit? k v = s.unit? k v := rfl
@[simp] theorem State.core_wrNat (s : State) (a n x : Nat) (k : Nat) : (s.wrNat a n x).core k = s.core k := rfl
@[simp] theorem State.die_wrNat (s : State) (a n x : Nat) (k : Nat) : (s.wrNat a n x).die k = s.die k := rfl
@[simp] theorem State.block?_wrNat (s : State) (a n x : Nat) (k : Nat) : (s.wrNat a n x).block? k = s.block? k := rfl
@[simp] theorem State.region?_wrNat (s : State) (a n x : Nat) (k : Nat) : (s.wrNat a n x).region? k = s.region? k := rfl
@[simp] theorem State.unit?_wrNat (s : State) (a n x : Nat) (k : Nat) (v : UnitRef) : (s.wrNat a n x).unit? k v = s.unit? k v := rfl
@[simp] theorem State.core_post (s : State) (kind unit die regid loc : Nat) (k : Nat) : (s.post kind unit die regid loc).core k = s.core k := rfl
@[simp] theorem State.die_post (s : State) (kind unit die regid loc : Nat) (k : Nat) : (s.post kind unit die regid loc).die k = s.die k := rfl
@[simp] theorem State.block?_post (s : State) (kind unit die regid loc : Nat) (k : Nat) : (s.post kind unit die regid loc).block? k = s.block? k := rfl
@[simp] theorem State.region?_post (s : State) (kind unit die regid loc : Nat) (k : Nat) : (s.post kind unit die regid loc).region? k = s.region? k := rfl
@[simp] theorem State.unit?_post (s : State) (kind unit die regid loc : Nat) (k : Nat) (v : UnitRef) : (s.post kind unit die regid loc).unit? k v = s.unit? k v := rfl
@[simp] theorem State.die_raiseLtime (s : State) (c n : Nat) (k : Nat) : (s.raiseLtime c n).die k = s.die k := rfl
@[simp] theorem State.block?_raiseLtime (s : State) (c n : Nat) (k : Nat) : (s.raiseLtime c n).block? k = s.block? k := rfl
@[simp] theorem State.region?_raiseLtime (s : State) (c n : Nat) (k : Nat) : (s.raiseLtime c n).region? k = s.region? k := rfl
@[simp] theorem State.unit?_raiseLtime (s : State) (c n : Nat) (k : Nat) (v : UnitRef) : (s.raiseLtime c n).unit? k v = s.unit? k v := rfl

end Sys2Proof.Machine
end

