-- ==== Sys2Proof/Laws/Unit.lean ====
section
/-! SUPPORT. Lanes of a unit, units of a block: what their updates leave to be read. -/

namespace Sys2Proof.Machine

theorem length_mapFrom {α β : Type} (f : Nat → α → β) (l : List α) (n : Nat) : (mapFrom n f l).length = l.length := by
  induction l generalizing n with
  | nil => rfl
  | cons a l ih => simp [mapFrom, ih]

theorem getElem?_mapFrom {α β : Type} (f : Nat → α → β) (l : List α) (n k : Nat) :
    (mapFrom n f l)[k]? = l[k]?.map (f (n + k)) := by
  induction l generalizing n k with
  | nil => simp [mapFrom]
  | cons a l ih =>
    cases k with
    | zero => simp [mapFrom]
    | succ k => simp only [mapFrom, List.getElem?_cons_succ, ih]; congr 2; omega

/-! Lanes -/

@[simp] theorem Warp.length_modLanes (w : Warp) (m : Word) (f : Nat → Lane → Lane) :
    (w.modLanes m f).lanes.length = w.lanes.length := by simp [Warp.modLanes, length_mapFrom]

theorem Warp.lane_modLanes (w : Warp) (m : Word) (f : Nat → Lane → Lane) (l : Nat) :
    (w.modLanes m f).lane l = if inMask m l = true ∧ l < w.lanes.length then f l (w.lane l) else w.lane l := by
  simp only [Warp.modLanes, Warp.lane, getElem?_mapFrom, Nat.zero_add]
  by_cases hl : l < w.lanes.length
  · by_cases hm : inMask m l = true <;> simp [hl, hm]
  · simp [hl]

theorem Warp.lane_modLanes_in {w : Warp} {m : Word} {f : Nat → Lane → Lane} {l : Nat} (h : inMask m l = true)
    (hl : l < w.lanes.length) : (w.modLanes m f).lane l = f l (w.lane l) := by simp [Warp.lane_modLanes, h, hl]

theorem Warp.lane_modLanes_out {w : Warp} {m : Word} {f : Nat → Lane → Lane} {l : Nat} (h : inMask m l ≠ true) :
    (w.modLanes m f).lane l = w.lane l := by simp [Warp.lane_modLanes, h]

/-! A map of the lanes that a test of each lane's field cannot tell -/

/-- Two warps agree lane by lane through `f`. -/
def Warp.alike {α : Type} (f : Lane → α) (w v : Warp) : Prop :=
  v.lanes.length = w.lanes.length ∧ ∀ l, f (v.lane l) = f (w.lane l)

theorem Warp.alike_refl {α : Type} (f : Lane → α) (w : Warp) : w.alike f w := ⟨rfl, fun _ => rfl⟩

theorem Warp.alike_trans {α : Type} {f : Lane → α} {w v x : Warp} (h : w.alike f v) (h' : v.alike f x) : w.alike f x :=
  ⟨h'.1.trans h.1, fun l => (h'.2 l).trans (h.2 l)⟩

theorem Warp.alike_modLanes {α : Type} (f : Lane → α) (w : Warp) (m : Word) (g : Nat → Lane → Lane)
    (h : ∀ l x, f (g l x) = f x) : w.alike f (w.modLanes m g) := by
  refine ⟨by simp, fun l => ?_⟩
  rw [Warp.lane_modLanes]; split
  · exact h _ _
  · rfl

theorem Warp.alike_of_lanes {α : Type} {f : Lane → α} {w v x : Warp} (h : w.alike f v) (e : x.lanes = v.lanes) :
    w.alike f x := by
  refine ⟨by rw [e]; exact h.1, fun l => ?_⟩
  have : x.lane l = v.lane l := by simp [Warp.lane, e]
  rw [this]; exact h.2 l

/-! Units of a block -/

theorem listMod_get? {α : Type} (l : List α) (n k : Nat) (f : α → α) :
    (listMod l n f)[k]? = if k = n then l[k]?.map f else l[k]? := by
  simp only [listMod, getElem?_mapFrom, Nat.zero_add]
  by_cases h : k = n <;> simp [h]

theorem listMod_listMod {α : Type} (l : List α) (n : Nat) (f g : α → α) :
    listMod (listMod l n f) n g = listMod l n (fun a => g (f a)) := by
  apply List.ext_getElem?; intro k
  simp only [listMod_get?]
  by_cases h : k = n <;> simp [h, Function.comp_def]

theorem Ctx.modUnit_modUnit (c : Ctx) (u : UnitRef) (f g : Warp → Warp) :
    (c.modUnit u f).modUnit u g = c.modUnit u (fun w => g (f w)) := by
  cases u <;> simp [Ctx.modUnit, listMod_listMod]

theorem Block.unit?_modUnit (b : Block) (u v : UnitRef) (f : Warp → Warp) :
    ({ b with ctx := b.ctx.modUnit u f } : Block).unit? v = if v = u then (b.unit? v).map f else b.unit? v := by
  cases u <;> cases v <;> simp [Block.unit?, Ctx.modUnit, listMod_get?]

theorem Block.without_modUnit (b : Block) (u : UnitRef) (f : Warp → Warp) :
    ({ b with ctx := b.ctx.modUnit u f } : Block).without u = b.without u := by
  simp [Block.without, Ctx.modUnit_modUnit]

theorem State.block?_modUnit (s : State) (b c : Nat) (u : UnitRef) (f : Warp → Warp) :
    (s.modUnit b u f).block? c =
      if c = b then (s.block? b).map (fun x => { x with ctx := x.ctx.modUnit u f }) else s.block? c :=
  State.block?_modBlock _ _ _ _

theorem State.unit?_modUnit_same (s : State) (b : Nat) (u : UnitRef) (f : Warp → Warp) :
    (s.modUnit b u f).unit? b u = (s.unit? b u).map f := by
  simp only [State.unit?, State.block?_modUnit, if_true]
  cases s.block? b <;> simp [Block.unit?_modUnit]

theorem State.unit?_modUnit_of {s : State} {b : Nat} {u : UnitRef} {w : Warp} (h : s.unit? b u = some w)
    (f : Warp → Warp) : (s.modUnit b u f).unit? b u = some (f w) := by simp [State.unit?_modUnit_same, h]

theorem State.unit?_modUnit_other (s : State) {b c : Nat} {u v : UnitRef} (f : Warp → Warp) (h : (c, v) ≠ (b, u)) :
    (s.modUnit b u f).unit? c v = s.unit? c v := by
  simp only [State.unit?, State.block?_modUnit]
  by_cases hc : c = b
  · subst hc
    have hv : v ≠ u := fun e => h (by rw [e])
    cases s.block? c <;> simp [Block.unit?_modUnit, hv]
  · simp [hc]

/-! ## Only one unit changes -/

theorem OnlyUnit.refl (s : State) (b : Nat) (u : UnitRef) : OnlyUnit s s b u := ⟨rfl, fun _ _ => rfl, rfl, fun _ => rfl, fun _ => rfl, rfl⟩

theorem OnlyUnit.trans {s t r : State} {b : Nat} {u : UnitRef} (h : OnlyUnit s t b u) (h' : OnlyUnit t r b u) :
    OnlyUnit s r b u where
  fields := by
    have h1 := h.fields; have h2 := h'.fields
    calc ({ r with blocks := s.blocks, cores := s.cores, regions := s.regions, acks := s.acks } : State)
        = { ({ r with blocks := t.blocks, cores := t.cores, regions := t.regions, acks := t.acks } : State) with
            blocks := s.blocks, cores := s.cores, regions := s.regions, acks := s.acks } := rfl
      _ = s := by rw [h2]; exact h1
  others c hc := (h'.others c hc).trans (h.others c hc)
  block := h'.block.trans h.block
  regions c := (h'.regions c).trans (h.regions c)
  cores c := (h'.cores c).trans (h.cores c)
  acks := h'.acks.trans h.acks

theorem OnlyUnit.after {s t r : State} {b : Nat} {u : UnitRef} (h' : OnlyUnit t r b u) (h : OnlyUnit s t b u) :
    OnlyUnit s r b u := h.trans h'

theorem OnlyUnit.mem {s t : State} {b : Nat} {u : UnitRef} (h : OnlyUnit s t b u) : t.mem = s.mem := by
  have := congrArg State.mem h.fields; exact this

theorem onlyUnit_modUnit (s : State) (b : Nat) (u : UnitRef) (f : Warp → Warp) : OnlyUnit s (s.modUnit b u f) b u where
  fields := rfl
  others c hc := by simp [State.block?_modUnit, hc]
  block := by
    simp only [State.block?_modUnit, if_true]
    cases s.block? b with
    | none => rfl
    | some x => simp [Block.without_modUnit]
  regions _ := rfl
  cores _ := rfl
  acks := rfl

theorem onlyUnit_modCore {s : State} {b : Nat} {u : UnitRef} (c : Nat) (f : Core → Core)
    (hf : ∀ x : Core, (f x).uncounted = x.uncounted) : OnlyUnit s (s.modCore c f) b u where
  fields := rfl
  others _ _ := rfl
  block := rfl
  regions _ := rfl
  cores k := by
    rw [State.core_modCore]; split
    · next h => rw [hf, h]
    · rfl
  acks := rfl

theorem onlyUnit_modRegion {s : State} {b : Nat} {u : UnitRef} (r : Nat) (f : Region → Region)
    (hf : ∀ x : Region, (f x).uncharged = x.uncharged) : OnlyUnit s (s.modRegion r f) b u where
  fields := rfl
  others _ _ := rfl
  block := rfl
  regions q := by
    rw [State.region?_modRegion]; split
    · next h => subst h; cases s.region? q <;> simp [hf]
    · rfl
  cores _ := rfl
  acks := rfl

theorem onlyUnit_count (s : State) (b : Nat) (u : UnitRef) (core blk ev n : Nat) :
    OnlyUnit s (s.count core blk ev n) b u := by
  unfold State.count
  split
  · exact .refl _ _ _
  · exact onlyUnit_modCore _ _ (fun _ => rfl)

theorem onlyUnit_raiseLtime (s : State) (b : Nat) (u : UnitRef) (core t : Nat) :
    OnlyUnit s (s.raiseLtime core t) b u := onlyUnit_modCore _ _ (fun _ => rfl)

theorem onlyUnit_acks (s : State) (b : Nat) (u : UnitRef) (f : Ack → Ack) (hf : ∀ a, (f a).unread = a.unread) :
    OnlyUnit s { s with acks := s.acks.mapVals f } b u where
  fields := rfl
  others _ _ := rfl
  block := rfl
  regions _ := rfl
  cores _ := rfl
  acks := by simp [Table.mapVals, Function.comp_def, hf]

/-- An acquire notes who has read what, and raises a logical time. -/
theorem onlyUnit_acquireAt (s : State) (b : Nat) (u : UnitRef) (blk core scope : Nat) :
    OnlyUnit s (s.acquireAt blk core scope) b u := by
  have h := onlyUnit_acks s b u
    (fun a => if a.shared.contains core then { a with readers := blk :: a.readers.erase blk } else a)
    (fun a => by split <;> rfl)
  unfold State.acquireAt; dsimp only; split
  · exact (onlyUnit_raiseLtime _ _ _ _ _).after h
  · exact h

@[simp] theorem State.unit?_acquireAt (s : State) (blk core scope k : Nat) (v : UnitRef) :
    (s.acquireAt blk core scope).unit? k v = s.unit? k v := by unfold State.acquireAt; dsimp only; split <;> rfl

theorem onlyUnit_chargeUp (b : Nat) (u : UnitRef) (n fuel : Nat) (s : State) (r : Option Nat) :
    OnlyUnit s (s.chargeUp n fuel r) b u := by
  induction fuel generalizing s r with
  | zero => cases r <;> exact .refl _ _ _
  | succ fuel ih =>
    cases r with
    | none => exact .refl _ _ _
    | some r =>
      unfold State.chargeUp
      split
      · refine (ih _ _).after (onlyUnit_modRegion _ _ ?_); exact fun _ => rfl
      · exact .refl _ _ _

theorem onlyUnit_modBlock_energy (s : State) (b : Nat) (u : UnitRef) (f : BitVec 64 → BitVec 64) :
    OnlyUnit s (s.modBlock b (fun y => { y with energy := f y.energy })) b u where
  fields := rfl
  others c hc := by simp [State.block?_modBlock, hc]
  block := by
    rw [State.block?_modBlock_same]
    cases s.block? b <;> rfl
  regions _ := rfl
  cores _ := rfl
  acks := rfl

theorem onlyUnit_addEnergy (s : State) (b : Nat) (u : UnitRef) (cls n : Nat) :
    OnlyUnit s (s.addEnergy b cls n) b u := by
  unfold State.addEnergy
  split
  · exact .refl _ _ _
  · refine (onlyUnit_chargeUp _ _ _ _ _ _).after ((onlyUnit_modRegion _ _ ?_).after ?_)
    · exact fun _ => rfl
    · exact onlyUnit_modBlock_energy _ _ _ (fun e => e + _)

/-! Counting and charging leave every unit as it is. -/

theorem State.blocks_count (s : State) (core blk ev n : Nat) : (s.count core blk ev n).blocks = s.blocks := by
  unfold State.count; split <;> rfl

@[simp] theorem State.unit?_count (s : State) (core blk ev n k : Nat) (v : UnitRef) :
    (s.count core blk ev n).unit? k v = s.unit? k v := by
  simp [State.unit?, State.block?, State.blocks_count]

theorem State.blocks_chargeUp (n fuel : Nat) (s : State) (r : Option Nat) : (s.chargeUp n fuel r).blocks = s.blocks := by
  induction fuel generalizing s r with
  | zero => cases r <;> rfl
  | succ fuel ih =>
    cases r with
    | none => rfl
    | some r =>
      unfold State.chargeUp
      split
      · rw [ih]; rfl
      · rfl

@[simp] theorem State.unit?_addEnergy (s : State) (b cls n k : Nat) (v : UnitRef) :
    (s.addEnergy b cls n).unit? k v = s.unit? k v := by
  unfold State.addEnergy
  split
  · rfl
  · simp only [State.unit?, State.block?, State.blocks_chargeUp, State.modRegion_blocks]
    simp only [State.modBlock, Table.get?_modify]
    by_cases hk : k = b
    · subst hk
      cases h : Table.get? s.blocks k with
      | none => simp
      | some x => cases v <;> simp [Block.unit?]
    · simp [hk]

end Sys2Proof.Machine
end

