-- ==== Sys2Proof/Laws/Issue.lean ====
section
/-! SUPPORT. Issuing a word that nothing holds: what the unit holds after it, and what else has changed. -/

namespace Sys2Proof.Machine

variable {s : State} {a : Attr} {i : Iss} {extra stall : Iss → State → Bool} {ws : List Word}

theorem State.issuer_some {p : Option (BitVec 4)} (h : s.issuer p = some i) :
    s.block? i.blk = some i.b ∧ s.region? i.b.regid = some i.r ∧ s.unit? i.blk i.u = some i.w := by
  unfold State.issuer at h
  split at h
  · contradiction
  · split at h
    · contradiction
    · next b hb =>
      split at h
      · next r w hr hw =>
        cases h
        exact ⟨hb, hr, by simp only [State.unit?, hb]; exact hw⟩
      · contradiction

theorem Ready.unit (h : Ready s a i extra stall ws) : s.unit? i.blk i.u = some i.w := (State.issuer_some h.issuer).2.2

theorem Ready.pairNo (h : Ready s a i extra stall ws) : i.pairNo = none := by simp [Iss.pairNo, h.unchecked]

theorem Ready.lag (h : Ready s a i extra stall ws) : i.lagStall a = false := by
  unfold Iss.lagStall; rw [h.pairNo]; split
  · next h1 h2 => exact absurd h2 (by simp)
  · rfl

theorem Ready.judge (h : Ready s a i extra stall ws) : s.judge i a extra stall = (.go (i.chainWith a ws).2, s) := by
  have hbad : (if a.noEnd then i.badEnd else none) = none := by
    split
    · next hn => exact h.loopEnd hn
    · rfl
  have hdue : (a.commits && i.commitStall) = false := by
    cases hc : a.commits
    · rfl
    · simp [h.due hc]
  unfold State.judge
  rw [h.ahead]
  dsimp only
  rw [if_neg (by simp [h.lag, h.reissues]), if_neg h.active, if_neg (by simp [h.legal]), if_neg (by simp [h.first, h.token]),
    if_neg (by simp [h.extra])]
  simp [hbad, h.latch, h.flaw, h.log, h.stall, hdue]

/-- A word that nothing holds is carried out. -/
theorem Ready.issue (h : Ready s a i extra stall ws) (body : Iss → State → State × Word) :
    s.issue a extra stall body = .next (s.perform i a (i.chainWith a ws).2 body) := by
  have hu := h.leading
  unfold State.issue
  rw [h.issuer]
  simp only [h.judge, h.pairNo]
  revert hu
  cases hiu : i.u <;> simp [Iss.trailing, hiu]

/-! ## What of a lane an issue leaves -/

/-- The newest latch marked as stepped back over (05 R125). -/
def markBack : List Latch → List Latch
  | e :: r => { e with back := true } :: r
  | [] => []

/-- A view of a lane that PC, wait mark, parking record and the step-back mark do not touch. -/
structure Loose {α : Type} (f : Lane → α) : Prop where
  wait : ∀ l w p, f { l with wait := w, pc := p } = f l
  back : ∀ l w p, f { l with wait := w, pc := p, latches := markBack l.latches } = f l
  park : ∀ l (c : Park → Bool), f { l with park := l.park.map (fun p => if c p then { p with past := true } else p) } = f l

theorem loose_unissued : Loose Lane.unissued where
  wait _ _ _ := rfl
  back _ _ _ := rfl
  park l c := by
    have h : ∀ p : Park, (if c p then { p with past := true } else p : Park).unmarked = p.unmarked := by
      intro p; split <;> rfl
    simp [Lane.unissued, Function.comp_def, h]

theorem loose_latchVal : Loose Lane.latchVal where
  wait _ _ _ := rfl
  back l _ _ := by simp only [Lane.latchVal]; cases l.latches <;> rfl
  park _ _ := rfl

section
variable {α : Type} {f : Lane → α} (hf : Loose f)

include hf

theorem Loose.waitOnly (l : Lane) (w : Wait) : f { l with wait := w } = f l := hf.wait l w l.pc

theorem alike_arrive (w : Warp) (k : Nat) (m : Word) (pc : Nat) : w.alike f (w.arrive k m pc) := by
  apply Warp.alike_modLanes; intro _ x; split
  · exact hf.wait _ _ _
  · rfl

omit hf in
theorem alike_setLevel (w : Warp) (k : Nat) (x : Loop) : w.alike f (w.setLevel k x) := by
  refine Warp.alike_of_lanes (Warp.alike_refl f w) ?_
  unfold Warp.setLevel; split <;> rfl

theorem alike_endArrival (w : Warp) (m : Word) (pc k : Nat) : w.alike f (w.endArrival m pc k) := by
  have one : ∀ (w : Warp) (j : Nat), w.alike f (let x := w.level j
      if j ≠ k ∧ x.active ∧ x.endPc = pc then w.arrive j (m &&& x.entry) pc else w) := by
    intro w j; dsimp only; split
    · exact alike_arrive hf _ _ _ _
    · exact Warp.alike_refl _ _
  exact Warp.alike_trans (one _ 1) (one _ 0)

theorem alike_stepLevel (w : Warp) (k : Nat) : w.alike f (w.stepLevel k) := by
  unfold Warp.stepLevel; dsimp only
  split
  · exact alike_setLevel _ _ _
  · split
    · split
      · refine Warp.alike_trans (alike_setLevel _ _ _) (Warp.alike_modLanes _ _ _ _ ?_)
        intro _ x; exact hf.back x _ _
      · refine Warp.alike_trans (Warp.alike_trans (alike_setLevel _ _ _) (Warp.alike_modLanes _ _ _ _ ?_))
          (alike_endArrival hf _ _ _ _)
        intro _ x; exact hf.waitOnly x _
    · exact Warp.alike_refl _ _

theorem alike_loopCheck (w : Warp) : w.alike f w.loopCheck :=
  Warp.alike_trans (alike_stepLevel hf w 1) (alike_stepLevel hf _ 0)

theorem alike_completeAt (w : Warp) (m : Word) (pc : Nat) : w.alike f (w.completeAt m pc) := by
  have h : ∀ (c : Prop) [Decidable c] (v x : Warp), w.alike f v → w.alike f x → w.alike f (if c then x else v) := by
    intro c _ v x hv hx; split <;> assumption
  unfold Warp.completeAt; dsimp only
  refine Warp.alike_trans ?_ (alike_loopCheck hf _)
  have h1 := h (w.lc1.active ∧ w.lc1.endPc = pc) w _ (Warp.alike_refl f w) (alike_arrive hf w 1 (m &&& w.lc1.entry) pc)
  exact h _ _ _ h1 (Warp.alike_trans h1 (alike_arrive hf _ _ _ _))

theorem alike_markPast (w : Warp) (m : Word) (pc : Nat) : w.alike f (w.markPast m pc) :=
  Warp.alike_modLanes _ _ _ _ (fun _ x => hf.park x (fun p => p.entry.isSome && p.resume == pc))

end

/-! Fields of the unit that loops leave -/

theorem unissued_modLanes (w : Warp) (m : Word) (g : Nat → Lane → Lane) : (w.modLanes m g).unissued = w.unissued := rfl

theorem unissued_setLevel (w : Warp) (k : Nat) (x : Loop) : (w.setLevel k x).unissued = w.unissued := by
  unfold Warp.setLevel; split <;> rfl

theorem unissued_endArrival (w : Warp) (m : Word) (pc k : Nat) : (w.endArrival m pc k).unissued = w.unissued := by
  have one : ∀ (w : Warp) (j : Nat), (let x := w.level j
      if j ≠ k ∧ x.active ∧ x.endPc = pc then w.arrive j (m &&& x.entry) pc else w).unissued = w.unissued := by
    intro w j; dsimp only; split <;> rfl
  exact (one _ 0).trans (one _ 1)

theorem unissued_stepLevel (w : Warp) (k : Nat) : (w.stepLevel k).unissued = w.unissued := by
  unfold Warp.stepLevel; dsimp only
  split
  · exact unissued_setLevel _ _ _
  · split
    · split
      · rw [unissued_modLanes, unissued_setLevel]
      · rw [unissued_endArrival, unissued_modLanes, unissued_setLevel]
    · rfl

theorem unissued_completeAt (w : Warp) (m : Word) (pc : Nat) : (w.completeAt m pc).unissued = w.unissued := by
  have h : ∀ w : Warp, w.loopCheck.unissued = w.unissued := fun w =>
    (unissued_stepLevel _ 0).trans (unissued_stepLevel w 1)
  unfold Warp.completeAt; dsimp only; rw [h]
  split <;> split <;> rfl

/-! A lane that waits at no loop end stays where it is, where no level ends at the word. -/

theorem not_entry_of_allAtEnd {w : Warp} {k l : Nat} (hall : w.allAtEnd k = true) (hl : l < 32)
    (hw : ∀ j, (w.lane l).wait ≠ .loopEnd j) : inMask (w.level k).entry l ≠ true := by
  intro hin
  have := List.all_eq_true.mp hall l (by simp [lanesOf, hl, hin])
  simp at this; exact hw k this

theorem lane_setLevel (w : Warp) (k : Nat) (x : Loop) (l : Nat) : (w.setLevel k x).lane l = w.lane l := by
  unfold Warp.setLevel; split <;> rfl

theorem inMask_and (m n : Word) (l : Nat) : inMask (m &&& n) l = (inMask m l && inMask n l) := by
  simp [inMask, natBit, Nat.testBit_and]

theorem lane_endArrival {w : Warp} {m : Word} {pc k l : Nat} (hm : inMask m l ≠ true) :
    (w.endArrival m pc k).lane l = w.lane l := by
  have one : ∀ (w : Warp) (j : Nat), (let x := w.level j
      if j ≠ k ∧ x.active ∧ x.endPc = pc then w.arrive j (m &&& x.entry) pc else w).lane l = w.lane l := by
    intro w j; dsimp only; split
    · apply Warp.lane_modLanes_out; simp [inMask_and, hm]
    · rfl
  exact (one _ 0).trans (one _ 1)

theorem lane_stepLevel {w : Warp} {l : Nat} (k : Nat) (hl : l < 32) (hw : ∀ j, (w.lane l).wait ≠ .loopEnd j) :
    (w.stepLevel k).lane l = w.lane l := by
  unfold Warp.stepLevel; dsimp only
  split
  · exact lane_setLevel _ _ _ _
  · split
    · next h =>
      have hn := not_entry_of_allAtEnd h.2 hl hw
      split
      · rw [Warp.lane_modLanes_out hn, lane_setLevel]
      · rw [lane_endArrival hn, Warp.lane_modLanes_out hn, lane_setLevel]
    · rfl

theorem lane_loopCheck {w : Warp} {l : Nat} (hl : l < 32) (hw : ∀ j, (w.lane l).wait ≠ .loopEnd j) :
    w.loopCheck.lane l = w.lane l := by
  have h1 := lane_stepLevel 1 hl hw
  unfold Warp.loopCheck
  rw [lane_stepLevel 0 hl (by rw [h1]; exact hw), h1]

theorem lane_completeAt {w : Warp} {m : Word} {pc l : Nat} (h0 : w.lc0.active = true → w.lc0.endPc ≠ pc)
    (h1 : w.lc1.active = true → w.lc1.endPc ≠ pc) (hl : l < 32) (hw : ∀ j, (w.lane l).wait ≠ .loopEnd j) :
    (w.completeAt m pc).lane l = w.lane l := by
  have e1 : ¬ (w.lc1.active = true ∧ w.lc1.endPc = pc) := fun h => h1 h.1 h.2
  have e0 : ¬ (w.lc0.active = true ∧ w.lc0.endPc = pc) := fun h => h0 h.1 h.2
  unfold Warp.completeAt; dsimp only
  rw [if_neg e1, if_neg e0]
  exact lane_loopCheck hl hw

/-! ## The unit after a word -/

/-- The unit as the word starts: its lanes stand past it. -/
def Iss.started (i : Iss) (s : State) (past : Nat) : Warp :=
  { (i.w.modLanes i.path (fun _ l => { l with pc := past })) with
    hints := [], hintPc := 0, unitLanes := 0, lastIssue := s.now, owners := i.w.owners.filter (fun o => o.pc != i.headPc || o.entry.isSome)
    tokenWait := false, committing := false, rel := none }

/-- What acquiring the words of ended commands leaves of the unit, and what dropping those that the word writes leaves. -/
def Iss.acquired (i : Iss) (a : Attr) (w : Warp) : Warp :=
  let keys := i.acquires a
  if keys.isEmpty then w
  else { w with acq := w.acq.map (fun e => if keys.contains e.1 then (e.1, { e.2 with lanes := e.2.lanes ||| i.act }) else e) }

def Iss.dropped (i : Iss) (a : Attr) (w : Warp) : Warp :=
  let keys := (i.sKeys a.ws).filter (fun k => (i.w.acq.get? k).isSome)
  if keys.isEmpty then w else { w with acq := w.acq.filter (fun e => !keys.contains e.1) }

theorem Iss.lanes_tokens (w : Warp) : (i.dropped a (i.acquired a w)).lanes = w.lanes := by
  unfold Iss.dropped Iss.acquired; dsimp only; split <;> split <;> rfl

theorem Iss.loops_tokens (w : Warp) :
    (i.dropped a (i.acquired a w)).lc0 = w.lc0 ∧ (i.dropped a (i.acquired a w)).lc1 = w.lc1 := by
  unfold Iss.dropped Iss.acquired; dsimp only; split <;> split <;> exact ⟨rfl, rfl⟩

theorem Iss.unissued_tokens (w : Warp) : (i.dropped a (i.acquired a w)).unissued = w.unissued := by
  unfold Iss.dropped Iss.acquired; dsimp only; split <;> split <;> rfl

/-- The unit as the word's own effect finds it. -/
def Iss.before (i : Iss) (s : State) (a : Attr) (chain : Option Chain) : Warp :=
  let w := i.dropped a (i.acquired a (i.started s (a.past i)))
  { (w.pushLatches i a) with chain := chain }

/-- The unit after the word, where its own effect has left `w`. -/
def Iss.after (i : Iss) (a : Attr) (jumped : Word) (w : Warp) : Warp :=
  let w := i.settleTokens a (w.closeChain a)
  let done := w.lanesWhere (fun l => l.status == .running && l.wait == .none && l.pc == a.past i) &&& i.path &&& ~~~jumped
  (w.markPast (i.path &&& ~~~jumped) (a.past i)).completeAt done (prevPc (a.past i))

theorem alike_before {α : Type} {f : Lane → α} (hf : Loose f) (hp : ∀ l x, f { l with latches := x } = f l)
    (s : State) (chain : Option Chain) : i.w.alike f (i.before s a chain) := by
  have h1 : i.w.alike f (i.w.modLanes i.path (fun _ l => { l with pc := a.past i })) :=
    Warp.alike_modLanes _ _ _ _ (fun _ x => hf.wait x x.wait _)
  have h2 : ∀ w : Warp, w.alike f (w.pushLatches i a) := fun w => Warp.alike_modLanes _ _ _ _ (fun _ x => hp x _)
  refine Warp.alike_of_lanes (v := Warp.pushLatches _ i a) (Warp.alike_trans ?_ (h2 _)) rfl
  exact Warp.alike_of_lanes h1 (Iss.lanes_tokens _)

theorem unissued_before (s : State) (chain : Option Chain) : (i.before s a chain).unissued = i.w.unissued := by
  exact Iss.unissued_tokens (i := i) (a := a) (i.started s (a.past i))

/-- The lanes as the word's own effect finds them: past the word, waiting for what they waited for; the levels are as they
were. -/
theorem lane_before (s : State) (chain : Option Chain) {l : Nat} (hlen : l < i.w.lanes.length) :
    ((i.before s a chain).lane l).pc = (if inMask i.path l then a.past i else (i.w.lane l).pc)
      ∧ ((i.before s a chain).lane l).wait = (i.w.lane l).wait := by
  have lane_eq : ∀ w v : Warp, w.lanes = v.lanes → w.lane l = v.lane l := fun w v e => by simp [Warp.lane, e]
  have key : ∀ w : Warp, w.lanes = (i.started s (a.past i)).lanes →
      (({ (w.pushLatches i a) with chain := chain } : Warp).lane l).pc = (if inMask i.path l then a.past i else (i.w.lane l).pc)
        ∧ (({ (w.pushLatches i a) with chain := chain } : Warp).lane l).wait = (i.w.lane l).wait := by
    intro w e
    have h1 : ({ (w.pushLatches i a) with chain := chain } : Warp).lane l = (w.pushLatches i a).lane l := lane_eq _ _ rfl
    have h2 : w.lane l = (i.w.modLanes i.path (fun _ l => { l with pc := a.past i })).lane l := lane_eq _ _ e
    have hlw : l < w.lanes.length := by rw [e]; simpa [Iss.started] using hlen
    rw [h1, Warp.pushLatches]
    rw [Warp.lane_modLanes, h2, Warp.lane_modLanes]
    by_cases hin : inMask i.path l = true <;> simp [hin, hlen, hlw]
  exact key _ (Iss.lanes_tokens _)

theorem loops_before (s : State) (chain : Option Chain) :
    (i.before s a chain).lc0 = i.w.lc0 ∧ (i.before s a chain).lc1 = i.w.lc1
      ∧ (i.before s a chain).lanes.length = i.w.lanes.length := by
  obtain ⟨h0, h1⟩ := Iss.loops_tokens (i := i) (a := a) (i.started s (a.past i))
  exact ⟨h0, h1, by simp [Iss.before, Warp.pushLatches, Iss.lanes_tokens, Iss.started]⟩

theorem alike_after {α : Type} {f : Lane → α} (hf : Loose f) (j : Word) (w : Warp) : w.alike f (i.after a j w) := by
  have h : w.alike f (i.settleTokens a (w.closeChain a)) := by
    unfold Warp.closeChain; split <;> exact Warp.alike_of_lanes (Warp.alike_refl f w) rfl
  exact Warp.alike_trans h (Warp.alike_trans (alike_markPast hf _ _ _) (alike_completeAt hf _ _ _))

theorem unissued_after (j : Word) (w : Warp) : (i.after a j w).unissued = w.unissued := by
  unfold Iss.after; dsimp only; rw [unissued_completeAt]
  show (i.settleTokens a (w.closeChain a)).unissued = _
  unfold Warp.closeChain; split <;> rfl

theorem Warp.closeChain_rest (a : Attr) (w : Warp) :
    (w.closeChain a).lanes = w.lanes ∧ (w.closeChain a).lc0 = w.lc0 ∧ (w.closeChain a).lc1 = w.lc1 := by
  unfold Warp.closeChain; split <;> exact ⟨rfl, rfl, rfl⟩

/-- Where no level ends at the word, each lane that waits at no loop end stays where the word's own effect has left it. -/
theorem lane_after {w : Warp} {j : Word} {l : Nat} (hn : ¬ w.endsAt (prevPc (a.past i))) (hl : l < 32)
    (hw : ∀ k, (w.lane l).wait ≠ .loopEnd k) :
    ((i.after a j w).lane l).pc = (w.lane l).pc ∧ ((i.after a j w).lane l).wait = (w.lane l).wait := by
  have main : ∀ v : Warp, v.lanes = w.lanes → v.lc0 = w.lc0 → v.lc1 = w.lc1 → ∀ m d,
      (((v.markPast m (a.past i)).completeAt d (prevPc (a.past i))).lane l).pc = (w.lane l).pc
        ∧ (((v.markPast m (a.past i)).completeAt d (prevPc (a.past i))).lane l).wait = (w.lane l).wait := by
    intro v e e0 e1 m d
    have hv : v.lane l = w.lane l := by simp [Warp.lane, e]
    have hm : ((v.markPast m (a.past i)).lane l).pc = (w.lane l).pc
        ∧ ((v.markPast m (a.past i)).lane l).wait = (w.lane l).wait := by
      unfold Warp.markPast; rw [Warp.lane_modLanes, hv]; split <;> exact ⟨rfl, rfl⟩
    rw [lane_completeAt (l := l)]
    · exact hm
    · intro h h'; exact hn (.inl ⟨e0 ▸ h, e0 ▸ h'⟩)
    · intro h h'; exact hn (.inr ⟨e1 ▸ h, e1 ▸ h'⟩)
    · exact hl
    · intro k; rw [hm.2]; exact hw k
  obtain ⟨e, e0, e1⟩ := Warp.closeChain_rest a w
  exact main (i.settleTokens a (w.closeChain a)) e e0 e1 _ _

/-- What a word's own effect does: it changes the unit by `g`, nothing outside it, and moves the lanes `j`
elsewhere. -/
structure Acts (i : Iss) (body : Iss → State → State × Word) (g : Warp → Warp) (j : Word) : Prop where
  unit : ∀ s w, s.unit? i.blk i.u = some w → (body i s).1.unit? i.blk i.u = some (g w)
  only : ∀ s, OnlyUnit s (body i s).1 i.blk i.u
  jumped : ∀ s, (body i s).2 = j

theorem acts_modUnit (i : Iss) (g : Warp → Warp) : Acts i (straight (fun i s => s.modUnit i.blk i.u g)) g 0 where
  unit _ _ h := State.unit?_modUnit_of h g
  only _ := onlyUnit_modUnit _ _ _ _
  jumped _ := rfl

theorem Acts.congr {body body' : Iss → State → State × Word} {g : Warp → Warp} {j : Word}
    (h : Acts i body g j) (e : ∀ s, body' i s = body i s) : Acts i body' g j where
  unit s w hw := by rw [e]; exact h.unit s w hw
  only s := by rw [e]; exact h.only s
  jumped s := by rw [e]; exact h.jumped s

theorem acts_twice {i : Iss} {f g : Iss → State → State} {x y : Warp → Warp} (hf : Acts i (straight f) x 0)
    (hg : Acts i (straight g) y 0) : Acts i (straight (fun i s => g i (f i s))) (fun w => y (x w)) 0 where
  unit s w h := hg.unit _ _ (hf.unit s w h)
  only s := (hf.only s).trans (hg.only _)
  jumped _ := rfl

theorem logStream_unchecked (h : i.pairNo = none) (s : State) (c : Bool) : s.logStream i c = s := by
  unfold State.logStream; rw [h]; split <;> simp_all

theorem fillQueue_unchecked (h : i.pairNo = none) (s : State) (n : Option Nat) : s.fillQueue i a n = s := by
  unfold State.fillQueue; rw [h]; split <;> simp_all

theorem queueTokens_unchecked (h : i.pairNo = none) (s : State) : s.queueTokens i a = s := by
  unfold State.queueTokens; rw [h]; split <;> simp_all

theorem keepValues_unchecked (h : i.pairNo = none) (s : State) :
    s.keepValues i a = s.modUnit i.blk i.u (i.settleTokens a) := by
  unfold State.keepValues; dsimp only
  rw [queueTokens_unchecked h, fillQueue_unchecked h, ite_self, ite_self]

theorem startWord_unchecked (h : i.pairNo = none) (hw : s.unit? i.blk i.u = some i.w) (past : Nat) :
    (s.startWord i i.path past).unit? i.blk i.u = some (i.started s past) := by
  unfold State.startWord; rw [h]; cases hu : i.u <;> (rw [hu] at hw; rw [State.unit?_modUnit_of hw]; rfl)

theorem onlyUnit_startWord (h : i.pairNo = none) (s : State) (m : Word) (past : Nat) :
    OnlyUnit s (s.startWord i m past) i.blk i.u := by
  unfold State.startWord; rw [h]; cases i.u <;> exact onlyUnit_modUnit _ _ _ _

theorem unit?_countWord (s : State) (k : Nat) (v : UnitRef) : (s.countWord i).unit? k v = s.unit? k v := by
  unfold State.countWord; split <;> simp

theorem onlyUnit_countWord (s : State) (b : Nat) (u : UnitRef) : OnlyUnit s (s.countWord i) b u := by
  unfold State.countWord; split
  · exact .refl _ _ _
  · exact (onlyUnit_count _ _ _ _ _ _ _).trans (onlyUnit_count _ _ _ _ _ _ _)

theorem onlyUnit_acquireTokens (s : State) : OnlyUnit s (s.acquireTokens i a) i.blk i.u := by
  unfold State.acquireTokens; dsimp only; split
  · exact .refl _ _ _
  · exact (onlyUnit_modUnit _ _ _ _).after ((onlyUnit_raiseLtime _ _ _ _ _).after (onlyUnit_acquireAt _ _ _ _ _ _))

theorem onlyUnit_dropTokens (s : State) : OnlyUnit s (s.dropTokens i a) i.blk i.u := by
  unfold State.dropTokens; dsimp only; split
  · exact .refl _ _ _
  · exact onlyUnit_modUnit _ _ _ _

/-- What reading an ended command's word leaves of the unit. -/
theorem unit?_acquireTokens {w : Warp} (h : s.unit? i.blk i.u = some w) :
    (s.acquireTokens i a).unit? i.blk i.u = some (i.acquired a w) := by
  unfold State.acquireTokens Iss.acquired; dsimp only
  split
  · exact h
  · exact State.unit?_modUnit_of (by simpa using h) _

theorem unit?_dropTokens {w : Warp} (h : s.unit? i.blk i.u = some w) :
    (s.dropTokens i a).unit? i.blk i.u = some (i.dropped a w) := by
  unfold State.dropTokens Iss.dropped; dsimp only
  split
  · exact h
  · exact State.unit?_modUnit_of h _

/-- The state that the word's own effect acts on. -/
def State.entered (s : State) (i : Iss) (a : Attr) (chain : Option Chain) : State :=
  (((((s.startWord i i.path (a.past i)).countWord i).acquireTokens i a).dropTokens i a).modUnit i.blk i.u
    (fun w => { (w.pushLatches i a) with chain := chain })).addEnergy i.blk a.cls 1

theorem entered_unit (hp : i.pairNo = none) (hw : s.unit? i.blk i.u = some i.w) (chain : Option Chain) :
    (s.entered i a chain).unit? i.blk i.u = some (i.before s a chain) := by
  have h0 := (unit?_countWord (i := i) (s.startWord i i.path (a.past i)) i.blk i.u).trans (startWord_unchecked hp hw (a.past i))
  have h1 := State.unit?_modUnit_of (unit?_dropTokens (a := a) (unit?_acquireTokens (a := a) h0)) (fun w => { (w.pushLatches i a) with chain := chain })
  exact (State.unit?_addEnergy _ i.blk a.cls 1 i.blk i.u).trans h1

theorem entered_only (hp : i.pairNo = none) (chain : Option Chain) : OnlyUnit s (s.entered i a chain) i.blk i.u :=
  (onlyUnit_addEnergy _ _ _ _ _).after ((onlyUnit_modUnit _ _ _ _).after
    ((onlyUnit_dropTokens _).after ((onlyUnit_acquireTokens _).after ((onlyUnit_countWord _ _ _).after (onlyUnit_startWord hp _ _ _)))))

/-- A word outside a checked block: its own effect, then what every word ends with. -/
theorem perform_eq (hp : i.pairNo = none) (chain : Option Chain) (body : Iss → State → State × Word) :
    s.perform i a chain body =
      (((body i (s.entered i a chain)).1.modUnit i.blk i.u (fun w => w.closeChain a)).modUnit i.blk i.u (i.settleTokens a)).endWord i
        (body i (s.entered i a chain)).2 (a.past i) := by
  unfold State.perform State.entered; dsimp only
  rw [logStream_unchecked hp, keepValues_unchecked hp]

/-- What every word ends with. -/
theorem ended_unit {w : Warp} (h : s.unit? i.blk i.u = some w) (j : Word) :
    (((s.modUnit i.blk i.u (fun w => w.closeChain a)).modUnit i.blk i.u (i.settleTokens a)).endWord i j (a.past i)).unit? i.blk i.u
      = some (i.after a j w) := by
  rw [State.endWord]; exact State.unit?_modUnit_of (State.unit?_modUnit_of (State.unit?_modUnit_of h _) _) _

theorem ended_only (j : Word) :
    OnlyUnit s (((s.modUnit i.blk i.u (fun w => w.closeChain a)).modUnit i.blk i.u (i.settleTokens a)).endWord i j (a.past i))
      i.blk i.u := by
  rw [State.endWord]; exact (onlyUnit_modUnit _ _ _ _).after ((onlyUnit_modUnit _ _ _ _).after (onlyUnit_modUnit _ _ _ _))

/-- THE UNIT AFTER A WORD: it holds what the word's own effect makes of it, past the word. -/
theorem perform_unit {body : Iss → State → State × Word} {g : Warp → Warp} {j : Word} (hp : i.pairNo = none)
    (hw : s.unit? i.blk i.u = some i.w) (hb : Acts i body g j) (chain : Option Chain) :
    (s.perform i a chain body).unit? i.blk i.u = some (i.after a j (g (i.before s a chain))) := by
  rw [perform_eq hp, hb.jumped]; exact ended_unit (hb.unit _ _ (entered_unit hp hw chain)) j

/-- A word changes its unit, counters and energy counts, and nothing else. -/
theorem perform_only {body : Iss → State → State × Word} {g : Warp → Warp} {j : Word} (hp : i.pairNo = none)
    (hb : Acts i body g j) (chain : Option Chain) : OnlyUnit s (s.perform i a chain body) i.blk i.u := by
  rw [perform_eq hp]; exact (ended_only _).after ((hb.only _).after (entered_only hp chain))

/-- A lane of the path that ran, past a word at which no level ends. -/
theorem after_past {g : Warp → Warp} {chain : Option Chain} {l : Nat} (hn : i.noLoopEnd (a.past i))
    (hl : l < 32) (hlen : l < i.w.lanes.length) (hin : inMask i.path l = true) (hwait : (i.w.lane l).wait = .none)
    (hg : ∀ w : Warp, w.lanes.length = i.w.lanes.length → ((g w).lane l).pc = (w.lane l).pc ∧ ((g w).lane l).wait = (w.lane l).wait)
    (hloops : ∀ w, (g w).lc0 = w.lc0 ∧ (g w).lc1 = w.lc1) (j : Word) :
    ((i.after a j (g (i.before s a chain))).lane l).pc = a.past i ∧
      ((i.after a j (g (i.before s a chain))).lane l).wait = .none := by
  obtain ⟨b1, b2⟩ := lane_before (a := a) s chain hlen
  obtain ⟨b3, b4, b5⟩ := loops_before (i := i) (a := a) s chain
  obtain ⟨g1, g2⟩ := hg _ b5
  obtain ⟨g3, g4⟩ := hloops (i.before s a chain)
  have hends : ¬ (g (i.before s a chain)).endsAt (prevPc (a.past i)) := by
    unfold Warp.endsAt; rw [g3, g4, b3, b4]; exact hn
  obtain ⟨p1, p2⟩ := lane_after (a := a) (j := j) hends hl (by intro k; rw [g2, b2, hwait]; simp)
  exact ⟨by rw [p1, g1, b1, if_pos hin], by rw [p2, g2, b2, hwait]⟩

end Sys2Proof.Machine
end

