-- ==== Sys2Proof/Laws/Register.lean ====
section
/-! SUPPORT. What the register-only words do when nothing holds them: one lemma for each shared operation. -/

namespace Sys2Proof.Machine

variable {s : State} {a : Attr} {i : Iss} {extra stall : Iss → State → Bool} {ws : List Word}

/-! ## Registers of a lane -/

theorem Lane.reg_setReg (x : Lane) (n k : Nat) (v : Word) (t : Bool) :
    (x.setReg n v t).reg k = if k = n then v else x.reg k := by
  simp [Lane.reg, Lane.setReg, Table.getD_putD]

theorem Lane.tainted_setReg (x : Lane) (n k : Nat) (v : Word) (t : Bool) (h : n < 56) :
    (x.setReg n v t).tainted k = if k = n then t else x.tainted k := by
  have hp : ∀ j, (BitVec.ofNat 56 (2 ^ n)).getLsbD j = decide (j = n) := by
    intro j
    rw [BitVec.getLsbD_ofNat, Nat.testBit_two_pow]
    by_cases hj : j = n
    · simp [hj, h]
    · simp [hj, Ne.symm hj]
  simp only [Lane.tainted, Lane.setReg, natBit, BitVec.testBit_toNat]
  cases t
  · simp only [Bool.false_eq_true, if_false, BitVec.getLsbD_and, BitVec.getLsbD_not, hp]
    by_cases hk : k = n
    · simp [hk]
    · by_cases hk' : k < 56
      · simp [hk, hk']
      · simp [hk, hk', BitVec.getLsbD_of_ge x.taint k (by omega)]
  · simp only [if_true, BitVec.getLsbD_or, hp]
    by_cases hk : k = n <;> simp [hk]

theorem Lane.unissued_v (x : Lane) : x.unissued.v = x.v ∧ x.unissued.taint = x.taint := ⟨rfl, rfl⟩

theorem Lane.unissued_setReg (x : Lane) (n : Nat) (v : Word) (t : Bool) :
    (x.setReg n v t).unissued = x.unissued.setReg n v t := rfl

theorem Lane.unissued_setLatch (x : Lane) (v : Word) (t : Bool) : (x.setLatch v t).unissued = x.unissued := by
  unfold Lane.setLatch; split <;> rfl

/-! ## The word is done -/

theorem same_before (s : State) (chain : Option Chain) : i.w.same (i.before s a chain) :=
  ⟨unissued_before _ _, (alike_before loose_unissued (fun _ _ => rfl) s chain).1,
   (alike_before loose_unissued (fun _ _ => rfl) s chain).2⟩

theorem Warp.same.after {w v : Warp} (h : w.same v) (j : Word) : w.same (i.after a j v) :=
  ⟨(unissued_after _ _).trans h.1, (alike_after loose_unissued j v).1.trans h.2.1,
   fun l => ((alike_after loose_unissued j v).2 l).trans (h.2.2 l)⟩

/-- A word that nothing holds carries out its own effect, whatever that is. -/
theorem Ready.does (h : Ready s a i extra stall ws) (body : Iss → State → State × Word) :
    ∃ t, s.issue a extra stall body = .next t ∧ Does s t i (fun i s => (body i s).1) (a.past i) := by
  have hp := h.pairNo
  let c := (i.chainWith a ws).2
  refine ⟨_, h.issue body, s.entered i a c, entered_only hp c,
    ⟨i.before s a c, entered_unit hp h.unit c, same_before s c, (loops_before s c).1, (loops_before s c).2.1, fun l hl => ?_⟩, ?_, ?_⟩
  · exact ⟨(lane_before s c hl).2, (lane_before s c hl).1⟩
  · rw [perform_eq hp]; exact ended_only _
  · intro w hw
    rw [perform_eq hp]
    refine ⟨_, ended_unit hw _, Warp.same.after ⟨rfl, rfl, fun _ => rfl⟩ _, fun hn l hl hwait => lane_after hn hl hwait⟩

/-- `Does` looks at its effect for the issuing word alone. -/
theorem Does.congr {s t : State} {f g : Iss → State → State} {past : Nat} (h : Does s t i f past)
    (e : ∀ u, f i u = g i u) : Does s t i g past := by
  obtain ⟨u, h1, h2, h3, h4⟩ := h
  exact ⟨u, h1, h2, e u ▸ h3, e u ▸ h4⟩

/-- A word that is held by nothing carries out its own effect, past the word. -/
theorem Ready.carries (h : Ready s a i extra stall ws) {body : Iss → State → State × Word} {f : Iss → State → State}
    (hp : a.past i = nextPc i.pc) (e : ∀ u, (body i u).1 = f i u) :
    ∃ t, s.issue a extra stall body = .next t ∧ Does s t i f :=
  (h.does body).imp fun _ ht => ⟨ht.1, hp ▸ ht.2.congr e⟩

/-- An update of a unit that leaves where its lanes stand. -/
structure Still (g : Warp → Warp) : Prop where
  pc : ∀ w l, ((g w).lane l).pc = (w.lane l).pc
  wait : ∀ w l, ((g w).lane l).wait = (w.lane l).wait
  lc0 : ∀ w, (g w).lc0 = w.lc0
  lc1 : ∀ w, (g w).lc1 = w.lc1

/-- A word that nothing holds, and whose own effect is an update of its unit, is done. -/
theorem Ready.past (h : Ready s a i extra stall ws) {f : Iss → State → State} {g : Warp → Warp} {v : Warp}
    (hb : Acts i (straight f) g 0) (hg : Still g) (hv : ∀ w, i.w.same w → v.same (g w)) :
    ∃ t, s.issue a extra stall (straight f) = .next t ∧ Past s t i v (a.past i) := by
  have hp := h.pairNo
  refine ⟨_, h.issue _, ⟨_, perform_unit hp h.unit hb _, ?_⟩, perform_only hp hb _⟩
  have hs := (hv _ (same_before (a := a) s (i.chainWith a ws).2)).after (i := i) (a := a) 0
  refine ⟨hs.1, hs.2.1, hs.2.2, fun hn l hl hlen hin hw => ?_⟩
  exact after_past hn hl hlen hin hw (fun w _ => ⟨hg.pc w l, hg.wait w l⟩) (fun w => ⟨hg.lc0 w, hg.lc1 w⟩) 0

theorem inMask_act {p : Option (BitVec 4)} (h : s.issuer p = some i) {l : Nat} (hl : inMask i.act l = true) :
    inMask i.path l = true := by
  unfold State.issuer at h
  split at h
  · contradiction
  · split at h
    · contradiction
    · split at h
      · cases h
        revert hl
        dsimp only
        split
        · exact id
        · split
          · split
            · intro h; simp [inMask, natBit] at h
            · exact id
          · rw [inMask_and]; intro h; exact (Bool.and_eq_true_iff.mp h).1
      · contradiction

/-- The latch that a word pushes into an active lane keeps what the word's own effect puts there. -/
theorem Ready.latched (h : Ready s a i extra stall ws) {f : Iss → State → State} {g : Warp → Warp} {j : Nat → Word × Bool}
    (hb : Acts i (straight f) g 0)
    (hg : ∀ w l, w.lanes.length = i.w.lanes.length → l < w.lanes.length → inMask i.act l = true →
      (w.lane l).latches ≠ [] → ((g w).lane l).latchVal = some (some (j l).1, (j l).2)) :
    ∃ t, s.issue a extra stall (straight f) = .next t ∧ Latched t i j := by
  have hp := h.pairNo
  refine ⟨_, h.issue _, _, perform_unit hp h.unit hb _, fun l hl hin => ?_⟩
  rw [(alike_after loose_latchVal 0 _).2 l]
  have hlen : (i.before s a (i.chainWith a ws).2).lanes.length = i.w.lanes.length := (same_before s _).2.1
  apply hg _ _ hlen (by rw [hlen]; exact hl) hin
  have hpath := inMask_act h.issuer hin
  unfold Iss.before; dsimp only
  have key : ∀ w : Warp, w.lanes.length = i.w.lanes.length →
      (({ (w.pushLatches i a) with chain := (i.chainWith a ws).2 } : Warp).lane l).latches ≠ [] := by
    intro w hw
    have e : ({ (w.pushLatches i a) with chain := (i.chainWith a ws).2 } : Warp).lane l = (w.pushLatches i a).lane l := rfl
    rw [e]; unfold Warp.pushLatches
    rw [Warp.lane_modLanes_in hpath (by rw [hw]; exact hl)]
    simp
  exact key _ (by rw [Iss.lanes_tokens]; simp [Iss.started])

/-! ## Vector results -/

theorem acts_raiseFlags (i : Iss) (fl : Flags) :
    Acts i (straight (fun i s => s.raiseFlags i fl)) (fun w => { w with fflags := if i.h.cap then w.fflags ||| fl else w.fflags }) 0 := by
  cases h : i.h.cap
  · refine { unit := fun s w hw => ?_, only := fun s => ?_, jumped := fun _ => rfl }
    · simpa [straight, State.raiseFlags, h] using hw
    · simpa [straight, State.raiseFlags, h] using OnlyUnit.refl s i.blk i.u
  · refine (acts_modUnit i (fun w => { w with fflags := w.fflags ||| fl })).congr (fun s => ?_)
    simp [straight, State.raiseFlags, h]

theorem Lane.latchVal_setLatch (x : Lane) (v : Word) (t : Bool) (h : x.latches ≠ []) :
    (x.setLatch v t).latchVal = some (some v, t) := by
  unfold Lane.setLatch Lane.latchVal
  cases hl : x.latches with
  | nil => exact absurd hl h
  | cons e r => simp

theorem Lane.setLatch_stands (x : Lane) (v : Word) (t : Bool) :
    (x.setLatch v t).pc = x.pc ∧ (x.setLatch v t).wait = x.wait := by
  unfold Lane.setLatch; split <;> exact ⟨rfl, rfl⟩

/-- A change of a lane's registers: it sees nothing of what every issue changes, and changes nothing of it. -/
structure Regs (h : Nat → Lane → Lane) : Prop where
  unissued : ∀ l x, (h l x).unissued = h l x.unissued
  pc : ∀ l x, (h l x).pc = x.pc
  wait : ∀ l x, (h l x).wait = x.wait
  latches : ∀ l x, (h l x).latches = x.latches

theorem regs_id : Regs (fun _ x => x) := ⟨fun _ _ => rfl, fun _ _ => rfl, fun _ _ => rfl, fun _ _ => rfl⟩

theorem regs_setReg (n : Nat → Nat) (v : Nat → Word) (t : Nat → Bool) : Regs (fun l x => x.setReg (n l) (v l) (t l)) :=
  ⟨fun _ _ => rfl, fun _ _ => rfl, fun _ _ => rfl, fun _ _ => rfl⟩

theorem Regs.comp {g h : Nat → Lane → Lane} (hg : Regs g) (hh : Regs h) : Regs (fun l x => g l (h l x)) :=
  ⟨fun l x => by rw [hg.unissued, hh.unissued], fun l x => by rw [hg.pc, hh.pc], fun l x => by rw [hg.wait, hh.wait],
   fun l x => by rw [hg.latches, hh.latches]⟩

theorem Regs.foldl {h : Nat → Nat → Lane → Lane} (hh : ∀ k, Regs (h k)) (ks : List Nat) :
    Regs (fun l x => ks.foldl (fun x k => h k l x) x) := by
  induction ks with
  | nil => exact regs_id
  | cons k ks ih => exact ih.comp (hh k)

/-- The latch of each active lane takes its value, then its registers change; flags enter under CAP. -/
def Iss.effect (i : Iss) (f : Nat → Word × Bool) (h : Nat → Lane → Lane) (fl : Option Flags) (w : Warp) : Warp :=
  { (w.modLanes i.act (fun l x => h l (x.setLatch (f l).1 (f l).2))) with
    fflags := match fl with
      | some b => if i.h.cap then w.fflags ||| b else w.fflags
      | none => w.fflags }

theorem lane_effect (f : Nat → Word × Bool) (h : Nat → Lane → Lane) (fl : Option Flags) (w : Warp) (l : Nat) :
    (i.effect f h fl w).lane l = (w.modLanes i.act (fun l x => h l (x.setLatch (f l).1 (f l).2))).lane l := rfl

theorem still_effect (f : Nat → Word × Bool) {h : Nat → Lane → Lane} (hh : Regs h) (fl : Option Flags) :
    Still (i.effect f h fl) := by
  have hr : ∀ (w : Warp) (l : Nat), ((i.effect f h fl w).lane l).pc = (w.lane l).pc ∧
      ((i.effect f h fl w).lane l).wait = (w.lane l).wait := by
    intro w l; rw [lane_effect, Warp.lane_modLanes]; split
    · rw [hh.pc, hh.wait]; exact Lane.setLatch_stands _ _ _
    · exact ⟨rfl, rfl⟩
  exact ⟨fun w l => (hr w l).1, fun w l => (hr w l).2, fun _ => rfl, fun _ => rfl⟩

/-- The unit that `Iss.effect` makes of the issuing unit, without its latches. -/
def Iss.withEffect (i : Iss) (h : Nat → Lane → Lane) (fl : Option Flags) : Warp :=
  { (i.withLanes h) with fflags := match fl with
      | some b => if i.h.cap then i.w.fflags ||| b else i.w.fflags
      | none => i.w.fflags }

theorem same_effect (f : Nat → Word × Bool) {h : Nat → Lane → Lane} (hh : Regs h) (fl : Option Flags) (w : Warp)
    (hw : i.w.same w) : (i.withEffect h fl).same (i.effect f h fl w) := by
  obtain ⟨h1, h2, h3⟩ := hw
  refine ⟨?_, by simp [Iss.withEffect, Iss.withLanes, Iss.effect, h2], fun l => ?_⟩
  · have hf : w.fflags = i.w.fflags := by have := congrArg Warp.fflags h1; exact this
    unfold Iss.effect Iss.withEffect
    rw [hf]
    have := congrArg (fun v : Warp => { v with fflags := match fl with
      | some b => if i.h.cap then i.w.fflags ||| b else i.w.fflags
      | none => i.w.fflags }) h1
    exact this
  · have e : (i.withEffect h fl).lane l = (i.w.modLanes i.act h).lane l := rfl
    rw [e, lane_effect, Warp.lane_modLanes, Warp.lane_modLanes, h2]
    split
    · rw [hh.unissued, hh.unissued, Lane.unissued_setLatch, h3]
    · exact h3 l

/-- A word whose own effect is of that form is done, and latched. -/
theorem Ready.effect (h : Ready s a i extra stall ws) (f : Nat → Word × Bool) {g : Nat → Lane → Lane} (hg : Regs g)
    (fl : Option Flags) {body : Iss → State → State} (hb : Acts i (straight body) (i.effect f g fl) 0) :
    ∃ t, s.issue a extra stall (straight body) = .next t ∧ Past s t i (i.withEffect g fl) (a.past i) ∧ Latched t i f := by
  obtain ⟨t, ht, hpast⟩ := h.past hb (still_effect f hg fl) (same_effect f hg fl)
  obtain ⟨t', ht', hlat⟩ := h.latched hb (j := f) (by
    intro w l _ hl hin hne
    rw [lane_effect, Warp.lane_modLanes_in hin hl]
    have := Lane.latchVal_setLatch (w.lane l) (f l).1 (f l).2 hne
    unfold Lane.latchVal at this ⊢
    rw [hg.latches]; exact this)
  rw [ht] at ht'; cases ht'
  exact ⟨t, ht, hpast, hlat⟩

theorem acts_effect (i : Iss) (f : Nat → Word × Bool) (h : Nat → Lane → Lane) :
    Acts i (straight (fun i s => s.modUnit i.blk i.u (fun w => w.modLanes i.act (fun l x =>
      h l (x.setLatch (f l).1 (f l).2))))) (i.effect f h none) 0 :=
  { unit := fun s w hw => (acts_modUnit i _).unit s w hw
    only := fun s => (acts_modUnit i _).only s
    jumped := fun _ => rfl }

/-- What a result in register D, or under NW in the latches alone, changes of a lane. -/
def vecLane (d : BitVec 6) (n : Bool) (f : Nat → Word × Bool) (l : Nat) (x : Lane) : Lane :=
  if n then x else x.setReg d.toNat (f l).1 (f l).2

theorem regs_vecLane (d : BitVec 6) (n : Bool) (f : Nat → Word × Bool) : Regs (vecLane d n f) := by
  cases n
  · exact regs_setReg (fun _ => d.toNat) (fun l => (f l).1) (fun l => (f l).2)
  · exact regs_id

theorem acts_results (i : Iss) (d : BitVec 6) (n : Bool) (f : Nat → Word × Bool) :
    Acts i (straight (fun i s => s.results i d n f)) (i.effect f (vecLane d n f) none) 0 :=
  (acts_effect i f (vecLane d n f)).congr (fun s => by
    simp only [straight, State.results, vecLane])

theorem noFlags (c : Bool) (x : BitVec 5) : (if c then x ||| 0 else x) = x := by cases c <;> simp

/-- A vector result of each active lane with flags: done, and latched. -/
theorem Ready.vector (h : Ready s a i extra stall ws) (d : BitVec 6) (n : BitVec 1) (f : Nat → Word × Bool) (fl : Flags)
    {body : Iss → State → State} (hbody : ∀ s, body i s = (s.results i d (nwOf n) f).raiseFlags i fl) :
    ∃ t, s.issue a extra stall (straight body) = .next t ∧ Past s t i (i.withVec d n f fl) (a.past i) ∧ Latched t i f := by
  have hb : Acts i (straight body) (i.effect f (vecLane d (nwOf n) f) (some fl)) 0 :=
    (acts_twice (acts_results i d (nwOf n) f) (acts_raiseFlags i fl)).congr (fun s => by simp [straight, hbody])
  exact h.effect f (regs_vecLane d (nwOf n) f) (some fl) hb

/-- A vector result of each active lane without flags: done, and latched. -/
theorem Ready.vector' (h : Ready s a i extra stall ws) (d : BitVec 6) (n : BitVec 1) (f : Nat → Word × Bool)
    {body : Iss → State → State} (hbody : ∀ s, body i s = s.results i d (nwOf n) f) :
    ∃ t, s.issue a extra stall (straight body) = .next t ∧ Past s t i (i.withVec d n f 0) (a.past i) ∧ Latched t i f := by
  have e : i.withVec d n f 0 = i.withEffect (vecLane d (nwOf n) f) none := by
    unfold Iss.withVec; rw [noFlags]; rfl
  rw [e]
  exact h.effect f (regs_vecLane d (nwOf n) f) none
    ((acts_results i d (nwOf n) f).congr (fun s => by simp [straight, hbody]))

/-- Any other change of the registers of the active lanes: done, and latched. -/
theorem Ready.lanes (h : Ready s a i extra stall ws) (f : Nat → Word × Bool) {g : Nat → Lane → Lane} (hg : Regs g)
    {body : Iss → State → State}
    (hbody : ∀ s, body i s = s.modUnit i.blk i.u (fun w => w.modLanes i.act (fun l x => g l (x.setLatch (f l).1 (f l).2)))) :
    ∃ t, s.issue a extra stall (straight body) = .next t ∧ Past s t i (i.withLanes g) (a.past i) ∧ Latched t i f :=
  h.effect f hg none ((acts_effect i f g).congr (fun s => by simp [straight, hbody]))

/-! ## Scalar and predicate results -/

/-- An update of a unit outside its lanes, that sees nothing of what every issue changes. -/
theorem Ready.unitOnly (h : Ready s a i extra stall ws) {g : Warp → Warp} {body : Iss → State → State}
    (hlanes : ∀ w, (g w).lanes = w.lanes) (h0 : ∀ w, (g w).lc0 = w.lc0) (h1 : ∀ w, (g w).lc1 = w.lc1)
    (hg : ∀ w v : Warp, w.unissued = v.unissued → (g w).unissued = (g v).unissued)
    (hb : Acts i (straight body) g 0) :
    ∃ t, s.issue a extra stall (straight body) = .next t ∧ Past s t i (g i.w) (a.past i) := by
  have hl : ∀ w l, (g w).lane l = w.lane l := fun w l => by simp [Warp.lane, hlanes]
  refine h.past hb ⟨fun w l => by rw [hl], fun w l => by rw [hl], h0, h1⟩ (fun w hw => ⟨hg _ _ hw.1, ?_, fun l => ?_⟩)
  · rw [hlanes, hlanes]; exact hw.2.1
  · rw [hl, hl]; exact hw.2.2 l

theorem unissued_sPut {w v : Warp} (h : w.unissued = v.unissued) (k : Nat) (x : Word) :
    (w.sPut k x).unissued = (v.sPut k x).unissued := by
  unfold Warp.sPut; dsimp only; split
  · exact congrArg (fun u : Warp => { u with sBad := u.sBad.filter (· != k), bank := u.bank.putD 0 k x }) h
  · exact congrArg (fun u : Warp => { u with sBad := u.sBad.filter (· != k), s := u.s.putD 0 k x }) h

theorem lanes_sPut (w : Warp) (k : Nat) (x : Word) :
    (w.sPut k x).lanes = w.lanes ∧ (w.sPut k x).lc0 = w.lc0 ∧ (w.sPut k x).lc1 = w.lc1 := by
  unfold Warp.sPut; dsimp only; split <;> exact ⟨rfl, rfl, rfl⟩

theorem unissued_sWrite {w v : Warp} (h : w.unissued = v.unissued) (m : Word) (n : Nat) (x : Word) :
    (w.sWrite m n x).unissued = (v.sWrite m n x).unissued := by
  have hk : w.sKey m n = v.sKey m n := by
    have : w.handler = v.handler := by have := congrArg Warp.handler h; exact this
    simp [Warp.sKey, this]
  unfold Warp.sWrite; rw [hk]; exact unissued_sPut h _ _

/-- A scalar result: done. -/
theorem Ready.scalar (h : Ready s a i extra stall ws) (d : BitVec 5) (x : Word)
    {body : Iss → State → State} (hbody : ∀ s, body i s = s.putS i d x) :
    ∃ t, s.issue a extra stall (straight body) = .next t ∧ Past s t i (i.withScalar d x) (a.past i) :=
  h.unitOnly (g := fun w => w.sWrite i.act d.toNat x)
    (fun w => (lanes_sPut w _ x).1) (fun w => (lanes_sPut w _ x).2.1) (fun w => (lanes_sPut w _ x).2.2)
    (fun _ _ e => unissued_sWrite e _ _ _)
    ((acts_modUnit i _).congr (fun s => by simp [straight, hbody, State.putS]))

/-! ## Words whose effect depends on what lies outside the unit -/

theorem cores_chargeUp (n fuel : Nat) (s : State) (r : Option Nat) : (s.chargeUp n fuel r).cores = s.cores := by
  induction fuel generalizing s r with
  | zero => cases r <;> rfl
  | succ fuel ih =>
    cases r with
    | none => rfl
    | some r =>
      unfold State.chargeUp
      split
      · rw [ih]; rfl
      · rfl

theorem cores_addEnergy (s : State) (b cls n : Nat) : (s.addEnergy b cls n).cores = s.cores := by
  unfold State.addEnergy; split
  · rfl
  · rw [cores_chargeUp]; rfl

theorem ltime_count (s : State) (core blk ev n c : Nat) : ((s.count core blk ev n).core c).ltime = (s.core c).ltime := by
  unfold State.count; split
  · rfl
  · rw [State.core_modCore]; split
    · next h => subst h; rfl
    · rfl

theorem ltime_countWord (s : State) (c : Nat) : ((s.countWord i).core c).ltime = (s.core c).ltime := by
  unfold State.countWord; split
  · rfl
  · rw [ltime_count, ltime_count]

/-- A word that reads and writes no scalar register acquires nothing. -/
theorem ltime_entered (hr : a.rs = []) (hp : i.pairNo = none) (chain : Option Chain) (c : Nat) :
    ((s.entered i a chain).core c).ltime = (s.core c).ltime := by
  have hu : ∀ (u : State) (m : Word) (p : Nat), (u.startWord i m p).cores = u.cores := by
    intro u m p; unfold State.startWord; rw [hp]; cases i.u <;> rfl
  have ha : ∀ u : State, ((u.acquireTokens i a).dropTokens i a).cores = u.cores := by
    intro u
    have hd : ∀ u : State, (u.dropTokens i a).cores = u.cores := by
      intro u; unfold State.dropTokens; dsimp only; split <;> rfl
    rw [hd]; unfold State.acquireTokens Iss.acquires Iss.sKeys; rw [hr]; dsimp only; split
    · rfl
    · next hn => exact absurd rfl hn
  have e : ∀ u v : State, u.cores = v.cores → u.core c = v.core c := fun u v h => by unfold State.core; rw [h]
  unfold State.entered
  rw [e _ ((s.startWord i i.path (a.past i)).countWord i) (by rw [cores_addEnergy]; exact ha _), ltime_countWord,
    e _ s (hu _ _ _)]

/-- Two words of one unit do the same where their own effects are the same on every state in which nothing but what
every issue changes has changed. -/
theorem Ready.congr (h : Ready s a i extra stall ws) {body body' : Iss → State → State × Word}
    (hb : ∀ u, OnlyUnit s u i.blk i.u → (a.rs = [] → ∀ c, (u.core c).ltime = (s.core c).ltime) → body i u = body' i u) :
    s.issue a extra stall body = s.issue a extra stall body' := by
  have hp := h.pairNo
  rw [h.issue, h.issue, perform_eq hp, perform_eq hp,
    hb _ (entered_only hp _) (fun hr c => ltime_entered hr hp _ c)]

theorem OnlyUnit.core {s t : State} {b : Nat} {u : UnitRef} (h : OnlyUnit s t b u) (c : Nat) :
    (t.core c).engTiles = (s.core c).engTiles ∧ (t.core c).cycle0 = (s.core c).cycle0 := by
  have h := h.cores c
  have h1 := congrArg Core.engTiles h
  have h2 := congrArg Core.cycle0 h
  exact ⟨h1, h2⟩

theorem OnlyUnit.rest {s t : State} {b : Nat} {u : UnitRef} (h : OnlyUnit s t b u) :
    t.now = s.now ∧ t.devNum = s.devNum ∧ t.parts = s.parts ∧ t.dies = s.dies := by
  have h := h.fields
  have h1 := congrArg State.now h
  have h2 := congrArg State.devNum h
  have h3 := congrArg State.parts h
  have h4 := congrArg State.dies h
  exact ⟨h1, h2, h3, h4⟩

/-- A scalar result that depends on what lies outside the unit. -/
theorem Ready.scalarOf (h : Ready s a i extra stall ws) (d : BitVec 5) (x : State → Word) {body : Iss → State → State}
    (hx : ∀ u, OnlyUnit s u i.blk i.u → (a.rs = [] → ∀ c, (u.core c).ltime = (s.core c).ltime) →
      body i u = u.putS i d (x s)) :
    ∃ t, s.issue a extra stall (straight body) = .next t ∧ Past s t i (i.withScalar d (x s)) (a.past i) := by
  rw [h.congr (body' := straight (fun i u => u.putS i d (x s))) (fun u hu hl => by rw [straight, hx u hu hl, straight])]
  exact h.scalar d (x s) (fun _ => rfl)

/-- The predicates of the active lanes, one after the other. -/
def Iss.predFold (i : Iss) (g : BitVec 2) (k : BitVec 3) (f : Nat → Bool) (w : Warp) : Warp :=
  (lanesOf i.act).foldl (fun (w : Warp) l =>
    w.setPred k.toNat l (combinePred g (inMask (i.w.pred k.toNat) l) (f l))) w

theorem unissued_setPred {w v : Warp} (h : w.unissued = v.unissued) (k l : Nat) (c : Bool) :
    (w.setPred k l c).unissued = (v.setPred k l c).unissued := by
  have hp : w.preds = v.preds := by have := congrArg Warp.preds h; exact this
  unfold Warp.setPred; dsimp only
  have e : w.pred k = v.pred k := by simp [Warp.pred, hp]
  rw [e, hp]
  have := congrArg (fun u : Warp => { u with
    preds := v.preds.putD 0 k (if c then v.pred k ||| laneBit l else v.pred k &&& ~~~(laneBit l)) }) h
  exact this

theorem unissued_foldl {g : Warp → Nat → Warp} (hg : ∀ w v l, w.unissued = v.unissued → (g w l).unissued = (g v l).unissued)
    (ls : List Nat) {w v : Warp} (h : w.unissued = v.unissued) : (ls.foldl g w).unissued = (ls.foldl g v).unissued := by
  induction ls generalizing w v with
  | nil => exact h
  | cons l ls ih => exact ih (hg _ _ _ h)

theorem foldl_keeps {α : Type} {g : Warp → Nat → Warp} {f : Warp → α} (hg : ∀ w l, f (g w l) = f w) (ls : List Nat) (w : Warp) :
    f (ls.foldl g w) = f w := by
  induction ls generalizing w with
  | nil => rfl
  | cons l ls ih => exact (ih _).trans (hg _ _)

theorem acts_predResults (i : Iss) (g : BitVec 2) (k : BitVec 3) (f : Nat → Bool) :
    Acts i (straight (fun i s => s.predResults i g k f)) (i.predFold g k f) 0 :=
  (acts_modUnit i _).congr (fun _ => rfl)

theorem unissued_predFold {g : BitVec 2} {k : BitVec 3} {f : Nat → Bool} {w v : Warp} (h : w.unissued = v.unissued) :
    (i.predFold g k f w).unissued = (i.predFold g k f v).unissued :=
  unissued_foldl (g := fun w l => w.setPred k.toNat l (combinePred g (inMask (i.w.pred k.toNat) l) (f l)))
    (fun _ _ _ e => unissued_setPred e _ _ _) _ h

/-- Predicate results with flags: done. -/
theorem Ready.predicate (h : Ready s a i extra stall ws) (g : BitVec 2) (k : BitVec 3) (f : Nat → Bool) (fl : Flags)
    {body : Iss → State → State} (hbody : ∀ s, body i s = (s.predResults i g k f).raiseFlags i fl) :
    ∃ t, s.issue a extra stall (straight body) = .next t ∧ Past s t i (i.withPred g k f fl) (a.past i) := by
  have hk : ∀ {α : Type} (p : Warp → α), (∀ w n l c, p (Warp.setPred w n l c) = p w) → ∀ w, p (i.predFold g k f w) = p w :=
    fun p hp w => foldl_keeps (f := p) (fun w _ => hp w _ _ _) _ w
  have := h.unitOnly (body := body) (g := fun w => { (i.predFold g k f w) with
      fflags := if i.h.cap then (i.predFold g k f w).fflags ||| fl else (i.predFold g k f w).fflags })
    (fun w => hk Warp.lanes (fun _ _ _ _ => rfl) w) (fun w => hk Warp.lc0 (fun _ _ _ _ => rfl) w)
    (fun w => hk Warp.lc1 (fun _ _ _ _ => rfl) w)
    (fun w v e => by
      have e1 : (i.predFold g k f w).unissued = (i.predFold g k f v).unissued :=
        unissued_predFold e
      have e2 : (i.predFold g k f w).fflags = (i.predFold g k f v).fflags := by have := congrArg Warp.fflags e1; exact this
      rw [e2]
      exact congrArg (fun u : Warp => { u with
        fflags := if i.h.cap then (i.predFold g k f v).fflags ||| fl else (i.predFold g k f v).fflags }) e1)
    ((acts_twice (acts_predResults i g k f) (acts_raiseFlags i fl)).congr (fun s => by simp [straight, hbody]))
  rw [hk Warp.fflags (fun _ _ _ _ => rfl)] at this
  exact this

/-- Predicate results without flags: done. -/
theorem Ready.predicate' (h : Ready s a i extra stall ws) (g : BitVec 2) (k : BitVec 3) (f : Nat → Bool)
    {body : Iss → State → State} (hbody : ∀ s, body i s = s.predResults i g k f) :
    ∃ t, s.issue a extra stall (straight body) = .next t ∧ Past s t i (i.withPred g k f 0) (a.past i) := by
  have hk : ∀ {α : Type} (p : Warp → α), (∀ w n l c, p (Warp.setPred w n l c) = p w) → ∀ w, p (i.predFold g k f w) = p w :=
    fun p hp w => foldl_keeps (f := p) (fun w _ => hp w _ _ _) _ w
  have := h.unitOnly (body := body) (g := i.predFold g k f)
    (fun w => hk Warp.lanes (fun _ _ _ _ => rfl) w) (fun w => hk Warp.lc0 (fun _ _ _ _ => rfl) w)
    (fun w => hk Warp.lc1 (fun _ _ _ _ => rfl) w)
    (fun w v e => unissued_predFold e)
    ((acts_predResults i g k f).congr (fun s => by simp [straight, hbody]))
  have e : i.withPred g k f 0 = i.predFold g k f i.w := by
    have := hk Warp.fflags (fun _ _ _ _ => rfl) i.w
    unfold Iss.withPred
    rw [noFlags, ← this]; rfl
  rw [e]; exact this

end Sys2Proof.Machine
end

