-- ==== Sys2Proof/Laws/Control.lean ====
section
/-! SUPPORT. Where a branch that no fault meets leaves the lanes (05 R110 to R112, R126). -/

namespace Sys2Proof.Machine

/-! ## Masks of lanes -/

theorem inMask_or (m n : Word) (l : Nat) : inMask (m ||| n) l = (inMask m l || inMask n l) := by
  simp [inMask, natBit, Nat.testBit_or]

theorem inMask_laneBit (k l : Nat) : inMask (laneBit k) l = (decide (k = l) && decide (l < 32)) := by
  simp only [inMask, natBit, laneBit, BitVec.testBit_toNat, BitVec.getLsbD_ofNat, Nat.testBit_two_pow]
  exact Bool.and_comm _ _

theorem inMask_maskOf (ls : List Nat) (l : Nat) : inMask (maskOf ls) l = (decide (l ∈ ls) && decide (l < 32)) := by
  have key : ∀ (ls : List Nat) (m : Word), inMask (ls.foldl (fun m i => m ||| laneBit i) m) l =
      (inMask m l || (decide (l ∈ ls) && decide (l < 32))) := by
    intro ls
    induction ls with
    | nil => intro m; simp
    | cons a ls ih =>
      intro m
      rw [List.foldl_cons, ih, inMask_or, inMask_laneBit]
      by_cases h : a = l
      · subst h; cases inMask m a <;> by_cases h' : a < 32 <;> simp [h']
      · have : ¬ l = a := fun e => h e.symm
        simp [h, this]
  rw [maskOf, key]
  simp [inMask, natBit]

theorem inMask_lt {m : Word} {l : Nat} (h : inMask m l = true) : l < 32 := by
  refine Decidable.byContradiction fun hl => ?_
  have : m.getLsbD l = false := BitVec.getLsbD_of_ge m l (by omega)
  rw [inMask, natBit, BitVec.testBit_toNat, this] at h
  exact Bool.noConfusion h

theorem mem_lanesOf {m : Word} {l : Nat} : l ∈ lanesOf m ↔ inMask m l = true := by
  simp only [lanesOf, List.mem_filter, List.mem_range]
  exact ⟨fun h => h.2, fun h => ⟨inMask_lt h, h⟩⟩

theorem inMask_maskOf_lanesOf (m : Word) (l : Nat) : inMask (maskOf (lanesOf m)) l = inMask m l := by
  rw [inMask_maskOf]
  by_cases h : inMask m l = true
  · simp [mem_lanesOf, h, inMask_lt h]
  · simp [mem_lanesOf, h]

/-! ## Leaving loop levels -/

theorem lane_leave (w : Warp) (k : Nat) (m : Word) (l : Nat) : (w.leave k m).lane l = w.lane l := by
  unfold Warp.leave; dsimp only; split
  · exact lane_setLevel _ _ _ _
  · rfl

theorem lanes_leave (w : Warp) (k : Nat) (m : Word) : (w.leave k m).lanes = w.lanes := by
  unfold Warp.leave; dsimp only; split
  · unfold Warp.setLevel; split <;> rfl
  · rfl

theorem unissued_leave (w : Warp) (k : Nat) (m : Word) : (w.leave k m).unissued = w.unissued := by
  unfold Warp.leave; dsimp only; split
  · exact unissued_setLevel _ _ _
  · rfl

/-! ## Going to targets -/

theorem takeFault_none (s : State) (b : Nat) (u : UnitRef) (p : Nat → Park) : s.takeFault b u 0 p = s := by
  unfold State.takeFault; split <;> simp

/-- A branch whose targets are aligned, and lead into no body that ends at the word, meets no fault. -/
theorem State.jump_good {s : State} {i : Iss} {leave : Bool} {targets : List (Nat × Nat)}
    (h : ∀ e ∈ targets, e.2 % 4 = 0 ∧ (leave = true → i.backIn e.1 e.2 = none)) :
    s.jump i leave targets = (s.goto i leave targets, maskOf (targets.map Prod.fst)) := by
  have h1 : targets.partition (fun e => e.2 % 4 != 0) = ([], targets) := by
    rw [List.partition_eq_filter_filter]
    congr 1
    · exact List.filter_eq_nil_iff.mpr (fun e he => by simp [(h e he).1])
    · exact List.filter_eq_self.mpr (fun e he => by simp [(h e he).1])
  have h2 : targets.partition (fun e => leave && (i.backIn e.1 e.2).isSome) = ([], targets) := by
    rw [List.partition_eq_filter_filter]
    congr 1
    · refine List.filter_eq_nil_iff.mpr (fun e he => ?_)
      cases leave
      · simp
      · simp [(h e he).2 rfl]
    · refine List.filter_eq_self.mpr (fun e he => ?_)
      cases leave
      · simp
      · simp [(h e he).2 rfl]
  have h3 : ∀ (s : State), s.takeFaults i.blk i.u 32 [] = s := fun s => by simp [State.takeFaults]
  unfold State.jump
  simp only [h1, h2, List.map_nil, h3, maskOf]

/-- What `goto` makes of the unit. -/
def Iss.gone (i : Iss) (leave : Bool) (targets : List (Nat × Nat)) (w : Warp) : Warp :=
  (targets.foldl (fun (w : Warp) e =>
      let w := w.modLane e.1 (fun l => { l with pc := e.2 % 2 ^ 32 })
      if leave then (i.leaves e.2).foldl (fun (w : Warp) k => w.leave k (laneBit e.1)) w else w) w).loopCheck

theorem lane_modLane (w : Warp) (k l : Nat) (f : Lane → Lane) (hl : l < w.lanes.length) :
    (w.modLane k f).lane l = if l = k then f (w.lane l) else w.lane l := by
  unfold Warp.modLane Warp.lane
  dsimp only
  rw [listMod_get?]
  have : w.lanes[l]? = some w.lanes[l] := List.getElem?_eq_getElem hl
  split <;> simp [this]

theorem length_modLane (w : Warp) (k : Nat) (f : Lane → Lane) : (w.modLane k f).lanes.length = w.lanes.length := by
  unfold Warp.modLane listMod; dsimp only; rw [length_mapFrom]

/-- One lane is sent to its target, and leaves the levels that it leaves. -/
theorem leaves_fold (w : Warp) (ks : List Nat) (m : Word) :
    let v := ks.foldl (fun (w : Warp) k => w.leave k m) w
    v.lanes = w.lanes ∧ v.unissued = w.unissued := by
  induction ks generalizing w with
  | nil => exact ⟨rfl, rfl⟩
  | cons k ks ih =>
    have := ih (w.leave k m)
    exact ⟨this.1.trans (lanes_leave _ _ _), this.2.trans (unissued_leave _ _ _)⟩

theorem goto_fold (i : Iss) (leave : Bool) (targets : List (Nat × Nat)) (w : Warp) :
    let v := targets.foldl (fun (w : Warp) e =>
      let w := w.modLane e.1 (fun l => { l with pc := e.2 % 2 ^ 32 })
      if leave then (i.leaves e.2).foldl (fun (w : Warp) k => w.leave k (laneBit e.1)) w else w) w
    v.lanes.length = w.lanes.length ∧ v.unissued = w.unissued
      ∧ ∀ l, l < w.lanes.length → v.lane l =
          { w.lane l with pc := (targets.foldl (fun n e => if e.1 = l then e.2 % 2 ^ 32 else n) (w.lane l).pc) } := by
  induction targets generalizing w with
  | nil => exact ⟨rfl, rfl, fun _ _ => rfl⟩
  | cons e es ih =>
    have step : ∀ v : Warp, v.lanes = (w.modLane e.1 (fun l => { l with pc := e.2 % 2 ^ 32 })).lanes →
        v.unissued = w.unissued → v.lanes.length = w.lanes.length ∧ v.unissued = w.unissued ∧ ∀ l, l < w.lanes.length →
          v.lane l = { w.lane l with pc := if e.1 = l then e.2 % 2 ^ 32 else (w.lane l).pc } := by
      intro v h1 h2
      refine ⟨by rw [h1, length_modLane], h2, fun l hl => ?_⟩
      have : v.lane l = (w.modLane e.1 (fun l => { l with pc := e.2 % 2 ^ 32 })).lane l := by simp [Warp.lane, h1]
      rw [this, lane_modLane _ _ _ _ hl]
      by_cases h : l = e.1
      · simp [h]
      · simp [h, Ne.symm h]
    simp only [List.foldl_cons]
    obtain ⟨b1, b2, b3⟩ := ih (if leave then (i.leaves e.2).foldl (fun (w : Warp) k => w.leave k (laneBit e.1))
      (w.modLane e.1 (fun l => { l with pc := e.2 % 2 ^ 32 })) else w.modLane e.1 (fun l => { l with pc := e.2 % 2 ^ 32 }))
    obtain ⟨a1, a2, a3⟩ := step (if leave then (i.leaves e.2).foldl (fun (w : Warp) k => w.leave k (laneBit e.1))
      (w.modLane e.1 (fun l => { l with pc := e.2 % 2 ^ 32 })) else w.modLane e.1 (fun l => { l with pc := e.2 % 2 ^ 32 }))
      (by split
          · exact (leaves_fold _ _ _).1
          · rfl)
      (by split
          · exact (leaves_fold _ _ _).2
          · rfl)
    refine ⟨b1.trans a1, b2.trans a2, fun l hl => ?_⟩
    rw [b3 l (by rw [a1]; exact hl), a3 l hl]

/-- The last target of a lane in a list that names each lane at most once with one target. -/
theorem target_of (f : Nat → Nat) (ls : List Nat) (l n : Nat) :
    (ls.map (fun k => (k, f k))).foldl (fun n e => if e.1 = l then e.2 % 2 ^ 32 else n) n =
      if l ∈ ls then f l % 2 ^ 32 else n := by
  induction ls generalizing n with
  | nil => rfl
  | cons a ls ih =>
    rw [List.map_cons, List.foldl_cons, ih]
    by_cases h : a = l
    · subst h; simp
    · have : ¬ l = a := fun e => h e.symm
      simp [h, this]

theorem unissued_loopCheck (w : Warp) : w.loopCheck.unissued = w.unissued := by
  unfold Warp.loopCheck; rw [unissued_stepLevel, unissued_stepLevel]

/-- THE LANES AFTER A BRANCH: the lanes listed stand at their targets; every other stands where it stood. -/
theorem gone_lanes (i : Iss) (leave : Bool) (f : Nat → Nat) (m : Word) (w : Warp) :
    let v := i.gone leave ((lanesOf m).map (fun l => (l, f l))) w
    v.unissued = w.unissued ∧ v.lanes.length = w.lanes.length ∧ (∀ l, (v.lane l).unissued = (w.lane l).unissued)
      ∧ ∀ l, l < 32 → l < w.lanes.length → (w.lane l).wait = .none →
          v.lane l = { w.lane l with pc := if inMask m l then f l % 2 ^ 32 else (w.lane l).pc } := by
  obtain ⟨h1, h2, h3⟩ := goto_fold i leave ((lanesOf m).map (fun l => (l, f l))) w
  refine ⟨(unissued_loopCheck _).trans h2, (alike_loopCheck loose_unissued _).1.trans h1, fun l => ?_, fun l hl hlen hw => ?_⟩
  · rw [Iss.gone, (alike_loopCheck loose_unissued _).2 l]
    by_cases hlen : l < w.lanes.length
    · rw [h3 l hlen]; rfl
    · have out : ∀ v : Warp, ¬ l < v.lanes.length → v.lanes[l]? = none := fun v hv =>
        List.getElem?_eq_none (Nat.le_of_not_lt hv)
      unfold Warp.lane
      rw [out w hlen, out _ (by rw [h1]; exact hlen)]
  · have e := h3 l hlen
    rw [target_of] at e
    rw [Iss.gone, lane_loopCheck hl (by rw [e]; simp [hw]), e]
    simp only [mem_lanesOf]

/-! ## Loop levels that stay -/

/-- Every level that is active in `v` was active in `w`, and ends where it ended. -/
def Warp.endsIn (w v : Warp) : Prop := ∀ k, (v.level k).active = true → (w.level k).active = true ∧ (v.level k).endPc = (w.level k).endPc

theorem endsIn_trans {w v x : Warp} (h : w.endsIn v) (h' : v.endsIn x) : w.endsIn x :=
  fun k hk => ⟨(h k (h' k hk).1).1, (h' k hk).2.trans (h k (h' k hk).1).2⟩

theorem endsIn_of {w v : Warp} (h0 : v.lc0 = w.lc0) (h1 : v.lc1 = w.lc1) : w.endsIn v := by
  intro k hk
  have : v.level k = w.level k := by unfold Warp.level; split <;> assumption
  rw [this] at hk ⊢
  exact ⟨hk, rfl⟩

theorem endsIn_setLevel (w : Warp) (k : Nat) (x : Loop) (h : x.active = true → (w.level k).active = true)
    (he : x.endPc = (w.level k).endPc) : w.endsIn (w.setLevel k x) := by
  intro j hj
  unfold Warp.setLevel Warp.level at *
  by_cases hk : k = 0 <;> by_cases hj0 : j = 0 <;> simp_all

theorem endsIn_modLanes (w : Warp) (m : Word) (f : Nat → Lane → Lane) : w.endsIn (w.modLanes m f) := endsIn_of rfl rfl

theorem endsIn_endArrival (w : Warp) (m : Word) (pc k : Nat) : w.endsIn (w.endArrival m pc k) := by
  have one : ∀ (w : Warp) (j : Nat), w.endsIn (let x := w.level j
      if j ≠ k ∧ x.active ∧ x.endPc = pc then w.arrive j (m &&& x.entry) pc else w) := by
    intro w j; dsimp only; split
    · exact endsIn_modLanes _ _ _
    · exact endsIn_of rfl rfl
  exact endsIn_trans (one w 1) (one _ 0)

theorem endsIn_stepLevel (w : Warp) (k : Nat) : w.endsIn (w.stepLevel k) := by
  unfold Warp.stepLevel; dsimp only; split
  · exact endsIn_setLevel _ _ _ (by simp) rfl
  · split
    · next h =>
      split
      · refine endsIn_trans ?_ (endsIn_modLanes _ _ _)
        exact endsIn_setLevel _ _ _ (fun _ => h.1) rfl
      · refine endsIn_trans ?_ (endsIn_endArrival _ _ _ _)
        refine endsIn_trans ?_ (endsIn_modLanes _ _ _)
        exact endsIn_setLevel _ _ _ (fun e => Bool.noConfusion e) rfl
    · exact endsIn_of rfl rfl

theorem endsIn_leave (w : Warp) (k : Nat) (m : Word) : w.endsIn (w.leave k m) := by
  unfold Warp.leave; dsimp only; split
  · exact endsIn_setLevel _ _ _ (fun h => h) rfl
  · exact endsIn_of rfl rfl

theorem endsIn_gone (i : Iss) (leave : Bool) (targets : List (Nat × Nat)) (w : Warp) : w.endsIn (i.gone leave targets w) := by
  have fold : ∀ (ks : List Nat) (m : Word) (w : Warp), w.endsIn (ks.foldl (fun (w : Warp) k => w.leave k m) w) := by
    intro ks m
    induction ks with
    | nil => exact fun w => endsIn_of rfl rfl
    | cons k ks ih => exact fun w => endsIn_trans (endsIn_leave w k m) (ih _)
  have all : ∀ (ts : List (Nat × Nat)) (w : Warp), w.endsIn (ts.foldl (fun (w : Warp) e =>
      let w := w.modLane e.1 (fun l => { l with pc := e.2 % 2 ^ 32 })
      if leave then (i.leaves e.2).foldl (fun (w : Warp) k => w.leave k (laneBit e.1)) w else w) w) := by
    intro ts
    induction ts with
    | nil => exact fun w => endsIn_of rfl rfl
    | cons e es ih =>
      intro w
      rw [List.foldl_cons]
      refine endsIn_trans ?_ (ih _)
      dsimp only
      split
      · exact endsIn_trans (endsIn_of rfl rfl) (fold _ _ _)
      · exact endsIn_of rfl rfl
  exact endsIn_trans (all targets w) (endsIn_trans (endsIn_stepLevel _ 1) (endsIn_stepLevel _ 0))

/-! ## After the word -/

/-- A lane that did not complete the word arrives at no loop end. -/
theorem lane_completeAt_out {w : Warp} {m : Word} {pc l : Nat} (hm : inMask m l ≠ true) (hl : l < 32)
    (hw : ∀ j, (w.lane l).wait ≠ .loopEnd j) : (w.completeAt m pc).lane l = w.lane l := by
  have one : ∀ (v : Warp) (k : Nat) (n : Word), inMask n l ≠ true → (v.arrive k n pc).lane l = v.lane l :=
    fun v k n h => Warp.lane_modLanes_out h
  have h1 : (if w.lc1.active ∧ w.lc1.endPc = pc then w.arrive 1 (m &&& w.lc1.entry) pc else w).lane l = w.lane l := by
    split
    · exact one _ _ _ (by simp [inMask_and, hm])
    · rfl
  have hr : inMask (if w.lc1.active ∧ w.lc1.endPc = pc then m &&& ~~~w.lc1.entry else m) l ≠ true := by
    split
    · simp [inMask_and, hm]
    · exact hm
  have h2 : (if w.lc0.active ∧ w.lc0.endPc = pc then
      (if w.lc1.active ∧ w.lc1.endPc = pc then w.arrive 1 (m &&& w.lc1.entry) pc else w).arrive 0
        ((if w.lc1.active ∧ w.lc1.endPc = pc then m &&& ~~~w.lc1.entry else m) &&& w.lc0.entry) pc
      else if w.lc1.active ∧ w.lc1.endPc = pc then w.arrive 1 (m &&& w.lc1.entry) pc else w).lane l = w.lane l := by
    split
    · rw [one _ _ _ (by rw [inMask_and]; simp [hr]), h1]
    · exact h1
  unfold Warp.completeAt; dsimp only
  rw [lane_loopCheck hl (by rw [h2]; exact hw), h2]

theorem State.goto_eq (s : State) (i : Iss) (leave : Bool) (targets : List (Nat × Nat)) :
    s.goto i leave targets = s.modUnit i.blk i.u (i.gone leave targets) := rfl

variable {s : State} {a : Attr} {i : Iss} {extra stall : Iss → State → Bool} {ws : List Word}

/-- A lane that the word moved stands where the word put it. -/
theorem after_moved {j : Word} {w : Warp} {l : Nat} (hj : inMask j l = true) (hw : (w.lane l).wait = .none) :
    ((i.after a j w).lane l).pc = (w.lane l).pc ∧ ((i.after a j w).lane l).wait = .none := by
  have hl := inMask_lt hj
  have main : ∀ v : Warp, v.lane l = w.lane l → ∀ n m, inMask (n &&& ~~~j) l ≠ true → inMask (m &&& ~~~j) l ≠ true →
      (((v.markPast (n &&& ~~~j) (a.past i)).completeAt (m &&& ~~~j) (prevPc (a.past i))).lane l) = w.lane l := by
    intro v e n m hn hm
    have : (v.markPast (n &&& ~~~j) (a.past i)).lane l = w.lane l := by
      unfold Warp.markPast; rw [Warp.lane_modLanes_out hn, e]
    rw [lane_completeAt_out hm hl (by rw [this, hw]; simp), this]
  have hn : ∀ n : Word, inMask (n &&& ~~~j) l ≠ true := by
    intro n
    rw [inMask_and]
    have : inMask (~~~j) l = false := by
      have h1 := hj
      simp only [inMask, natBit, BitVec.testBit_toNat] at h1 ⊢
      simp [h1]
    simp [this]
  have e : (i.after a j w).lane l = w.lane l := by
    have e1 : (i.settleTokens a (w.closeChain a)).lane l = w.lane l := by
      simp only [Warp.lane, Iss.settleTokens, (Warp.closeChain_rest a w).1]
    exact main (i.settleTokens a (w.closeChain a)) e1 _ _ (hn _) (hn _)
  rw [e]; exact ⟨rfl, hw⟩

/-- A lane that the word did not move stands where it stood, where no level ends at the word. -/
theorem after_unmoved {j : Word} {w : Warp} {l : Nat} (hl : l < 32) (hn : i.noLoopEnd (a.past i)) (he : i.w.endsIn w)
    (hw : (w.lane l).wait = .none) :
    ((i.after a j w).lane l).pc = (w.lane l).pc ∧ ((i.after a j w).lane l).wait = .none := by
  have hends : ¬ w.endsAt (prevPc (a.past i)) := by
    intro h
    apply hn
    rcases h with ⟨h1, h2⟩ | ⟨h1, h2⟩
    · have := he 0 h1
      exact .inl ⟨this.1, by rw [← h2]; exact this.2.symm⟩
    · have := he 1 h1
      exact .inr ⟨this.1, by rw [← h2]; exact this.2.symm⟩
  obtain ⟨h1, h2⟩ := lane_after (a := a) (i := i) (j := j) hends hl (by intro k; rw [hw]; simp)
  exact ⟨h1, by rw [h2, hw]⟩

theorem levels_before (s : State) (chain : Option Chain) : i.w.endsIn (i.before s a chain) :=
  endsIn_of (loops_before s chain).1 (loops_before s chain).2.1

/-- A word that nothing holds, and that acts on its unit alone: what the unit holds afterwards. -/
theorem Ready.acts (h : Ready s a i extra stall ws) {body : Iss → State → State × Word} {g : Warp → Warp} {j : Word}
    (hb : Acts i body g j) :
    ∃ t, s.issue a extra stall body = .next t ∧ OnlyUnit s t i.blk i.u
      ∧ t.unit? i.blk i.u = some (i.after a j (g (i.before s a (i.chainWith a ws).2))) := by
  have hp := h.pairNo
  exact ⟨_, h.issue _, perform_only hp hb _, perform_unit hp h.unit hb _⟩

/-- A branch that no fault meets. -/
theorem Ready.branch (h : Ready s a i extra stall ws) (leave : Bool) (f : Nat → Nat) (v : Nat → Lane → Lane)
    (hv : ∀ l x, (v l x).unissued = v l x.unissued ∧ (v l x).pc = x.pc ∧ (v l x).wait = x.wait)
    {body : Iss → State → State × Word}
    (hb : Acts i body (fun w => (i.gone leave ((lanesOf i.act).map (fun l => (l, f l))) w).modLanes i.act v) i.act) :
    ∃ t, s.issue a extra stall body = .next t ∧ OnlyUnit s t i.blk i.u
      ∧ ∃ w, t.unit? i.blk i.u = some w ∧ w.unissued = i.w.unissued ∧ w.lanes.length = i.w.lanes.length
        ∧ (∀ l, (w.lane l).unissued = ((i.w.modLanes i.act v).lane l).unissued)
        ∧ (∀ l, l < 32 → l < i.w.lanes.length → (i.w.lane l).wait = .none →
            (inMask i.act l = true → (w.lane l).pc = f l % 2 ^ 32 ∧ (w.lane l).wait = .none)
            ∧ (inMask i.path l = true → inMask i.act l = false → i.noLoopEnd (a.past i) →
                (w.lane l).pc = a.past i ∧ (w.lane l).wait = .none)) := by
  obtain ⟨t, h1, h2, h3⟩ := h.acts hb
  let b := i.before s a (i.chainWith a ws).2
  obtain ⟨g1, g2, g3, g4⟩ := gone_lanes i leave f i.act b
  have hs := same_before (a := a) (i := i) s (i.chainWith a ws).2
  refine ⟨t, h1, h2, _, h3, ?_, ?_, fun l => ?_, fun l hl hlen hw => ?_⟩
  · rw [unissued_after]; exact g1.trans hs.1
  · refine (alike_after loose_unissued i.act _).1.trans ?_
    rw [Warp.length_modLanes]; exact g2.trans hs.2.1
  · rw [(alike_after loose_unissued i.act _).2 l, Warp.lane_modLanes, Warp.lane_modLanes, g2]
    have e : ((i.gone leave ((lanesOf i.act).map (fun l => (l, f l))) b).lane l).unissued = (i.w.lane l).unissued :=
      (g3 l).trans (hs.2.2 l)
    rw [show b.lanes.length = i.w.lanes.length from hs.2.1]
    split
    · rw [(hv _ _).1, (hv _ _).1, e]
    · exact e
  · have hwb : (b.lane l).wait = .none := (lane_before s _ hlen).2.trans hw
    have hlb : l < b.lanes.length := by rw [show b.lanes.length = i.w.lanes.length from hs.2.1]; exact hlen
    have e := g4 l hl hlb hwb
    have hlane : (((i.gone leave ((lanesOf i.act).map (fun l => (l, f l))) b).modLanes i.act v).lane l).wait = .none ∧
        (((i.gone leave ((lanesOf i.act).map (fun l => (l, f l))) b).modLanes i.act v).lane l).pc =
          if inMask i.act l then f l % 2 ^ 32 else (b.lane l).pc := by
      rw [Warp.lane_modLanes]
      split
      · rw [(hv _ _).2.2, (hv _ _).2.1, e]; exact ⟨hwb, rfl⟩
      · rw [e]; exact ⟨hwb, rfl⟩
    refine ⟨fun hin => ?_, fun hp hin hn => ?_⟩
    · obtain ⟨a1, a2⟩ := after_moved (a := a) (i := i) hin hlane.1
      exact ⟨by rw [a1, hlane.2, if_pos hin], a2⟩
    · have he : i.w.endsIn ((i.gone leave ((lanesOf i.act).map (fun l => (l, f l))) b).modLanes i.act v) :=
        endsIn_trans (levels_before s _) (endsIn_trans (endsIn_gone _ _ _ _) (endsIn_modLanes _ _ _))
      obtain ⟨a1, a2⟩ := after_unmoved (a := a) (i := i) (j := i.act) hl hn he hlane.1
      refine ⟨?_, a2⟩
      rw [a1, hlane.2, if_neg (by simp [hin])]
      rw [(lane_before s _ hlen).1, if_pos hp]

/-! ## Branches and calls as updates of the unit -/

theorem mask_ext {m n : Word} (h : ∀ l, inMask m l = inMask n l) : m = n := by
  apply BitVec.eq_of_getLsbD_eq
  intro k hk
  have := h k
  simpa only [inMask, natBit, BitVec.testBit_toNat] using this

theorem maskOf_lanesOf (m : Word) (f : Nat → Nat) : maskOf (((lanesOf m).map (fun l => (l, f l))).map Prod.fst) = m := by
  rw [List.map_map]
  have : (Prod.fst ∘ fun l => (l, f l)) = id := rfl
  rw [this, List.map_id]
  exact mask_ext (inMask_maskOf_lanesOf m)

theorem modLanes_id (w : Warp) (m : Word) : w.modLanes m (fun _ x => x) = w := by
  unfold Warp.modLanes
  have : mapFrom 0 (fun i (a : Lane) => if inMask m i = true then a else a) w.lanes = w.lanes := by
    apply List.ext_getElem?
    intro k
    rw [getElem?_mapFrom]
    cases w.lanes[k]? <;> simp
  rw [this]

/-- A branch that no fault meets changes its unit alone. -/
theorem acts_jump {leave : Bool} {f : Nat → Nat}
    (hg : ∀ l ∈ lanesOf i.act, f l % 4 = 0 ∧ (leave = true → i.backIn l (f l) = none)) :
    Acts i (fun i s => s.jump i leave ((lanesOf i.act).map (fun l => (l, f l))))
      (fun w => (i.gone leave ((lanesOf i.act).map (fun l => (l, f l))) w).modLanes i.act (fun _ x => x)) i.act := by
  have hj : ∀ s : State, s.jump i leave ((lanesOf i.act).map (fun l => (l, f l))) =
      (s.goto i leave ((lanesOf i.act).map (fun l => (l, f l))), i.act) := by
    intro s
    rw [State.jump_good, maskOf_lanesOf]
    intro e he
    obtain ⟨l, hl, rfl⟩ := List.mem_map.mp he
    exact hg l hl
  refine ⟨fun s w h => ?_, fun s => ?_, fun s => ?_⟩
  · rw [hj, modLanes_id]; exact State.unit?_modUnit_of h _
  · rw [hj]; exact onlyUnit_modUnit _ _ _ _
  · rw [hj]

/-- So does a call. -/
theorem acts_call {f : Nat → Nat} (hg : ∀ l ∈ lanesOf i.act, f l % 4 = 0) :
    Acts i (fun i s =>
      let r := s.jump i false ((lanesOf i.act).map (fun l => (l, f l)))
      (r.1.link i r.2, r.2))
      (fun w => (i.gone false ((lanesOf i.act).map (fun l => (l, f l))) w).modLanes i.act
        (fun _ x => x.setReg 55 (BitVec.ofNat 32 (nextPc i.pc)))) i.act := by
  have hj : ∀ s : State, s.jump i false ((lanesOf i.act).map (fun l => (l, f l))) =
      (s.goto i false ((lanesOf i.act).map (fun l => (l, f l))), i.act) := by
    intro s
    rw [State.jump_good, maskOf_lanesOf]
    intro e he
    obtain ⟨l, hl, rfl⟩ := List.mem_map.mp he
    exact ⟨hg l hl, by simp⟩
  refine ⟨fun s w h => ?_, fun s => ?_, fun s => ?_⟩
  · dsimp only; rw [hj]; exact State.unit?_modUnit_of (State.unit?_modUnit_of h _) _
  · dsimp only; rw [hj]; exact (onlyUnit_modUnit _ _ _ _).trans (onlyUnit_modUnit _ _ _ _)
  · dsimp only; rw [hj]

/-- A word without PRED acts in every lane of its path. -/
theorem act_path (h : s.issuer none = some i) : i.act = i.path := by
  unfold State.issuer at h
  split at h
  · cases h
  · split at h
    · cases h
    · split at h
      · cases h; rfl
      · cases h

end Sys2Proof.Machine
end

