-- ==== Sys2Proof/Laws/Word.lean ====
section
/-! SUPPORT. What each field of a word of each format reads (04 R82). -/

namespace Sys2Proof

section

variable (x0 : BitVec 6) (x1 : BitVec 4) (x2 : BitVec 6) (x3 : BitVec 6) (x4 : BitVec 6) (x5 : BitVec 1) (x6 : BitVec 3)

@[simp] theorem wordR_26_6 : fld (wordR x0 x1 x2 x3 x4 x5 x6) 26 6 = x0 := by
  apply BitVec.eq_of_toNat_eq; simp only [fld, wordR, BitVec.toNat_ofNat]; omega

@[simp] theorem wordR_22_4 : fld (wordR x0 x1 x2 x3 x4 x5 x6) 22 4 = x1 := by
  apply BitVec.eq_of_toNat_eq; simp only [fld, wordR, BitVec.toNat_ofNat]; omega

@[simp] theorem wordR_16_6 : fld (wordR x0 x1 x2 x3 x4 x5 x6) 16 6 = x2 := by
  apply BitVec.eq_of_toNat_eq; simp only [fld, wordR, BitVec.toNat_ofNat]; omega

@[simp] theorem wordR_10_6 : fld (wordR x0 x1 x2 x3 x4 x5 x6) 10 6 = x3 := by
  apply BitVec.eq_of_toNat_eq; simp only [fld, wordR, BitVec.toNat_ofNat]; omega

@[simp] theorem wordR_4_6 : fld (wordR x0 x1 x2 x3 x4 x5 x6) 4 6 = x4 := by
  apply BitVec.eq_of_toNat_eq; simp only [fld, wordR, BitVec.toNat_ofNat]; omega

@[simp] theorem wordR_3_1 : fld (wordR x0 x1 x2 x3 x4 x5 x6) 3 1 = x5 := by
  apply BitVec.eq_of_toNat_eq; simp only [fld, wordR, BitVec.toNat_ofNat]; omega

@[simp] theorem wordR_0_3 : fld (wordR x0 x1 x2 x3 x4 x5 x6) 0 3 = x6 := by
  apply BitVec.eq_of_toNat_eq; simp only [fld, wordR, BitVec.toNat_ofNat]; omega

end

section

variable (x0 : BitVec 6) (x1 : BitVec 4) (x2 : BitVec 1) (x3 : BitVec 2) (x4 : BitVec 3) (x5 : BitVec 6) (x6 : BitVec 6) (x7 : BitVec 1) (x8 : BitVec 3)

@[simp] theorem wordP_26_6 : fld (wordP x0 x1 x2 x3 x4 x5 x6 x7 x8) 26 6 = x0 := by
  apply BitVec.eq_of_toNat_eq; simp only [fld, wordP, BitVec.toNat_ofNat]; omega

@[simp] theorem wordP_22_4 : fld (wordP x0 x1 x2 x3 x4 x5 x6 x7 x8) 22 4 = x1 := by
  apply BitVec.eq_of_toNat_eq; simp only [fld, wordP, BitVec.toNat_ofNat]; omega

@[simp] theorem wordP_21_1 : fld (wordP x0 x1 x2 x3 x4 x5 x6 x7 x8) 21 1 = x2 := by
  apply BitVec.eq_of_toNat_eq; simp only [fld, wordP, BitVec.toNat_ofNat]; omega

@[simp] theorem wordP_19_2 : fld (wordP x0 x1 x2 x3 x4 x5 x6 x7 x8) 19 2 = x3 := by
  apply BitVec.eq_of_toNat_eq; simp only [fld, wordP, BitVec.toNat_ofNat]; omega

@[simp] theorem wordP_16_3 : fld (wordP x0 x1 x2 x3 x4 x5 x6 x7 x8) 16 3 = x4 := by
  apply BitVec.eq_of_toNat_eq; simp only [fld, wordP, BitVec.toNat_ofNat]; omega

@[simp] theorem wordP_10_6 : fld (wordP x0 x1 x2 x3 x4 x5 x6 x7 x8) 10 6 = x5 := by
  apply BitVec.eq_of_toNat_eq; simp only [fld, wordP, BitVec.toNat_ofNat]; omega

@[simp] theorem wordP_4_6 : fld (wordP x0 x1 x2 x3 x4 x5 x6 x7 x8) 4 6 = x6 := by
  apply BitVec.eq_of_toNat_eq; simp only [fld, wordP, BitVec.toNat_ofNat]; omega

@[simp] theorem wordP_3_1 : fld (wordP x0 x1 x2 x3 x4 x5 x6 x7 x8) 3 1 = x7 := by
  apply BitVec.eq_of_toNat_eq; simp only [fld, wordP, BitVec.toNat_ofNat]; omega

@[simp] theorem wordP_0_3 : fld (wordP x0 x1 x2 x3 x4 x5 x6 x7 x8) 0 3 = x8 := by
  apply BitVec.eq_of_toNat_eq; simp only [fld, wordP, BitVec.toNat_ofNat]; omega

end

section

variable (x0 : BitVec 6) (x1 : BitVec 4) (x2 : BitVec 6) (x3 : BitVec 6) (x4 : BitVec 10)

@[simp] theorem wordI_26_6 : fld (wordI x0 x1 x2 x3 x4) 26 6 = x0 := by
  apply BitVec.eq_of_toNat_eq; simp only [fld, wordI, BitVec.toNat_ofNat]; omega

@[simp] theorem wordI_22_4 : fld (wordI x0 x1 x2 x3 x4) 22 4 = x1 := by
  apply BitVec.eq_of_toNat_eq; simp only [fld, wordI, BitVec.toNat_ofNat]; omega

@[simp] theorem wordI_16_6 : fld (wordI x0 x1 x2 x3 x4) 16 6 = x2 := by
  apply BitVec.eq_of_toNat_eq; simp only [fld, wordI, BitVec.toNat_ofNat]; omega

@[simp] theorem wordI_10_6 : fld (wordI x0 x1 x2 x3 x4) 10 6 = x3 := by
  apply BitVec.eq_of_toNat_eq; simp only [fld, wordI, BitVec.toNat_ofNat]; omega

@[simp] theorem wordI_0_10 : fld (wordI x0 x1 x2 x3 x4) 0 10 = x4 := by
  apply BitVec.eq_of_toNat_eq; simp only [fld, wordI, BitVec.toNat_ofNat]; omega

end

section

variable (x0 : BitVec 6) (x1 : BitVec 4) (x2 : BitVec 6) (x3 : BitVec 6) (x4 : BitVec 3) (x5 : BitVec 2) (x6 : BitVec 5)

@[simp] theorem wordKs_26_6 : fld (wordKs x0 x1 x2 x3 x4 x5 x6) 26 6 = x0 := by
  apply BitVec.eq_of_toNat_eq; simp only [fld, wordKs, BitVec.toNat_ofNat]; omega

@[simp] theorem wordKs_22_4 : fld (wordKs x0 x1 x2 x3 x4 x5 x6) 22 4 = x1 := by
  apply BitVec.eq_of_toNat_eq; simp only [fld, wordKs, BitVec.toNat_ofNat]; omega

@[simp] theorem wordKs_16_6 : fld (wordKs x0 x1 x2 x3 x4 x5 x6) 16 6 = x2 := by
  apply BitVec.eq_of_toNat_eq; simp only [fld, wordKs, BitVec.toNat_ofNat]; omega

@[simp] theorem wordKs_10_6 : fld (wordKs x0 x1 x2 x3 x4 x5 x6) 10 6 = x3 := by
  apply BitVec.eq_of_toNat_eq; simp only [fld, wordKs, BitVec.toNat_ofNat]; omega

@[simp] theorem wordKs_7_3 : fld (wordKs x0 x1 x2 x3 x4 x5 x6) 7 3 = x4 := by
  apply BitVec.eq_of_toNat_eq; simp only [fld, wordKs, BitVec.toNat_ofNat]; omega

@[simp] theorem wordKs_5_2 : fld (wordKs x0 x1 x2 x3 x4 x5 x6) 5 2 = x5 := by
  apply BitVec.eq_of_toNat_eq; simp only [fld, wordKs, BitVec.toNat_ofNat]; omega

@[simp] theorem wordKs_0_5 : fld (wordKs x0 x1 x2 x3 x4 x5 x6) 0 5 = x6 := by
  apply BitVec.eq_of_toNat_eq; simp only [fld, wordKs, BitVec.toNat_ofNat]; omega

end

section

variable (x0 : BitVec 6) (x1 : BitVec 4) (x2 : BitVec 6) (x3 : BitVec 6) (x4 : BitVec 3) (x5 : BitVec 7)

@[simp] theorem wordK_26_6 : fld (wordK x0 x1 x2 x3 x4 x5) 26 6 = x0 := by
  apply BitVec.eq_of_toNat_eq; simp only [fld, wordK, BitVec.toNat_ofNat]; omega

@[simp] theorem wordK_22_4 : fld (wordK x0 x1 x2 x3 x4 x5) 22 4 = x1 := by
  apply BitVec.eq_of_toNat_eq; simp only [fld, wordK, BitVec.toNat_ofNat]; omega

@[simp] theorem wordK_16_6 : fld (wordK x0 x1 x2 x3 x4 x5) 16 6 = x2 := by
  apply BitVec.eq_of_toNat_eq; simp only [fld, wordK, BitVec.toNat_ofNat]; omega

@[simp] theorem wordK_10_6 : fld (wordK x0 x1 x2 x3 x4 x5) 10 6 = x3 := by
  apply BitVec.eq_of_toNat_eq; simp only [fld, wordK, BitVec.toNat_ofNat]; omega

@[simp] theorem wordK_7_3 : fld (wordK x0 x1 x2 x3 x4 x5) 7 3 = x4 := by
  apply BitVec.eq_of_toNat_eq; simp only [fld, wordK, BitVec.toNat_ofNat]; omega

@[simp] theorem wordK_0_7 : fld (wordK x0 x1 x2 x3 x4 x5) 0 7 = x5 := by
  apply BitVec.eq_of_toNat_eq; simp only [fld, wordK, BitVec.toNat_ofNat]; omega

end

section

variable (x0 : BitVec 6) (x1 : BitVec 4) (x2 : BitVec 6) (x3 : BitVec 1) (x4 : BitVec 5) (x5 : BitVec 6) (x6 : BitVec 1) (x7 : BitVec 3)

@[simp] theorem wordS2v_26_6 : fld (wordS2v x0 x1 x2 x3 x4 x5 x6 x7) 26 6 = x0 := by
  apply BitVec.eq_of_toNat_eq; simp only [fld, wordS2v, BitVec.toNat_ofNat]; omega

@[simp] theorem wordS2v_22_4 : fld (wordS2v x0 x1 x2 x3 x4 x5 x6 x7) 22 4 = x1 := by
  apply BitVec.eq_of_toNat_eq; simp only [fld, wordS2v, BitVec.toNat_ofNat]; omega

@[simp] theorem wordS2v_16_6 : fld (wordS2v x0 x1 x2 x3 x4 x5 x6 x7) 16 6 = x2 := by
  apply BitVec.eq_of_toNat_eq; simp only [fld, wordS2v, BitVec.toNat_ofNat]; omega

@[simp] theorem wordS2v_15_1 : fld (wordS2v x0 x1 x2 x3 x4 x5 x6 x7) 15 1 = x3 := by
  apply BitVec.eq_of_toNat_eq; simp only [fld, wordS2v, BitVec.toNat_ofNat]; omega

@[simp] theorem wordS2v_10_5 : fld (wordS2v x0 x1 x2 x3 x4 x5 x6 x7) 10 5 = x4 := by
  apply BitVec.eq_of_toNat_eq; simp only [fld, wordS2v, BitVec.toNat_ofNat]; omega

@[simp] theorem wordS2v_4_6 : fld (wordS2v x0 x1 x2 x3 x4 x5 x6 x7) 4 6 = x5 := by
  apply BitVec.eq_of_toNat_eq; simp only [fld, wordS2v, BitVec.toNat_ofNat]; omega

@[simp] theorem wordS2v_3_1 : fld (wordS2v x0 x1 x2 x3 x4 x5 x6 x7) 3 1 = x6 := by
  apply BitVec.eq_of_toNat_eq; simp only [fld, wordS2v, BitVec.toNat_ofNat]; omega

@[simp] theorem wordS2v_0_3 : fld (wordS2v x0 x1 x2 x3 x4 x5 x6 x7) 0 3 = x7 := by
  apply BitVec.eq_of_toNat_eq; simp only [fld, wordS2v, BitVec.toNat_ofNat]; omega

end

section

variable (x0 : BitVec 6) (x1 : BitVec 4) (x2 : BitVec 1) (x3 : BitVec 5) (x4 : BitVec 6) (x5 : BitVec 6) (x6 : BitVec 1) (x7 : BitVec 3)

@[simp] theorem wordV2s_26_6 : fld (wordV2s x0 x1 x2 x3 x4 x5 x6 x7) 26 6 = x0 := by
  apply BitVec.eq_of_toNat_eq; simp only [fld, wordV2s, BitVec.toNat_ofNat]; omega

@[simp] theorem wordV2s_22_4 : fld (wordV2s x0 x1 x2 x3 x4 x5 x6 x7) 22 4 = x1 := by
  apply BitVec.eq_of_toNat_eq; simp only [fld, wordV2s, BitVec.toNat_ofNat]; omega

@[simp] theorem wordV2s_21_1 : fld (wordV2s x0 x1 x2 x3 x4 x5 x6 x7) 21 1 = x2 := by
  apply BitVec.eq_of_toNat_eq; simp only [fld, wordV2s, BitVec.toNat_ofNat]; omega

@[simp] theorem wordV2s_16_5 : fld (wordV2s x0 x1 x2 x3 x4 x5 x6 x7) 16 5 = x3 := by
  apply BitVec.eq_of_toNat_eq; simp only [fld, wordV2s, BitVec.toNat_ofNat]; omega

@[simp] theorem wordV2s_10_6 : fld (wordV2s x0 x1 x2 x3 x4 x5 x6 x7) 10 6 = x4 := by
  apply BitVec.eq_of_toNat_eq; simp only [fld, wordV2s, BitVec.toNat_ofNat]; omega

@[simp] theorem wordV2s_4_6 : fld (wordV2s x0 x1 x2 x3 x4 x5 x6 x7) 4 6 = x5 := by
  apply BitVec.eq_of_toNat_eq; simp only [fld, wordV2s, BitVec.toNat_ofNat]; omega

@[simp] theorem wordV2s_3_1 : fld (wordV2s x0 x1 x2 x3 x4 x5 x6 x7) 3 1 = x6 := by
  apply BitVec.eq_of_toNat_eq; simp only [fld, wordV2s, BitVec.toNat_ofNat]; omega

@[simp] theorem wordV2s_0_3 : fld (wordV2s x0 x1 x2 x3 x4 x5 x6 x7) 0 3 = x7 := by
  apply BitVec.eq_of_toNat_eq; simp only [fld, wordV2s, BitVec.toNat_ofNat]; omega

end

section

variable (x0 : BitVec 6) (x1 : BitVec 4) (x2 : BitVec 5) (x3 : BitVec 5) (x4 : BitVec 5) (x5 : BitVec 3) (x6 : BitVec 4)

@[simp] theorem wordS_26_6 : fld (wordS x0 x1 x2 x3 x4 x5 x6) 26 6 = x0 := by
  apply BitVec.eq_of_toNat_eq; simp only [fld, wordS, BitVec.toNat_ofNat]; omega

@[simp] theorem wordS_22_4 : fld (wordS x0 x1 x2 x3 x4 x5 x6) 22 4 = x1 := by
  apply BitVec.eq_of_toNat_eq; simp only [fld, wordS, BitVec.toNat_ofNat]; omega

@[simp] theorem wordS_17_5 : fld (wordS x0 x1 x2 x3 x4 x5 x6) 17 5 = x2 := by
  apply BitVec.eq_of_toNat_eq; simp only [fld, wordS, BitVec.toNat_ofNat]; omega

@[simp] theorem wordS_12_5 : fld (wordS x0 x1 x2 x3 x4 x5 x6) 12 5 = x3 := by
  apply BitVec.eq_of_toNat_eq; simp only [fld, wordS, BitVec.toNat_ofNat]; omega

@[simp] theorem wordS_7_5 : fld (wordS x0 x1 x2 x3 x4 x5 x6) 7 5 = x4 := by
  apply BitVec.eq_of_toNat_eq; simp only [fld, wordS, BitVec.toNat_ofNat]; omega

@[simp] theorem wordS_4_3 : fld (wordS x0 x1 x2 x3 x4 x5 x6) 4 3 = x5 := by
  apply BitVec.eq_of_toNat_eq; simp only [fld, wordS, BitVec.toNat_ofNat]; omega

@[simp] theorem wordS_0_4 : fld (wordS x0 x1 x2 x3 x4 x5 x6) 0 4 = x6 := by
  apply BitVec.eq_of_toNat_eq; simp only [fld, wordS, BitVec.toNat_ofNat]; omega

end

section

variable (x0 : BitVec 6) (x1 : BitVec 4) (x2 : BitVec 5) (x3 : BitVec 5) (x4 : BitVec 12)

@[simp] theorem wordSi_26_6 : fld (wordSi x0 x1 x2 x3 x4) 26 6 = x0 := by
  apply BitVec.eq_of_toNat_eq; simp only [fld, wordSi, BitVec.toNat_ofNat]; omega

@[simp] theorem wordSi_22_4 : fld (wordSi x0 x1 x2 x3 x4) 22 4 = x1 := by
  apply BitVec.eq_of_toNat_eq; simp only [fld, wordSi, BitVec.toNat_ofNat]; omega

@[simp] theorem wordSi_17_5 : fld (wordSi x0 x1 x2 x3 x4) 17 5 = x2 := by
  apply BitVec.eq_of_toNat_eq; simp only [fld, wordSi, BitVec.toNat_ofNat]; omega

@[simp] theorem wordSi_12_5 : fld (wordSi x0 x1 x2 x3 x4) 12 5 = x3 := by
  apply BitVec.eq_of_toNat_eq; simp only [fld, wordSi, BitVec.toNat_ofNat]; omega

@[simp] theorem wordSi_0_12 : fld (wordSi x0 x1 x2 x3 x4) 0 12 = x4 := by
  apply BitVec.eq_of_toNat_eq; simp only [fld, wordSi, BitVec.toNat_ofNat]; omega

end

section

variable (x0 : BitVec 6) (x1 : BitVec 4) (x2 : BitVec 5) (x3 : BitVec 5) (x4 : BitVec 12)

@[simp] theorem wordSb_26_6 : fld (wordSb x0 x1 x2 x3 x4) 26 6 = x0 := by
  apply BitVec.eq_of_toNat_eq; simp only [fld, wordSb, BitVec.toNat_ofNat]; omega

@[simp] theorem wordSb_22_4 : fld (wordSb x0 x1 x2 x3 x4) 22 4 = x1 := by
  apply BitVec.eq_of_toNat_eq; simp only [fld, wordSb, BitVec.toNat_ofNat]; omega

@[simp] theorem wordSb_17_5 : fld (wordSb x0 x1 x2 x3 x4) 17 5 = x2 := by
  apply BitVec.eq_of_toNat_eq; simp only [fld, wordSb, BitVec.toNat_ofNat]; omega

@[simp] theorem wordSb_12_5 : fld (wordSb x0 x1 x2 x3 x4) 12 5 = x3 := by
  apply BitVec.eq_of_toNat_eq; simp only [fld, wordSb, BitVec.toNat_ofNat]; omega

@[simp] theorem wordSb_0_12 : fld (wordSb x0 x1 x2 x3 x4) 0 12 = x4 := by
  apply BitVec.eq_of_toNat_eq; simp only [fld, wordSb, BitVec.toNat_ofNat]; omega

end

section

variable (x0 : BitVec 6) (x1 : BitVec 4) (x2 : BitVec 22)

@[simp] theorem wordJ_26_6 : fld (wordJ x0 x1 x2) 26 6 = x0 := by
  apply BitVec.eq_of_toNat_eq; simp only [fld, wordJ, BitVec.toNat_ofNat]; omega

@[simp] theorem wordJ_22_4 : fld (wordJ x0 x1 x2) 22 4 = x1 := by
  apply BitVec.eq_of_toNat_eq; simp only [fld, wordJ, BitVec.toNat_ofNat]; omega

@[simp] theorem wordJ_0_22 : fld (wordJ x0 x1 x2) 0 22 = x2 := by
  apply BitVec.eq_of_toNat_eq; simp only [fld, wordJ, BitVec.toNat_ofNat]; omega

end

section

variable (x0 : BitVec 6) (x1 : BitVec 4) (x2 : BitVec 5) (x3 : BitVec 5) (x4 : BitVec 5) (x5 : BitVec 3) (x6 : BitVec 4)

@[simp] theorem wordX_26_6 : fld (wordX x0 x1 x2 x3 x4 x5 x6) 26 6 = x0 := by
  apply BitVec.eq_of_toNat_eq; simp only [fld, wordX, BitVec.toNat_ofNat]; omega

@[simp] theorem wordX_22_4 : fld (wordX x0 x1 x2 x3 x4 x5 x6) 22 4 = x1 := by
  apply BitVec.eq_of_toNat_eq; simp only [fld, wordX, BitVec.toNat_ofNat]; omega

@[simp] theorem wordX_17_5 : fld (wordX x0 x1 x2 x3 x4 x5 x6) 17 5 = x2 := by
  apply BitVec.eq_of_toNat_eq; simp only [fld, wordX, BitVec.toNat_ofNat]; omega

@[simp] theorem wordX_12_5 : fld (wordX x0 x1 x2 x3 x4 x5 x6) 12 5 = x3 := by
  apply BitVec.eq_of_toNat_eq; simp only [fld, wordX, BitVec.toNat_ofNat]; omega

@[simp] theorem wordX_7_5 : fld (wordX x0 x1 x2 x3 x4 x5 x6) 7 5 = x4 := by
  apply BitVec.eq_of_toNat_eq; simp only [fld, wordX, BitVec.toNat_ofNat]; omega

@[simp] theorem wordX_4_3 : fld (wordX x0 x1 x2 x3 x4 x5 x6) 4 3 = x5 := by
  apply BitVec.eq_of_toNat_eq; simp only [fld, wordX, BitVec.toNat_ofNat]; omega

@[simp] theorem wordX_0_4 : fld (wordX x0 x1 x2 x3 x4 x5 x6) 0 4 = x6 := by
  apply BitVec.eq_of_toNat_eq; simp only [fld, wordX, BitVec.toNat_ofNat]; omega

end

section

variable (x0 : BitVec 6) (x1 : BitVec 4) (x2 : BitVec 1) (x3 : BitVec 5) (x4 : BitVec 4) (x5 : BitVec 12)

@[simp] theorem wordL_26_6 : fld (wordL x0 x1 x2 x3 x4 x5) 26 6 = x0 := by
  apply BitVec.eq_of_toNat_eq; simp only [fld, wordL, BitVec.toNat_ofNat]; omega

@[simp] theorem wordL_22_4 : fld (wordL x0 x1 x2 x3 x4 x5) 22 4 = x1 := by
  apply BitVec.eq_of_toNat_eq; simp only [fld, wordL, BitVec.toNat_ofNat]; omega

@[simp] theorem wordL_21_1 : fld (wordL x0 x1 x2 x3 x4 x5) 21 1 = x2 := by
  apply BitVec.eq_of_toNat_eq; simp only [fld, wordL, BitVec.toNat_ofNat]; omega

@[simp] theorem wordL_16_5 : fld (wordL x0 x1 x2 x3 x4 x5) 16 5 = x3 := by
  apply BitVec.eq_of_toNat_eq; simp only [fld, wordL, BitVec.toNat_ofNat]; omega

@[simp] theorem wordL_12_4 : fld (wordL x0 x1 x2 x3 x4 x5) 12 4 = x4 := by
  apply BitVec.eq_of_toNat_eq; simp only [fld, wordL, BitVec.toNat_ofNat]; omega

@[simp] theorem wordL_0_12 : fld (wordL x0 x1 x2 x3 x4 x5) 0 12 = x5 := by
  apply BitVec.eq_of_toNat_eq; simp only [fld, wordL, BitVec.toNat_ofNat]; omega

end

section

variable (x0 : BitVec 6) (x1 : BitVec 4) (x2 : BitVec 1) (x3 : BitVec 10) (x4 : BitVec 11)

@[simp] theorem wordLi_26_6 : fld (wordLi x0 x1 x2 x3 x4) 26 6 = x0 := by
  apply BitVec.eq_of_toNat_eq; simp only [fld, wordLi, BitVec.toNat_ofNat]; omega

@[simp] theorem wordLi_22_4 : fld (wordLi x0 x1 x2 x3 x4) 22 4 = x1 := by
  apply BitVec.eq_of_toNat_eq; simp only [fld, wordLi, BitVec.toNat_ofNat]; omega

@[simp] theorem wordLi_21_1 : fld (wordLi x0 x1 x2 x3 x4) 21 1 = x2 := by
  apply BitVec.eq_of_toNat_eq; simp only [fld, wordLi, BitVec.toNat_ofNat]; omega

@[simp] theorem wordLi_11_10 : fld (wordLi x0 x1 x2 x3 x4) 11 10 = x3 := by
  apply BitVec.eq_of_toNat_eq; simp only [fld, wordLi, BitVec.toNat_ofNat]; omega

@[simp] theorem wordLi_0_11 : fld (wordLi x0 x1 x2 x3 x4) 0 11 = x4 := by
  apply BitVec.eq_of_toNat_eq; simp only [fld, wordLi, BitVec.toNat_ofNat]; omega

end

section

variable (x0 : BitVec 6) (x1 : BitVec 4) (x2 : BitVec 6) (x3 : BitVec 6) (x4 : BitVec 7) (x5 : BitVec 3)

@[simp] theorem wordM_26_6 : fld (wordM x0 x1 x2 x3 x4 x5) 26 6 = x0 := by
  apply BitVec.eq_of_toNat_eq; simp only [fld, wordM, BitVec.toNat_ofNat]; omega

@[simp] theorem wordM_22_4 : fld (wordM x0 x1 x2 x3 x4 x5) 22 4 = x1 := by
  apply BitVec.eq_of_toNat_eq; simp only [fld, wordM, BitVec.toNat_ofNat]; omega

@[simp] theorem wordM_16_6 : fld (wordM x0 x1 x2 x3 x4 x5) 16 6 = x2 := by
  apply BitVec.eq_of_toNat_eq; simp only [fld, wordM, BitVec.toNat_ofNat]; omega

@[simp] theorem wordM_10_6 : fld (wordM x0 x1 x2 x3 x4 x5) 10 6 = x3 := by
  apply BitVec.eq_of_toNat_eq; simp only [fld, wordM, BitVec.toNat_ofNat]; omega

@[simp] theorem wordM_3_7 : fld (wordM x0 x1 x2 x3 x4 x5) 3 7 = x4 := by
  apply BitVec.eq_of_toNat_eq; simp only [fld, wordM, BitVec.toNat_ofNat]; omega

@[simp] theorem wordM_0_3 : fld (wordM x0 x1 x2 x3 x4 x5) 0 3 = x5 := by
  apply BitVec.eq_of_toNat_eq; simp only [fld, wordM, BitVec.toNat_ofNat]; omega

end

section

variable (x0 : BitVec 6) (x1 : BitVec 4) (x2 : BitVec 5) (x3 : BitVec 5) (x4 : BitVec 5) (x5 : BitVec 3) (x6 : BitVec 3) (x7 : BitVec 1)

@[simp] theorem wordX1_26_6 : fld (wordX1 x0 x1 x2 x3 x4 x5 x6 x7) 26 6 = x0 := by
  apply BitVec.eq_of_toNat_eq; simp only [fld, wordX1, BitVec.toNat_ofNat]; omega

@[simp] theorem wordX1_22_4 : fld (wordX1 x0 x1 x2 x3 x4 x5 x6 x7) 22 4 = x1 := by
  apply BitVec.eq_of_toNat_eq; simp only [fld, wordX1, BitVec.toNat_ofNat]; omega

@[simp] theorem wordX1_17_5 : fld (wordX1 x0 x1 x2 x3 x4 x5 x6 x7) 17 5 = x2 := by
  apply BitVec.eq_of_toNat_eq; simp only [fld, wordX1, BitVec.toNat_ofNat]; omega

@[simp] theorem wordX1_12_5 : fld (wordX1 x0 x1 x2 x3 x4 x5 x6 x7) 12 5 = x3 := by
  apply BitVec.eq_of_toNat_eq; simp only [fld, wordX1, BitVec.toNat_ofNat]; omega

@[simp] theorem wordX1_7_5 : fld (wordX1 x0 x1 x2 x3 x4 x5 x6 x7) 7 5 = x4 := by
  apply BitVec.eq_of_toNat_eq; simp only [fld, wordX1, BitVec.toNat_ofNat]; omega

@[simp] theorem wordX1_4_3 : fld (wordX1 x0 x1 x2 x3 x4 x5 x6 x7) 4 3 = x5 := by
  apply BitVec.eq_of_toNat_eq; simp only [fld, wordX1, BitVec.toNat_ofNat]; omega

@[simp] theorem wordX1_1_3 : fld (wordX1 x0 x1 x2 x3 x4 x5 x6 x7) 1 3 = x6 := by
  apply BitVec.eq_of_toNat_eq; simp only [fld, wordX1, BitVec.toNat_ofNat]; omega

@[simp] theorem wordX1_0_1 : fld (wordX1 x0 x1 x2 x3 x4 x5 x6 x7) 0 1 = x7 := by
  apply BitVec.eq_of_toNat_eq; simp only [fld, wordX1, BitVec.toNat_ofNat]; omega

end

section

variable (x0 : BitVec 6) (x1 : BitVec 4) (x2 : BitVec 22)

@[simp] theorem wordH_26_6 : fld (wordH x0 x1 x2) 26 6 = x0 := by
  apply BitVec.eq_of_toNat_eq; simp only [fld, wordH, BitVec.toNat_ofNat]; omega

@[simp] theorem wordH_22_4 : fld (wordH x0 x1 x2) 22 4 = x1 := by
  apply BitVec.eq_of_toNat_eq; simp only [fld, wordH, BitVec.toNat_ofNat]; omega

@[simp] theorem wordH_0_22 : fld (wordH x0 x1 x2) 0 22 = x2 := by
  apply BitVec.eq_of_toNat_eq; simp only [fld, wordH, BitVec.toNat_ofNat]; omega

end

section

variable (x0 : BitVec 6) (x1 : BitVec 4) (x2 : BitVec 10) (x3 : BitVec 6) (x4 : BitVec 6)

@[simp] theorem wordHstall_26_6 : fld (wordHstall x0 x1 x2 x3 x4) 26 6 = x0 := by
  apply BitVec.eq_of_toNat_eq; simp only [fld, wordHstall, BitVec.toNat_ofNat]; omega

@[simp] theorem wordHstall_22_4 : fld (wordHstall x0 x1 x2 x3 x4) 22 4 = x1 := by
  apply BitVec.eq_of_toNat_eq; simp only [fld, wordHstall, BitVec.toNat_ofNat]; omega

@[simp] theorem wordHstall_12_10 : fld (wordHstall x0 x1 x2 x3 x4) 12 10 = x2 := by
  apply BitVec.eq_of_toNat_eq; simp only [fld, wordHstall, BitVec.toNat_ofNat]; omega

@[simp] theorem wordHstall_6_6 : fld (wordHstall x0 x1 x2 x3 x4) 6 6 = x3 := by
  apply BitVec.eq_of_toNat_eq; simp only [fld, wordHstall, BitVec.toNat_ofNat]; omega

@[simp] theorem wordHstall_0_6 : fld (wordHstall x0 x1 x2 x3 x4) 0 6 = x4 := by
  apply BitVec.eq_of_toNat_eq; simp only [fld, wordHstall, BitVec.toNat_ofNat]; omega

end

section

variable (x0 : BitVec 6) (x1 : BitVec 4) (x2 : BitVec 15) (x3 : BitVec 2) (x4 : BitVec 1) (x5 : BitVec 1) (x6 : BitVec 1) (x7 : BitVec 2)

@[simp] theorem wordHmod_26_6 : fld (wordHmod x0 x1 x2 x3 x4 x5 x6 x7) 26 6 = x0 := by
  apply BitVec.eq_of_toNat_eq; simp only [fld, wordHmod, BitVec.toNat_ofNat]; omega

@[simp] theorem wordHmod_22_4 : fld (wordHmod x0 x1 x2 x3 x4 x5 x6 x7) 22 4 = x1 := by
  apply BitVec.eq_of_toNat_eq; simp only [fld, wordHmod, BitVec.toNat_ofNat]; omega

@[simp] theorem wordHmod_7_15 : fld (wordHmod x0 x1 x2 x3 x4 x5 x6 x7) 7 15 = x2 := by
  apply BitVec.eq_of_toNat_eq; simp only [fld, wordHmod, BitVec.toNat_ofNat]; omega

@[simp] theorem wordHmod_5_2 : fld (wordHmod x0 x1 x2 x3 x4 x5 x6 x7) 5 2 = x3 := by
  apply BitVec.eq_of_toNat_eq; simp only [fld, wordHmod, BitVec.toNat_ofNat]; omega

@[simp] theorem wordHmod_4_1 : fld (wordHmod x0 x1 x2 x3 x4 x5 x6 x7) 4 1 = x4 := by
  apply BitVec.eq_of_toNat_eq; simp only [fld, wordHmod, BitVec.toNat_ofNat]; omega

@[simp] theorem wordHmod_3_1 : fld (wordHmod x0 x1 x2 x3 x4 x5 x6 x7) 3 1 = x5 := by
  apply BitVec.eq_of_toNat_eq; simp only [fld, wordHmod, BitVec.toNat_ofNat]; omega

@[simp] theorem wordHmod_2_1 : fld (wordHmod x0 x1 x2 x3 x4 x5 x6 x7) 2 1 = x6 := by
  apply BitVec.eq_of_toNat_eq; simp only [fld, wordHmod, BitVec.toNat_ofNat]; omega

@[simp] theorem wordHmod_0_2 : fld (wordHmod x0 x1 x2 x3 x4 x5 x6 x7) 0 2 = x7 := by
  apply BitVec.eq_of_toNat_eq; simp only [fld, wordHmod, BitVec.toNat_ofNat]; omega

end

section

variable (x0 : BitVec 6) (x1 : BitVec 4) (x2 : BitVec 2) (x3 : BitVec 5) (x4 : BitVec 5) (x5 : BitVec 5) (x6 : BitVec 5)

@[simp] theorem wordHcoord_26_6 : fld (wordHcoord x0 x1 x2 x3 x4 x5 x6) 26 6 = x0 := by
  apply BitVec.eq_of_toNat_eq; simp only [fld, wordHcoord, BitVec.toNat_ofNat]; omega

@[simp] theorem wordHcoord_22_4 : fld (wordHcoord x0 x1 x2 x3 x4 x5 x6) 22 4 = x1 := by
  apply BitVec.eq_of_toNat_eq; simp only [fld, wordHcoord, BitVec.toNat_ofNat]; omega

@[simp] theorem wordHcoord_20_2 : fld (wordHcoord x0 x1 x2 x3 x4 x5 x6) 20 2 = x2 := by
  apply BitVec.eq_of_toNat_eq; simp only [fld, wordHcoord, BitVec.toNat_ofNat]; omega

@[simp] theorem wordHcoord_15_5 : fld (wordHcoord x0 x1 x2 x3 x4 x5 x6) 15 5 = x3 := by
  apply BitVec.eq_of_toNat_eq; simp only [fld, wordHcoord, BitVec.toNat_ofNat]; omega

@[simp] theorem wordHcoord_10_5 : fld (wordHcoord x0 x1 x2 x3 x4 x5 x6) 10 5 = x4 := by
  apply BitVec.eq_of_toNat_eq; simp only [fld, wordHcoord, BitVec.toNat_ofNat]; omega

@[simp] theorem wordHcoord_5_5 : fld (wordHcoord x0 x1 x2 x3 x4 x5 x6) 5 5 = x5 := by
  apply BitVec.eq_of_toNat_eq; simp only [fld, wordHcoord, BitVec.toNat_ofNat]; omega

@[simp] theorem wordHcoord_0_5 : fld (wordHcoord x0 x1 x2 x3 x4 x5 x6) 0 5 = x6 := by
  apply BitVec.eq_of_toNat_eq; simp only [fld, wordHcoord, BitVec.toNat_ofNat]; omega

end

/-! A word is made of its fields. -/

theorem wordR_fields (w : Word) :
    wordR (fld w 26 6) (fld w 22 4) (fld w 16 6) (fld w 10 6) (fld w 4 6) (fld w 3 1) (fld w 0 3) = w := by
  apply BitVec.eq_of_toNat_eq; have := w.isLt; simp only [fld, wordR, BitVec.toNat_ofNat]; omega

theorem wordP_fields (w : Word) :
    wordP (fld w 26 6) (fld w 22 4) (fld w 21 1) (fld w 19 2) (fld w 16 3) (fld w 10 6) (fld w 4 6) (fld w 3 1) (fld w 0 3) = w := by
  apply BitVec.eq_of_toNat_eq; have := w.isLt; simp only [fld, wordP, BitVec.toNat_ofNat]; omega

theorem wordI_fields (w : Word) :
    wordI (fld w 26 6) (fld w 22 4) (fld w 16 6) (fld w 10 6) (fld w 0 10) = w := by
  apply BitVec.eq_of_toNat_eq; have := w.isLt; simp only [fld, wordI, BitVec.toNat_ofNat]; omega

theorem wordKs_fields (w : Word) :
    wordKs (fld w 26 6) (fld w 22 4) (fld w 16 6) (fld w 10 6) (fld w 7 3) (fld w 5 2) (fld w 0 5) = w := by
  apply BitVec.eq_of_toNat_eq; have := w.isLt; simp only [fld, wordKs, BitVec.toNat_ofNat]; omega

theorem wordK_fields (w : Word) :
    wordK (fld w 26 6) (fld w 22 4) (fld w 16 6) (fld w 10 6) (fld w 7 3) (fld w 0 7) = w := by
  apply BitVec.eq_of_toNat_eq; have := w.isLt; simp only [fld, wordK, BitVec.toNat_ofNat]; omega

theorem wordS2v_fields (w : Word) :
    wordS2v (fld w 26 6) (fld w 22 4) (fld w 16 6) (fld w 15 1) (fld w 10 5) (fld w 4 6) (fld w 3 1) (fld w 0 3) = w := by
  apply BitVec.eq_of_toNat_eq; have := w.isLt; simp only [fld, wordS2v, BitVec.toNat_ofNat]; omega

theorem wordV2s_fields (w : Word) :
    wordV2s (fld w 26 6) (fld w 22 4) (fld w 21 1) (fld w 16 5) (fld w 10 6) (fld w 4 6) (fld w 3 1) (fld w 0 3) = w := by
  apply BitVec.eq_of_toNat_eq; have := w.isLt; simp only [fld, wordV2s, BitVec.toNat_ofNat]; omega

theorem wordS_fields (w : Word) :
    wordS (fld w 26 6) (fld w 22 4) (fld w 17 5) (fld w 12 5) (fld w 7 5) (fld w 4 3) (fld w 0 4) = w := by
  apply BitVec.eq_of_toNat_eq; have := w.isLt; simp only [fld, wordS, BitVec.toNat_ofNat]; omega

theorem wordSi_fields (w : Word) :
    wordSi (fld w 26 6) (fld w 22 4) (fld w 17 5) (fld w 12 5) (fld w 0 12) = w := by
  apply BitVec.eq_of_toNat_eq; have := w.isLt; simp only [fld, wordSi, BitVec.toNat_ofNat]; omega

theorem wordSb_fields (w : Word) :
    wordSb (fld w 26 6) (fld w 22 4) (fld w 17 5) (fld w 12 5) (fld w 0 12) = w := by
  apply BitVec.eq_of_toNat_eq; have := w.isLt; simp only [fld, wordSb, BitVec.toNat_ofNat]; omega

theorem wordJ_fields (w : Word) :
    wordJ (fld w 26 6) (fld w 22 4) (fld w 0 22) = w := by
  apply BitVec.eq_of_toNat_eq; have := w.isLt; simp only [fld, wordJ, BitVec.toNat_ofNat]; omega

theorem wordX_fields (w : Word) :
    wordX (fld w 26 6) (fld w 22 4) (fld w 17 5) (fld w 12 5) (fld w 7 5) (fld w 4 3) (fld w 0 4) = w := by
  apply BitVec.eq_of_toNat_eq; have := w.isLt; simp only [fld, wordX, BitVec.toNat_ofNat]; omega

theorem wordL_fields (w : Word) :
    wordL (fld w 26 6) (fld w 22 4) (fld w 21 1) (fld w 16 5) (fld w 12 4) (fld w 0 12) = w := by
  apply BitVec.eq_of_toNat_eq; have := w.isLt; simp only [fld, wordL, BitVec.toNat_ofNat]; omega

theorem wordLi_fields (w : Word) :
    wordLi (fld w 26 6) (fld w 22 4) (fld w 21 1) (fld w 11 10) (fld w 0 11) = w := by
  apply BitVec.eq_of_toNat_eq; have := w.isLt; simp only [fld, wordLi, BitVec.toNat_ofNat]; omega

theorem wordM_fields (w : Word) :
    wordM (fld w 26 6) (fld w 22 4) (fld w 16 6) (fld w 10 6) (fld w 3 7) (fld w 0 3) = w := by
  apply BitVec.eq_of_toNat_eq; have := w.isLt; simp only [fld, wordM, BitVec.toNat_ofNat]; omega

theorem wordX1_fields (w : Word) :
    wordX1 (fld w 26 6) (fld w 22 4) (fld w 17 5) (fld w 12 5) (fld w 7 5) (fld w 4 3) (fld w 1 3) (fld w 0 1) = w := by
  apply BitVec.eq_of_toNat_eq; have := w.isLt; simp only [fld, wordX1, BitVec.toNat_ofNat]; omega

theorem wordH_fields (w : Word) :
    wordH (fld w 26 6) (fld w 22 4) (fld w 0 22) = w := by
  apply BitVec.eq_of_toNat_eq; have := w.isLt; simp only [fld, wordH, BitVec.toNat_ofNat]; omega

theorem wordHstall_fields (w : Word) :
    wordHstall (fld w 26 6) (fld w 22 4) (fld w 12 10) (fld w 6 6) (fld w 0 6) = w := by
  apply BitVec.eq_of_toNat_eq; have := w.isLt; simp only [fld, wordHstall, BitVec.toNat_ofNat]; omega

theorem wordHmod_fields (w : Word) :
    wordHmod (fld w 26 6) (fld w 22 4) (fld w 7 15) (fld w 5 2) (fld w 4 1) (fld w 3 1) (fld w 2 1) (fld w 0 2) = w := by
  apply BitVec.eq_of_toNat_eq; have := w.isLt; simp only [fld, wordHmod, BitVec.toNat_ofNat]; omega

theorem wordHcoord_fields (w : Word) :
    wordHcoord (fld w 26 6) (fld w 22 4) (fld w 20 2) (fld w 15 5) (fld w 10 5) (fld w 5 5) (fld w 0 5) = w := by
  apply BitVec.eq_of_toNat_eq; have := w.isLt; simp only [fld, wordHcoord, BitVec.toNat_ofNat]; omega

end Sys2Proof
end

