-- ==== Sys2Proof/Laws/PerInstr.lean ====
section
/-! SUPPORT. One lemma per constructor for each family of statements about all instructions. -/

namespace Sys2Proof.Laws.Encoding

/-- An instruction with a word decodes from its word to itself, every operand as it is (04 R82 to R87, R101). -/
def Statement (i : Instr) : Prop := ∀ w, encode i = some w → decode w = .ok i

theorem decode_00 (w : Word) (h : fld w 26 6 = 0x00) : decode w = decode00 w := by
  unfold decode; rw [h]; rfl

theorem decode_01 (w : Word) (h : fld w 26 6 = 0x01) : decode w = decode01 w := by
  unfold decode; rw [h]; rfl

theorem decode_02 (w : Word) (h : fld w 26 6 = 0x02) : decode w = decode02 w := by
  unfold decode; rw [h]; rfl

theorem decode_03 (w : Word) (h : fld w 26 6 = 0x03) : decode w = decode03 w := by
  unfold decode; rw [h]; rfl

theorem decode_04 (w : Word) (h : fld w 26 6 = 0x04) : decode w = decode04 w := by
  unfold decode; rw [h]; rfl

theorem decode_05 (w : Word) (h : fld w 26 6 = 0x05) : decode w = decode05 w := by
  unfold decode; rw [h]; rfl

theorem decode_06 (w : Word) (h : fld w 26 6 = 0x06) : decode w = decode06 w := by
  unfold decode; rw [h]; rfl

theorem decode_07 (w : Word) (h : fld w 26 6 = 0x07) : decode w = decode07 w := by
  unfold decode; rw [h]; rfl

theorem decode_08 (w : Word) (h : fld w 26 6 = 0x08) : decode w = decode08 w := by
  unfold decode; rw [h]; rfl

theorem decode_09 (w : Word) (h : fld w 26 6 = 0x09) : decode w = decode09 w := by
  unfold decode; rw [h]; rfl

theorem decode_0A (w : Word) (h : fld w 26 6 = 0x0A) : decode w = decode0A w := by
  unfold decode; rw [h]; rfl

theorem decode_0B (w : Word) (h : fld w 26 6 = 0x0B) : decode w = decode0B w := by
  unfold decode; rw [h]; rfl

theorem decode_0C (w : Word) (h : fld w 26 6 = 0x0C) : decode w = decode0C w := by
  unfold decode; rw [h]; rfl

theorem decode_0D (w : Word) (h : fld w 26 6 = 0x0D) : decode w = decode0D w := by
  unfold decode; rw [h]; rfl

theorem decode_0E (w : Word) (h : fld w 26 6 = 0x0E) : decode w = decode0E w := by
  unfold decode; rw [h]; rfl

theorem decode_10 (w : Word) (h : fld w 26 6 = 0x10) : decode w = decode10 w := by
  unfold decode; rw [h]; rfl

theorem decode_11 (w : Word) (h : fld w 26 6 = 0x11) : decode w = decode11 w := by
  unfold decode; rw [h]; rfl

theorem decode_12 (w : Word) (h : fld w 26 6 = 0x12) : decode w = decode12 w := by
  unfold decode; rw [h]; rfl

theorem decode_13 (w : Word) (h : fld w 26 6 = 0x13) : decode w = decode13 w := by
  unfold decode; rw [h]; rfl

theorem decode_14 (w : Word) (h : fld w 26 6 = 0x14) : decode w = decode14 w := by
  unfold decode; rw [h]; rfl

theorem decode_15 (w : Word) (h : fld w 26 6 = 0x15) : decode w = decode15 w := by
  unfold decode; rw [h]; rfl

theorem decode_16 (w : Word) (h : fld w 26 6 = 0x16) : decode w = decode16 w := by
  unfold decode; rw [h]; rfl

theorem decode_18 (w : Word) (h : fld w 26 6 = 0x18) : decode w = decode18 w := by
  unfold decode; rw [h]; rfl

theorem decode_19 (w : Word) (h : fld w 26 6 = 0x19) : decode w = decode19 w := by
  unfold decode; rw [h]; rfl

theorem decode_1A (w : Word) (h : fld w 26 6 = 0x1A) : decode w = decode1A w := by
  unfold decode; rw [h]; rfl

theorem decode_1B (w : Word) (h : fld w 26 6 = 0x1B) : decode w = decode1B w := by
  unfold decode; rw [h]; rfl

theorem decode_1C (w : Word) (h : fld w 26 6 = 0x1C) : decode w = decode1C w := by
  unfold decode; rw [h]; rfl

theorem decode_1D (w : Word) (h : fld w 26 6 = 0x1D) : decode w = decode1D w := by
  unfold decode; rw [h]; rfl

theorem decode_1E (w : Word) (h : fld w 26 6 = 0x1E) : decode w = decode1E w := by
  unfold decode; rw [h]; rfl

theorem decode_20 (w : Word) (h : fld w 26 6 = 0x20) : decode w = decode20 w := by
  unfold decode; rw [h]; rfl

theorem decode_21 (w : Word) (h : fld w 26 6 = 0x21) : decode w = decode21 w := by
  unfold decode; rw [h]; rfl

theorem decode_22 (w : Word) (h : fld w 26 6 = 0x22) : decode w = decode22 w := by
  unfold decode; rw [h]; rfl

theorem decode_23 (w : Word) (h : fld w 26 6 = 0x23) : decode w = decode23 w := by
  unfold decode; rw [h]; rfl

theorem decode_24 (w : Word) (h : fld w 26 6 = 0x24) : decode w = decode24 w := by
  unfold decode; rw [h]; rfl

theorem decode_25 (w : Word) (h : fld w 26 6 = 0x25) : decode w = decode25 w := by
  unfold decode; rw [h]; rfl

theorem decode_26 (w : Word) (h : fld w 26 6 = 0x26) : decode w = decode26 w := by
  unfold decode; rw [h]; rfl

theorem decode_27 (w : Word) (h : fld w 26 6 = 0x27) : decode w = decode27 w := by
  unfold decode; rw [h]; rfl

theorem decode_28 (w : Word) (h : fld w 26 6 = 0x28) : decode w = decode28 w := by
  unfold decode; rw [h]; rfl

theorem decode_29 (w : Word) (h : fld w 26 6 = 0x29) : decode w = decode29 w := by
  unfold decode; rw [h]; rfl

theorem decode_2A (w : Word) (h : fld w 26 6 = 0x2A) : decode w = decode2A w := by
  unfold decode; rw [h]; rfl

theorem decode_2B (w : Word) (h : fld w 26 6 = 0x2B) : decode w = decode2B w := by
  unfold decode; rw [h]; rfl

theorem decode_2C (w : Word) (h : fld w 26 6 = 0x2C) : decode w = decode2C w := by
  unfold decode; rw [h]; rfl

theorem decode_2D (w : Word) (h : fld w 26 6 = 0x2D) : decode w = decode2D w := by
  unfold decode; rw [h]; rfl

theorem decode_2E (w : Word) (h : fld w 26 6 = 0x2E) : decode w = decode2E w := by
  unfold decode; rw [h]; rfl

theorem decode_2F (w : Word) (h : fld w 26 6 = 0x2F) : decode w = decode2F w := by
  unfold decode; rw [h]; rfl

theorem decode_30 (w : Word) (h : fld w 26 6 = 0x30) : decode w = decode30 w := by
  unfold decode; rw [h]; rfl

theorem decode_31 (w : Word) (h : fld w 26 6 = 0x31) : decode w = decode31 w := by
  unfold decode; rw [h]; rfl

theorem decode_32 (w : Word) (h : fld w 26 6 = 0x32) : decode w = decode32 w := by
  unfold decode; rw [h]; rfl

theorem decode_33 (w : Word) (h : fld w 26 6 = 0x33) : decode w = decode33 w := by
  unfold decode; rw [h]; rfl

theorem decode_3F (w : Word) (h : fld w 26 6 = 0x3F) : decode w = decode3F w := by
  unfold decode; rw [h]; rfl

theorem iadd (p : _) (d : _) (a : _) (b : _) (n : _) : Statement (.iadd p d a b n) := by
  intro w h; cases Option.some.inj h; rw [decode_00 _ (wordR_26_6 ..)]; simp [decode00]

theorem isub (p : _) (d : _) (a : _) (b : _) (n : _) : Statement (.isub p d a b n) := by
  intro w h; cases Option.some.inj h; rw [decode_00 _ (wordR_26_6 ..)]; simp [decode00]

theorem imul (p : _) (d : _) (a : _) (b : _) (n : _) : Statement (.imul p d a b n) := by
  intro w h; cases Option.some.inj h; rw [decode_00 _ (wordR_26_6 ..)]; simp [decode00]

theorem imad (p : _) (d : _) (a : _) (b : _) (n : _) : Statement (.imad p d a b n) := by
  intro w h; cases Option.some.inj h; rw [decode_00 _ (wordR_26_6 ..)]; simp [decode00]

theorem imulhI32 (p : _) (d : _) (a : _) (b : _) (n : _) : Statement (.imulhI32 p d a b n) := by
  intro w h; cases Option.some.inj h; rw [decode_00 _ (wordR_26_6 ..)]; simp [decode00]

theorem imulhN32 (p : _) (d : _) (a : _) (b : _) (n : _) : Statement (.imulhN32 p d a b n) := by
  intro w h; cases Option.some.inj h; rw [decode_00 _ (wordR_26_6 ..)]; simp [decode00]

theorem iaddsI32 (p : _) (d : _) (a : _) (b : _) (n : _) : Statement (.iaddsI32 p d a b n) := by
  intro w h; cases Option.some.inj h; rw [decode_00 _ (wordR_26_6 ..)]; simp [decode00]

theorem isubsI32 (p : _) (d : _) (a : _) (b : _) (n : _) : Statement (.isubsI32 p d a b n) := by
  intro w h; cases Option.some.inj h; rw [decode_00 _ (wordR_26_6 ..)]; simp [decode00]

theorem iminI32 (p : _) (d : _) (a : _) (b : _) (n : _) : Statement (.iminI32 p d a b n) := by
  intro w h; cases Option.some.inj h; rw [decode_01 _ (wordR_26_6 ..)]; simp [decode01]

theorem iminN32 (p : _) (d : _) (a : _) (b : _) (n : _) : Statement (.iminN32 p d a b n) := by
  intro w h; cases Option.some.inj h; rw [decode_01 _ (wordR_26_6 ..)]; simp [decode01]

theorem imaxI32 (p : _) (d : _) (a : _) (b : _) (n : _) : Statement (.imaxI32 p d a b n) := by
  intro w h; cases Option.some.inj h; rw [decode_01 _ (wordR_26_6 ..)]; simp [decode01]

theorem imaxN32 (p : _) (d : _) (a : _) (b : _) (n : _) : Statement (.imaxN32 p d a b n) := by
  intro w h; cases Option.some.inj h; rw [decode_01 _ (wordR_26_6 ..)]; simp [decode01]

theorem iabsI32 (p : _) (d : _) (a : _) (n : _) : Statement (.iabsI32 p d a n) := by
  intro w h; cases Option.some.inj h; rw [decode_01 _ (wordR_26_6 ..)]; simp [decode01]

theorem idiffN32 (p : _) (d : _) (a : _) (b : _) (n : _) : Statement (.idiffN32 p d a b n) := by
  intro w h; cases Option.some.inj h; rw [decode_01 _ (wordR_26_6 ..)]; simp [decode01]

theorem iadd64 (p : _) (d : _) (a : _) (b : _) : Statement (.iadd64 p d a b) := by
  intro w h; cases Option.some.inj h; rw [decode_01 _ (wordR_26_6 ..)]; simp [decode01]

theorem isub64 (p : _) (d : _) (a : _) (b : _) : Statement (.isub64 p d a b) := by
  intro w h; cases Option.some.inj h; rw [decode_01 _ (wordR_26_6 ..)]; simp [decode01]

theorem andV (p : _) (d : _) (a : _) (b : _) (n : _) : Statement (.andV p d a b n) := by
  intro w h; cases Option.some.inj h; rw [decode_02 _ (wordR_26_6 ..)]; simp [decode02]

theorem orV (p : _) (d : _) (a : _) (b : _) (n : _) : Statement (.orV p d a b n) := by
  intro w h; cases Option.some.inj h; rw [decode_02 _ (wordR_26_6 ..)]; simp [decode02]

theorem xorV (p : _) (d : _) (a : _) (b : _) (n : _) : Statement (.xorV p d a b n) := by
  intro w h; cases Option.some.inj h; rw [decode_02 _ (wordR_26_6 ..)]; simp [decode02]

theorem andn (p : _) (d : _) (a : _) (b : _) (n : _) : Statement (.andn p d a b n) := by
  intro w h; cases Option.some.inj h; rw [decode_02 _ (wordR_26_6 ..)]; simp [decode02]

theorem shl (p : _) (d : _) (a : _) (b : _) (n : _) : Statement (.shl p d a b n) := by
  intro w h; cases Option.some.inj h; rw [decode_02 _ (wordR_26_6 ..)]; simp [decode02]

theorem shr (p : _) (d : _) (a : _) (b : _) (n : _) : Statement (.shr p d a b n) := by
  intro w h; cases Option.some.inj h; rw [decode_02 _ (wordR_26_6 ..)]; simp [decode02]

theorem sar (p : _) (d : _) (a : _) (b : _) (n : _) : Statement (.sar p d a b n) := by
  intro w h; cases Option.some.inj h; rw [decode_02 _ (wordR_26_6 ..)]; simp [decode02]

theorem rot (p : _) (d : _) (a : _) (b : _) (n : _) : Statement (.rot p d a b n) := by
  intro w h; cases Option.some.inj h; rw [decode_02 _ (wordR_26_6 ..)]; simp [decode02]

theorem popc (p : _) (d : _) (a : _) (n : _) : Statement (.popc p d a n) := by
  intro w h; cases Option.some.inj h; rw [decode_03 _ (wordR_26_6 ..)]; simp [decode03]

theorem clz (p : _) (d : _) (a : _) (n : _) : Statement (.clz p d a n) := by
  intro w h; cases Option.some.inj h; rw [decode_03 _ (wordR_26_6 ..)]; simp [decode03]

theorem brev (p : _) (d : _) (a : _) (n : _) : Statement (.brev p d a n) := by
  intro w h; cases Option.some.inj h; rw [decode_03 _ (wordR_26_6 ..)]; simp [decode03]

theorem bfeI32 (p : _) (d : _) (a : _) (b : _) (n : _) : Statement (.bfeI32 p d a b n) := by
  intro w h; cases Option.some.inj h; rw [decode_03 _ (wordR_26_6 ..)]; simp [decode03]

theorem bfeN32 (p : _) (d : _) (a : _) (b : _) (n : _) : Statement (.bfeN32 p d a b n) := by
  intro w h; cases Option.some.inj h; rw [decode_03 _ (wordR_26_6 ..)]; simp [decode03]

theorem bfi (p : _) (d : _) (a : _) (b : _) (n : _) : Statement (.bfi p d a b n) := by
  intro w h; cases Option.some.inj h; rw [decode_03 _ (wordR_26_6 ..)]; simp [decode03]

theorem lop3 (p : _) (d : _) (a : _) (b : _) (n : _) : Statement (.lop3 p d a b n) := by
  intro w h; cases Option.some.inj h; rw [decode_03 _ (wordR_26_6 ..)]; simp [decode03]

theorem prmt (p : _) (d : _) (a : _) (b : _) (n : _) : Statement (.prmt p d a b n) := by
  intro w h; cases Option.some.inj h; rw [decode_03 _ (wordR_26_6 ..)]; simp [decode03]

theorem isetEq (p : _) (g : _) (k : _) (a : _) (b : _) : Statement (.isetEq p g k a b) := by
  intro w h; cases Option.some.inj h; rw [decode_04 _ (wordP_26_6 ..)]; simp [decode04]

theorem isetNe (p : _) (g : _) (k : _) (a : _) (b : _) : Statement (.isetNe p g k a b) := by
  intro w h; cases Option.some.inj h; rw [decode_04 _ (wordP_26_6 ..)]; simp [decode04]

theorem isetLtI32 (p : _) (g : _) (k : _) (a : _) (b : _) : Statement (.isetLtI32 p g k a b) := by
  intro w h; cases Option.some.inj h; rw [decode_04 _ (wordP_26_6 ..)]; simp [decode04]

theorem isetLeI32 (p : _) (g : _) (k : _) (a : _) (b : _) : Statement (.isetLeI32 p g k a b) := by
  intro w h; cases Option.some.inj h; rw [decode_04 _ (wordP_26_6 ..)]; simp [decode04]

theorem isetLtN32 (p : _) (g : _) (k : _) (a : _) (b : _) : Statement (.isetLtN32 p g k a b) := by
  intro w h; cases Option.some.inj h; rw [decode_04 _ (wordP_26_6 ..)]; simp [decode04]

theorem isetLeN32 (p : _) (g : _) (k : _) (a : _) (b : _) : Statement (.isetLeN32 p g k a b) := by
  intro w h; cases Option.some.inj h; rw [decode_04 _ (wordP_26_6 ..)]; simp [decode04]

theorem isetTst (p : _) (g : _) (k : _) (a : _) (b : _) : Statement (.isetTst p g k a b) := by
  intro w h; cases Option.some.inj h; rw [decode_04 _ (wordP_26_6 ..)]; simp [decode04]

theorem isetNtst (p : _) (g : _) (k : _) (a : _) (b : _) : Statement (.isetNtst p g k a b) := by
  intro w h; cases Option.some.inj h; rw [decode_04 _ (wordP_26_6 ..)]; simp [decode04]

theorem sel (p : _) (d : _) (a : _) (b : _) (n : _) (k : _) : Statement (.sel p d a b n k) := by
  intro w h; cases Option.some.inj h; rw [decode_05 _ (wordR_26_6 ..)]; simp [decode05]

theorem iaddi (p : _) (d : _) (a : _) (i : _) : Statement (.iaddi p d a i) := by
  intro w h; cases Option.some.inj h; rw [decode_06 _ (wordI_26_6 ..)]; simp [decode06]

theorem shli (p : _) (d : _) (a : _) (i : _) : Statement (.shli p d a i) := by
  intro w h; cases Option.some.inj h; rw [decode_07 _ (wordKs_26_6 ..)]; simp [decode07]

theorem shri (p : _) (d : _) (a : _) (i : _) : Statement (.shri p d a i) := by
  intro w h; cases Option.some.inj h; rw [decode_07 _ (wordKs_26_6 ..)]; simp [decode07]

theorem sari (p : _) (d : _) (a : _) (i : _) : Statement (.sari p d a i) := by
  intro w h; cases Option.some.inj h; rw [decode_07 _ (wordKs_26_6 ..)]; simp [decode07]

theorem roti (p : _) (d : _) (a : _) (i : _) : Statement (.roti p d a i) := by
  intro w h; cases Option.some.inj h; rw [decode_07 _ (wordKs_26_6 ..)]; simp [decode07]

theorem andi (p : _) (d : _) (a : _) (i : _) : Statement (.andi p d a i) := by
  intro w h; cases Option.some.inj h; rw [decode_07 _ (wordK_26_6 ..)]; simp [decode07]

theorem ori (p : _) (d : _) (a : _) (i : _) : Statement (.ori p d a i) := by
  intro w h; cases Option.some.inj h; rw [decode_07 _ (wordK_26_6 ..)]; simp [decode07]

theorem xori (p : _) (d : _) (a : _) (i : _) : Statement (.xori p d a i) := by
  intro w h; cases Option.some.inj h; rw [decode_07 _ (wordK_26_6 ..)]; simp [decode07]

theorem fadd (p : _) (d : _) (a : _) (b : _) (n : _) : Statement (.fadd p d a b n) := by
  intro w h; cases Option.some.inj h; rw [decode_08 _ (wordR_26_6 ..)]; simp [decode08]

theorem fsub (p : _) (d : _) (a : _) (b : _) (n : _) : Statement (.fsub p d a b n) := by
  intro w h; cases Option.some.inj h; rw [decode_08 _ (wordR_26_6 ..)]; simp [decode08]

theorem fmul (p : _) (d : _) (a : _) (b : _) (n : _) : Statement (.fmul p d a b n) := by
  intro w h; cases Option.some.inj h; rw [decode_08 _ (wordR_26_6 ..)]; simp [decode08]

theorem ffma (p : _) (d : _) (a : _) (b : _) (n : _) : Statement (.ffma p d a b n) := by
  intro w h; cases Option.some.inj h; rw [decode_08 _ (wordR_26_6 ..)]; simp [decode08]

theorem fmin (p : _) (d : _) (a : _) (b : _) (n : _) : Statement (.fmin p d a b n) := by
  intro w h; cases Option.some.inj h; rw [decode_08 _ (wordR_26_6 ..)]; simp [decode08]

theorem fmax (p : _) (d : _) (a : _) (b : _) (n : _) : Statement (.fmax p d a b n) := by
  intro w h; cases Option.some.inj h; rw [decode_08 _ (wordR_26_6 ..)]; simp [decode08]

theorem fmna (p : _) (d : _) (a : _) (b : _) (n : _) : Statement (.fmna p d a b n) := by
  intro w h; cases Option.some.inj h; rw [decode_08 _ (wordR_26_6 ..)]; simp [decode08]

theorem fcopys (p : _) (d : _) (a : _) (b : _) (n : _) : Statement (.fcopys p d a b n) := by
  intro w h; cases Option.some.inj h; rw [decode_08 _ (wordR_26_6 ..)]; simp [decode08]

theorem fsetEq (p : _) (g : _) (k : _) (a : _) (b : _) : Statement (.fsetEq p g k a b) := by
  intro w h; cases Option.some.inj h; rw [decode_09 _ (wordP_26_6 ..)]; simp [decode09]

theorem fsetNe (p : _) (g : _) (k : _) (a : _) (b : _) : Statement (.fsetNe p g k a b) := by
  intro w h; cases Option.some.inj h; rw [decode_09 _ (wordP_26_6 ..)]; simp [decode09]

theorem fsetLt (p : _) (g : _) (k : _) (a : _) (b : _) : Statement (.fsetLt p g k a b) := by
  intro w h; cases Option.some.inj h; rw [decode_09 _ (wordP_26_6 ..)]; simp [decode09]

theorem fsetLe (p : _) (g : _) (k : _) (a : _) (b : _) : Statement (.fsetLe p g k a b) := by
  intro w h; cases Option.some.inj h; rw [decode_09 _ (wordP_26_6 ..)]; simp [decode09]

theorem fsetOrd (p : _) (g : _) (k : _) (a : _) (b : _) : Statement (.fsetOrd p g k a b) := by
  intro w h; cases Option.some.inj h; rw [decode_09 _ (wordP_26_6 ..)]; simp [decode09]

theorem fsetUnord (p : _) (g : _) (k : _) (a : _) (b : _) : Statement (.fsetUnord p g k a b) := by
  intro w h; cases Option.some.inj h; rw [decode_09 _ (wordP_26_6 ..)]; simp [decode09]

theorem fsetEqu (p : _) (g : _) (k : _) (a : _) (b : _) : Statement (.fsetEqu p g k a b) := by
  intro w h; cases Option.some.inj h; rw [decode_09 _ (wordP_26_6 ..)]; simp [decode09]

theorem fsetLtu (p : _) (g : _) (k : _) (a : _) (b : _) : Statement (.fsetLtu p g k a b) := by
  intro w h; cases Option.some.inj h; rw [decode_09 _ (wordP_26_6 ..)]; simp [decode09]

theorem frcp (p : _) (d : _) (a : _) (n : _) : Statement (.frcp p d a n) := by
  intro w h; cases Option.some.inj h; rw [decode_0A _ (wordR_26_6 ..)]; simp [decode0A]

theorem frsq (p : _) (d : _) (a : _) (n : _) : Statement (.frsq p d a n) := by
  intro w h; cases Option.some.inj h; rw [decode_0A _ (wordR_26_6 ..)]; simp [decode0A]

theorem fsqrt (p : _) (d : _) (a : _) (n : _) : Statement (.fsqrt p d a n) := by
  intro w h; cases Option.some.inj h; rw [decode_0A _ (wordR_26_6 ..)]; simp [decode0A]

theorem fex2 (p : _) (d : _) (a : _) (n : _) : Statement (.fex2 p d a n) := by
  intro w h; cases Option.some.inj h; rw [decode_0A _ (wordR_26_6 ..)]; simp [decode0A]

theorem flg2 (p : _) (d : _) (a : _) (n : _) : Statement (.flg2 p d a n) := by
  intro w h; cases Option.some.inj h; rw [decode_0A _ (wordR_26_6 ..)]; simp [decode0A]

theorem fsin (p : _) (d : _) (a : _) (n : _) : Statement (.fsin p d a n) := by
  intro w h; cases Option.some.inj h; rw [decode_0A _ (wordR_26_6 ..)]; simp [decode0A]

theorem fcos (p : _) (d : _) (a : _) (n : _) : Statement (.fcos p d a n) := by
  intro w h; cases Option.some.inj h; rw [decode_0A _ (wordR_26_6 ..)]; simp [decode0A]

theorem ftanh (p : _) (d : _) (a : _) (n : _) : Statement (.ftanh p d a n) := by
  intro w h; cases Option.some.inj h; rw [decode_0A _ (wordR_26_6 ..)]; simp [decode0A]

theorem hadd2F16 (p : _) (d : _) (a : _) (b : _) (n : _) : Statement (.hadd2F16 p d a b n) := by
  intro w h; cases Option.some.inj h; rw [decode_0B _ (wordR_26_6 ..)]; simp [decode0B]

theorem hsub2F16 (p : _) (d : _) (a : _) (b : _) (n : _) : Statement (.hsub2F16 p d a b n) := by
  intro w h; cases Option.some.inj h; rw [decode_0B _ (wordR_26_6 ..)]; simp [decode0B]

theorem hmul2F16 (p : _) (d : _) (a : _) (b : _) (n : _) : Statement (.hmul2F16 p d a b n) := by
  intro w h; cases Option.some.inj h; rw [decode_0B _ (wordR_26_6 ..)]; simp [decode0B]

theorem hfma2F16 (p : _) (d : _) (a : _) (b : _) (n : _) : Statement (.hfma2F16 p d a b n) := by
  intro w h; cases Option.some.inj h; rw [decode_0B _ (wordR_26_6 ..)]; simp [decode0B]

theorem hmin2F16 (p : _) (d : _) (a : _) (b : _) (n : _) : Statement (.hmin2F16 p d a b n) := by
  intro w h; cases Option.some.inj h; rw [decode_0B _ (wordR_26_6 ..)]; simp [decode0B]

theorem hmax2F16 (p : _) (d : _) (a : _) (b : _) (n : _) : Statement (.hmax2F16 p d a b n) := by
  intro w h; cases Option.some.inj h; rw [decode_0B _ (wordR_26_6 ..)]; simp [decode0B]

theorem hdot2F16 (p : _) (d : _) (a : _) (b : _) (n : _) : Statement (.hdot2F16 p d a b n) := by
  intro w h; cases Option.some.inj h; rw [decode_0B _ (wordR_26_6 ..)]; simp [decode0B]

theorem hadd2Bf16 (p : _) (d : _) (a : _) (b : _) (n : _) : Statement (.hadd2Bf16 p d a b n) := by
  intro w h; cases Option.some.inj h; rw [decode_0C _ (wordR_26_6 ..)]; simp [decode0C]

theorem hsub2Bf16 (p : _) (d : _) (a : _) (b : _) (n : _) : Statement (.hsub2Bf16 p d a b n) := by
  intro w h; cases Option.some.inj h; rw [decode_0C _ (wordR_26_6 ..)]; simp [decode0C]

theorem hmul2Bf16 (p : _) (d : _) (a : _) (b : _) (n : _) : Statement (.hmul2Bf16 p d a b n) := by
  intro w h; cases Option.some.inj h; rw [decode_0C _ (wordR_26_6 ..)]; simp [decode0C]

theorem hfma2Bf16 (p : _) (d : _) (a : _) (b : _) (n : _) : Statement (.hfma2Bf16 p d a b n) := by
  intro w h; cases Option.some.inj h; rw [decode_0C _ (wordR_26_6 ..)]; simp [decode0C]

theorem hmin2Bf16 (p : _) (d : _) (a : _) (b : _) (n : _) : Statement (.hmin2Bf16 p d a b n) := by
  intro w h; cases Option.some.inj h; rw [decode_0C _ (wordR_26_6 ..)]; simp [decode0C]

theorem hmax2Bf16 (p : _) (d : _) (a : _) (b : _) (n : _) : Statement (.hmax2Bf16 p d a b n) := by
  intro w h; cases Option.some.inj h; rw [decode_0C _ (wordR_26_6 ..)]; simp [decode0C]

theorem hdot2Bf16 (p : _) (d : _) (a : _) (b : _) (n : _) : Statement (.hdot2Bf16 p d a b n) := by
  intro w h; cases Option.some.inj h; rw [decode_0C _ (wordR_26_6 ..)]; simp [decode0C]

theorem cvt (p : _) (d : _) (a : _) (c : _) (n : _) (r : _) : Statement (.cvt p d a c n r) := by
  intro w h; cases Option.some.inj h; rw [decode_0D _ (wordR_26_6 ..)]; simp [decode0D]

theorem frndRn (p : _) (d : _) (a : _) (n : _) : Statement (.frndRn p d a n) := by
  intro w h; cases Option.some.inj h; rw [decode_0E _ (wordR_26_6 ..)]; simp [decode0E]

theorem frndRz (p : _) (d : _) (a : _) (n : _) : Statement (.frndRz p d a n) := by
  intro w h; cases Option.some.inj h; rw [decode_0E _ (wordR_26_6 ..)]; simp [decode0E]

theorem frndRd (p : _) (d : _) (a : _) (n : _) : Statement (.frndRd p d a n) := by
  intro w h; cases Option.some.inj h; rw [decode_0E _ (wordR_26_6 ..)]; simp [decode0E]

theorem frndRu (p : _) (d : _) (a : _) (n : _) : Statement (.frndRu p d a n) := by
  intro w h; cases Option.some.inj h; rw [decode_0E _ (wordR_26_6 ..)]; simp [decode0E]

theorem ffrac (p : _) (d : _) (a : _) (n : _) : Statement (.ffrac p d a n) := by
  intro w h; cases Option.some.inj h; rw [decode_0E _ (wordR_26_6 ..)]; simp [decode0E]

theorem fexp (p : _) (d : _) (a : _) (n : _) : Statement (.fexp p d a n) := by
  intro w h; cases Option.some.inj h; rw [decode_0E _ (wordR_26_6 ..)]; simp [decode0E]

theorem fscale (p : _) (d : _) (a : _) (b : _) (n : _) : Statement (.fscale p d a b n) := by
  intro w h; cases Option.some.inj h; rw [decode_0E _ (wordR_26_6 ..)]; simp [decode0E]

theorem fclass (p : _) (d : _) (a : _) (n : _) : Statement (.fclass p d a n) := by
  intro w h; cases Option.some.inj h; rw [decode_0E _ (wordR_26_6 ..)]; simp [decode0E]

theorem shflIdx (p : _) (d : _) (a : _) (b : _) (n : _) : Statement (.shflIdx p d a b n) := by
  intro w h; cases Option.some.inj h; rw [decode_10 _ (wordR_26_6 ..)]; simp [decode10]

theorem shflXor (p : _) (d : _) (a : _) (b : _) (n : _) : Statement (.shflXor p d a b n) := by
  intro w h; cases Option.some.inj h; rw [decode_10 _ (wordR_26_6 ..)]; simp [decode10]

theorem shflUp (p : _) (d : _) (a : _) (b : _) (n : _) : Statement (.shflUp p d a b n) := by
  intro w h; cases Option.some.inj h; rw [decode_10 _ (wordR_26_6 ..)]; simp [decode10]

theorem shflDown (p : _) (d : _) (a : _) (b : _) (n : _) : Statement (.shflDown p d a b n) := by
  intro w h; cases Option.some.inj h; rw [decode_10 _ (wordR_26_6 ..)]; simp [decode10]

theorem voteAny (p : _) (g : _) (k : _) (a : _) : Statement (.voteAny p g k a) := by
  intro w h; cases Option.some.inj h; rw [decode_10 _ (wordP_26_6 ..)]; simp [decode10]

theorem voteAll (p : _) (g : _) (k : _) (a : _) : Statement (.voteAll p g k a) := by
  intro w h; cases Option.some.inj h; rw [decode_10 _ (wordP_26_6 ..)]; simp [decode10]

theorem ballot (p : _) (d : _) (a : _) (n : _) : Statement (.ballot p d a n) := by
  intro w h; cases Option.some.inj h; rw [decode_10 _ (wordR_26_6 ..)]; simp [decode10]

theorem matchLanes (p : _) (d : _) (a : _) (n : _) : Statement (.matchLanes p d a n) := by
  intro w h; cases Option.some.inj h; rw [decode_10 _ (wordR_26_6 ..)]; simp [decode10]

theorem reduxAddI32 (p : _) (d : _) (a : _) (n : _) : Statement (.reduxAddI32 p d a n) := by
  intro w h; cases Option.some.inj h; rw [decode_11 _ (wordR_26_6 ..)]; simp [decode11]

theorem reduxMinI32 (p : _) (d : _) (a : _) (n : _) : Statement (.reduxMinI32 p d a n) := by
  intro w h; cases Option.some.inj h; rw [decode_11 _ (wordR_26_6 ..)]; simp [decode11]

theorem reduxMaxI32 (p : _) (d : _) (a : _) (n : _) : Statement (.reduxMaxI32 p d a n) := by
  intro w h; cases Option.some.inj h; rw [decode_11 _ (wordR_26_6 ..)]; simp [decode11]

theorem reduxAddF32 (p : _) (d : _) (a : _) (n : _) : Statement (.reduxAddF32 p d a n) := by
  intro w h; cases Option.some.inj h; rw [decode_11 _ (wordR_26_6 ..)]; simp [decode11]

theorem elect (p : _) (g : _) (k : _) : Statement (.elect p g k) := by
  intro w h; cases Option.some.inj h; rw [decode_11 _ (wordP_26_6 ..)]; simp [decode11]

theorem s2v (p : _) (d : _) (s : _) (n : _) : Statement (.s2v p d s n) := by
  intro w h; cases Option.some.inj h; rw [decode_11 _ (wordS2v_26_6 ..)]; simp [decode11]

theorem v2s (p : _) (d : _) (a : _) : Statement (.v2s p d a) := by
  intro w h; cases Option.some.inj h; rw [decode_11 _ (wordV2s_26_6 ..)]; simp [decode11]

theorem sadd (d : _) (a : _) (b : _) : Statement (.sadd d a b) := by
  intro w h; cases Option.some.inj h; rw [decode_12 _ (wordS_26_6 ..)]; simp [decode12]

theorem ssub (d : _) (a : _) (b : _) : Statement (.ssub d a b) := by
  intro w h; cases Option.some.inj h; rw [decode_12 _ (wordS_26_6 ..)]; simp [decode12]

theorem smul (d : _) (a : _) (b : _) : Statement (.smul d a b) := by
  intro w h; cases Option.some.inj h; rw [decode_12 _ (wordS_26_6 ..)]; simp [decode12]

theorem sand (d : _) (a : _) (b : _) : Statement (.sand d a b) := by
  intro w h; cases Option.some.inj h; rw [decode_12 _ (wordS_26_6 ..)]; simp [decode12]

theorem sor (d : _) (a : _) (b : _) : Statement (.sor d a b) := by
  intro w h; cases Option.some.inj h; rw [decode_12 _ (wordS_26_6 ..)]; simp [decode12]

theorem sxor (d : _) (a : _) (b : _) : Statement (.sxor d a b) := by
  intro w h; cases Option.some.inj h; rw [decode_12 _ (wordS_26_6 ..)]; simp [decode12]

theorem sshl (d : _) (a : _) (b : _) : Statement (.sshl d a b) := by
  intro w h; cases Option.some.inj h; rw [decode_12 _ (wordS_26_6 ..)]; simp [decode12]

theorem sshr (d : _) (a : _) (b : _) : Statement (.sshr d a b) := by
  intro w h; cases Option.some.inj h; rw [decode_12 _ (wordS_26_6 ..)]; simp [decode12]

theorem saddi (d : _) (a : _) (i : _) : Statement (.saddi d a i) := by
  intro w h; cases Option.some.inj h; rw [decode_13 _ (wordSi_26_6 ..)]; simp [decode13]

theorem sminI32 (d : _) (a : _) (b : _) : Statement (.sminI32 d a b) := by
  intro w h; cases Option.some.inj h; rw [decode_14 _ (wordS_26_6 ..)]; simp [decode14]

theorem smaxI32 (d : _) (a : _) (b : _) : Statement (.smaxI32 d a b) := by
  intro w h; cases Option.some.inj h; rw [decode_14 _ (wordS_26_6 ..)]; simp [decode14]

theorem sminN32 (d : _) (a : _) (b : _) : Statement (.sminN32 d a b) := by
  intro w h; cases Option.some.inj h; rw [decode_14 _ (wordS_26_6 ..)]; simp [decode14]

theorem smaxN32 (d : _) (a : _) (b : _) : Statement (.smaxN32 d a b) := by
  intro w h; cases Option.some.inj h; rw [decode_14 _ (wordS_26_6 ..)]; simp [decode14]

theorem ssar (d : _) (a : _) (b : _) : Statement (.ssar d a b) := by
  intro w h; cases Option.some.inj h; rw [decode_14 _ (wordS_26_6 ..)]; simp [decode14]

theorem spopc (d : _) (a : _) : Statement (.spopc d a) := by
  intro w h; cases Option.some.inj h; rw [decode_14 _ (wordS_26_6 ..)]; simp [decode14]

theorem sclz (d : _) (a : _) : Statement (.sclz d a) := by
  intro w h; cases Option.some.inj h; rw [decode_14 _ (wordS_26_6 ..)]; simp [decode14]

theorem sbr (c : _) (a : _) (b : _) (o : _) : Statement (.sbr c a b o) := by
  intro w h; cases Option.some.inj h; rw [decode_15 _ (wordSb_26_6 ..)]; simp [decode15]

theorem smovi (d : _) (i : _) : Statement (.smovi d i) := by
  intro w h; cases Option.some.inj h; rw [decode_16 _ (wordSi_26_6 ..)]; simp [decode16]

theorem bra (p : _) (o : _) : Statement (.bra p o) := by
  intro w h; cases Option.some.inj h; rw [decode_18 _ (wordJ_26_6 ..)]; simp [decode18]

theorem call (p : _) (o : _) : Statement (.call p o) := by
  intro w h; cases Option.some.inj h; rw [decode_19 _ (wordJ_26_6 ..)]; simp [decode19]

theorem brx (p : _) (a : _) : Statement (.brx p a) := by
  intro w h; cases Option.some.inj h; rw [decode_1A _ (wordR_26_6 ..)]; simp [decode1A]

theorem callx (p : _) (a : _) : Statement (.callx p a) := by
  intro w h; cases Option.some.inj h; rw [decode_1A _ (wordR_26_6 ..)]; simp [decode1A]

theorem ret (p : _) : Statement (.ret p) := by
  intro w h; cases Option.some.inj h; rw [decode_1A _ (wordR_26_6 ..)]; simp [decode1A]

theorem exit (p : _) (a : _) : Statement (.exit p a) := by
  intro w h; cases Option.some.inj h; rw [decode_1A _ (wordR_26_6 ..)]; simp [decode1A]

theorem yield (p : _) : Statement (.yield p) := by
  intro w h; cases Option.some.inj h; rw [decode_1A _ (wordR_26_6 ..)]; simp [decode1A]

theorem nop (p : _) : Statement (.nop p) := by
  intro w h; cases Option.some.inj h; rw [decode_1A _ (wordR_26_6 ..)]; simp [decode1A]

theorem nextSeg (p : _) (a : _) : Statement (.nextSeg p a) := by
  intro w h; cases Option.some.inj h; rw [decode_1A _ (wordR_26_6 ..)]; simp [decode1A]

theorem brk (p : _) : Statement (.brk p) := by
  intro w h; cases Option.some.inj h; rw [decode_1A _ (wordR_26_6 ..)]; simp [decode1A]

theorem jenter (p : _) (e : _) : Statement (.jenter p e) := by
  intro w h; cases Option.some.inj h; rw [decode_1B _ (wordX_26_6 ..)]; simp [decode1B]

theorem jquit (p : _) (e : _) : Statement (.jquit p e) := by
  intro w h; cases Option.some.inj h; rw [decode_1B _ (wordX_26_6 ..)]; simp [decode1B]

theorem jwait (p : _) (e : _) : Statement (.jwait p e) := by
  intro w h; cases Option.some.inj h; rw [decode_1B _ (wordX_26_6 ..)]; simp [decode1B]

theorem jmovf (p : _) (s : _) (x : _) (e : _) : Statement (.jmovf p s x e) := by
  intro w h; cases Option.some.inj h; rw [decode_1B _ (wordX_26_6 ..)]; simp [decode1B]

theorem jmovt (p : _) (s : _) (x : _) (e : _) : Statement (.jmovt p s x e) := by
  intro w h; cases Option.some.inj h; rw [decode_1B _ (wordX_26_6 ..)]; simp [decode1B]

theorem jclr (p : _) (e : _) : Statement (.jclr p e) := by
  intro w h; cases Option.some.inj h; rw [decode_1B _ (wordX_26_6 ..)]; simp [decode1B]

theorem loop (l : _) (s : _) (e : _) : Statement (.loop l s e) := by
  intro w h; cases Option.some.inj h; rw [decode_1C _ (wordL_26_6 ..)]; simp [decode1C]

theorem loopi (l : _) (c : _) (e : _) : Statement (.loopi l c e) := by
  intro w h; cases Option.some.inj h; rw [decode_1D _ (wordLi_26_6 ..)]; simp [decode1D]

theorem barSync (p : _) (e : _) : Statement (.barSync p e) := by
  intro w h; cases Option.some.inj h; rw [decode_1E _ (wordX_26_6 ..)]; simp [decode1E]

theorem barArv (p : _) (e : _) : Statement (.barArv p e) := by
  intro w h; cases Option.some.inj h; rw [decode_1E _ (wordX_26_6 ..)]; simp [decode1E]

theorem barWait (p : _) (e : _) : Statement (.barWait p e) := by
  intro w h; cases Option.some.inj h; rw [decode_1E _ (wordX_26_6 ..)]; simp [decode1E]

theorem barCnt (p : _) (s : _) (e : _) : Statement (.barCnt p s e) := by
  intro w h; cases Option.some.inj h; rw [decode_1E _ (wordX_26_6 ..)]; simp [decode1E]

theorem ldB8I (p : _) (d : _) (c : _) (v : _) : Statement (.ldB8I p d c v) := by
  intro w h; cases Option.some.inj h; rw [decode_20 _ (wordM_26_6 ..)]; simp [decode20]

theorem ldB8N (p : _) (d : _) (c : _) (v : _) : Statement (.ldB8N p d c v) := by
  intro w h; cases Option.some.inj h; rw [decode_20 _ (wordM_26_6 ..)]; simp [decode20]

theorem ldB16I (p : _) (d : _) (c : _) (v : _) : Statement (.ldB16I p d c v) := by
  intro w h; cases Option.some.inj h; rw [decode_20 _ (wordM_26_6 ..)]; simp [decode20]

theorem ldB16N (p : _) (d : _) (c : _) (v : _) : Statement (.ldB16N p d c v) := by
  intro w h; cases Option.some.inj h; rw [decode_20 _ (wordM_26_6 ..)]; simp [decode20]

theorem ldB32 (p : _) (d : _) (c : _) (v : _) : Statement (.ldB32 p d c v) := by
  intro w h; cases Option.some.inj h; rw [decode_20 _ (wordM_26_6 ..)]; simp [decode20]

theorem ldB64 (p : _) (d : _) (c : _) (v : _) : Statement (.ldB64 p d c v) := by
  intro w h; cases Option.some.inj h; rw [decode_20 _ (wordM_26_6 ..)]; simp [decode20]

theorem ldB128 (p : _) (d : _) (c : _) (v : _) : Statement (.ldB128 p d c v) := by
  intro w h; cases Option.some.inj h; rw [decode_20 _ (wordM_26_6 ..)]; simp [decode20]

theorem ldcB32 (p : _) (d : _) (c : _) (v : _) : Statement (.ldcB32 p d c v) := by
  intro w h; cases Option.some.inj h; rw [decode_20 _ (wordM_26_6 ..)]; simp [decode20]

theorem stB8 (p : _) (d : _) (c : _) (v : _) : Statement (.stB8 p d c v) := by
  intro w h; cases Option.some.inj h; rw [decode_21 _ (wordM_26_6 ..)]; simp [decode21]

theorem stB16 (p : _) (d : _) (c : _) (v : _) : Statement (.stB16 p d c v) := by
  intro w h; cases Option.some.inj h; rw [decode_21 _ (wordM_26_6 ..)]; simp [decode21]

theorem stB32 (p : _) (d : _) (c : _) (v : _) : Statement (.stB32 p d c v) := by
  intro w h; cases Option.some.inj h; rw [decode_21 _ (wordM_26_6 ..)]; simp [decode21]

theorem stB64 (p : _) (d : _) (c : _) (v : _) : Statement (.stB64 p d c v) := by
  intro w h; cases Option.some.inj h; rw [decode_21 _ (wordM_26_6 ..)]; simp [decode21]

theorem stB128 (p : _) (d : _) (c : _) (v : _) : Statement (.stB128 p d c v) := by
  intro w h; cases Option.some.inj h; rw [decode_21 _ (wordM_26_6 ..)]; simp [decode21]

theorem ldsB32Row (p : _) (d : _) (c : _) (v : _) : Statement (.ldsB32Row p d c v) := by
  intro w h; cases Option.some.inj h; rw [decode_22 _ (wordM_26_6 ..)]; simp [decode22]

theorem ldsB32Col (p : _) (d : _) (c : _) (v : _) : Statement (.ldsB32Col p d c v) := by
  intro w h; cases Option.some.inj h; rw [decode_22 _ (wordM_26_6 ..)]; simp [decode22]

theorem ldsB64Row (p : _) (d : _) (c : _) (v : _) : Statement (.ldsB64Row p d c v) := by
  intro w h; cases Option.some.inj h; rw [decode_22 _ (wordM_26_6 ..)]; simp [decode22]

theorem ldsB64Col (p : _) (d : _) (c : _) (v : _) : Statement (.ldsB64Col p d c v) := by
  intro w h; cases Option.some.inj h; rw [decode_22 _ (wordM_26_6 ..)]; simp [decode22]

theorem ldsB16Row (p : _) (d : _) (c : _) (v : _) : Statement (.ldsB16Row p d c v) := by
  intro w h; cases Option.some.inj h; rw [decode_22 _ (wordM_26_6 ..)]; simp [decode22]

theorem ldsB16Col (p : _) (d : _) (c : _) (v : _) : Statement (.ldsB16Col p d c v) := by
  intro w h; cases Option.some.inj h; rw [decode_22 _ (wordM_26_6 ..)]; simp [decode22]

theorem ldsB8Row (p : _) (d : _) (c : _) (v : _) : Statement (.ldsB8Row p d c v) := by
  intro w h; cases Option.some.inj h; rw [decode_22 _ (wordM_26_6 ..)]; simp [decode22]

theorem ldsB128Row (p : _) (d : _) (c : _) (v : _) : Statement (.ldsB128Row p d c v) := by
  intro w h; cases Option.some.inj h; rw [decode_22 _ (wordM_26_6 ..)]; simp [decode22]

theorem stsB32Row (p : _) (d : _) (c : _) (v : _) : Statement (.stsB32Row p d c v) := by
  intro w h; cases Option.some.inj h; rw [decode_23 _ (wordM_26_6 ..)]; simp [decode23]

theorem stsB32Col (p : _) (d : _) (c : _) (v : _) : Statement (.stsB32Col p d c v) := by
  intro w h; cases Option.some.inj h; rw [decode_23 _ (wordM_26_6 ..)]; simp [decode23]

theorem stsB64Row (p : _) (d : _) (c : _) (v : _) : Statement (.stsB64Row p d c v) := by
  intro w h; cases Option.some.inj h; rw [decode_23 _ (wordM_26_6 ..)]; simp [decode23]

theorem stsB64Col (p : _) (d : _) (c : _) (v : _) : Statement (.stsB64Col p d c v) := by
  intro w h; cases Option.some.inj h; rw [decode_23 _ (wordM_26_6 ..)]; simp [decode23]

theorem stsB16Row (p : _) (d : _) (c : _) (v : _) : Statement (.stsB16Row p d c v) := by
  intro w h; cases Option.some.inj h; rw [decode_23 _ (wordM_26_6 ..)]; simp [decode23]

theorem stsB16Col (p : _) (d : _) (c : _) (v : _) : Statement (.stsB16Col p d c v) := by
  intro w h; cases Option.some.inj h; rw [decode_23 _ (wordM_26_6 ..)]; simp [decode23]

theorem stsB8Row (p : _) (d : _) (c : _) (v : _) : Statement (.stsB8Row p d c v) := by
  intro w h; cases Option.some.inj h; rw [decode_23 _ (wordM_26_6 ..)]; simp [decode23]

theorem stsB128Row (p : _) (d : _) (c : _) (v : _) : Statement (.stsB128Row p d c v) := by
  intro w h; cases Option.some.inj h; rw [decode_23 _ (wordM_26_6 ..)]; simp [decode23]

theorem atomAdd (p : _) (d : _) (c : _) (v : _) : Statement (.atomAdd p d c v) := by
  intro w h; cases Option.some.inj h; rw [decode_24 _ (wordM_26_6 ..)]; simp [decode24]

theorem atomMinI32 (p : _) (d : _) (c : _) (v : _) : Statement (.atomMinI32 p d c v) := by
  intro w h; cases Option.some.inj h; rw [decode_24 _ (wordM_26_6 ..)]; simp [decode24]

theorem atomMaxI32 (p : _) (d : _) (c : _) (v : _) : Statement (.atomMaxI32 p d c v) := by
  intro w h; cases Option.some.inj h; rw [decode_24 _ (wordM_26_6 ..)]; simp [decode24]

theorem atomMinN32 (p : _) (d : _) (c : _) (v : _) : Statement (.atomMinN32 p d c v) := by
  intro w h; cases Option.some.inj h; rw [decode_24 _ (wordM_26_6 ..)]; simp [decode24]

theorem atomMaxN32 (p : _) (d : _) (c : _) (v : _) : Statement (.atomMaxN32 p d c v) := by
  intro w h; cases Option.some.inj h; rw [decode_24 _ (wordM_26_6 ..)]; simp [decode24]

theorem atomAnd (p : _) (d : _) (c : _) (v : _) : Statement (.atomAnd p d c v) := by
  intro w h; cases Option.some.inj h; rw [decode_24 _ (wordM_26_6 ..)]; simp [decode24]

theorem atomOr (p : _) (d : _) (c : _) (v : _) : Statement (.atomOr p d c v) := by
  intro w h; cases Option.some.inj h; rw [decode_24 _ (wordM_26_6 ..)]; simp [decode24]

theorem atomXor (p : _) (d : _) (c : _) (v : _) : Statement (.atomXor p d c v) := by
  intro w h; cases Option.some.inj h; rw [decode_24 _ (wordM_26_6 ..)]; simp [decode24]

theorem atomExch (p : _) (d : _) (c : _) (v : _) : Statement (.atomExch p d c v) := by
  intro w h; cases Option.some.inj h; rw [decode_25 _ (wordM_26_6 ..)]; simp [decode25]

theorem atomCas (p : _) (d : _) (c : _) (v : _) : Statement (.atomCas p d c v) := by
  intro w h; cases Option.some.inj h; rw [decode_25 _ (wordM_26_6 ..)]; simp [decode25]

theorem atomAddF32 (p : _) (d : _) (c : _) (v : _) : Statement (.atomAddF32 p d c v) := by
  intro w h; cases Option.some.inj h; rw [decode_25 _ (wordM_26_6 ..)]; simp [decode25]

theorem lrB32 (p : _) (d : _) (c : _) (v : _) : Statement (.lrB32 p d c v) := by
  intro w h; cases Option.some.inj h; rw [decode_25 _ (wordM_26_6 ..)]; simp [decode25]

theorem scB32 (p : _) (d : _) (c : _) (v : _) : Statement (.scB32 p d c v) := by
  intro w h; cases Option.some.inj h; rw [decode_25 _ (wordM_26_6 ..)]; simp [decode25]

theorem redAddI32 (p : _) (d : _) (c : _) (v : _) : Statement (.redAddI32 p d c v) := by
  intro w h; cases Option.some.inj h; rw [decode_26 _ (wordM_26_6 ..)]; simp [decode26]

theorem redMinI32 (p : _) (d : _) (c : _) (v : _) : Statement (.redMinI32 p d c v) := by
  intro w h; cases Option.some.inj h; rw [decode_26 _ (wordM_26_6 ..)]; simp [decode26]

theorem redMaxI32 (p : _) (d : _) (c : _) (v : _) : Statement (.redMaxI32 p d c v) := by
  intro w h; cases Option.some.inj h; rw [decode_26 _ (wordM_26_6 ..)]; simp [decode26]

theorem redAnd (p : _) (d : _) (c : _) (v : _) : Statement (.redAnd p d c v) := by
  intro w h; cases Option.some.inj h; rw [decode_26 _ (wordM_26_6 ..)]; simp [decode26]

theorem redOr (p : _) (d : _) (c : _) (v : _) : Statement (.redOr p d c v) := by
  intro w h; cases Option.some.inj h; rw [decode_26 _ (wordM_26_6 ..)]; simp [decode26]

theorem redXor (p : _) (d : _) (c : _) (v : _) : Statement (.redXor p d c v) := by
  intro w h; cases Option.some.inj h; rw [decode_26 _ (wordM_26_6 ..)]; simp [decode26]

theorem redAddF32 (p : _) (d : _) (c : _) (v : _) : Statement (.redAddF32 p d c v) := by
  intro w h; cases Option.some.inj h; rw [decode_26 _ (wordM_26_6 ..)]; simp [decode26]

theorem redAddF16x2 (p : _) (d : _) (c : _) (v : _) : Statement (.redAddF16x2 p d c v) := by
  intro w h; cases Option.some.inj h; rw [decode_26 _ (wordM_26_6 ..)]; simp [decode26]

theorem atomsAdd (p : _) (d : _) (c : _) (v : _) : Statement (.atomsAdd p d c v) := by
  intro w h; cases Option.some.inj h; rw [decode_27 _ (wordM_26_6 ..)]; simp [decode27]

theorem atomsMinI32 (p : _) (d : _) (c : _) (v : _) : Statement (.atomsMinI32 p d c v) := by
  intro w h; cases Option.some.inj h; rw [decode_27 _ (wordM_26_6 ..)]; simp [decode27]

theorem atomsMaxI32 (p : _) (d : _) (c : _) (v : _) : Statement (.atomsMaxI32 p d c v) := by
  intro w h; cases Option.some.inj h; rw [decode_27 _ (wordM_26_6 ..)]; simp [decode27]

theorem atomsExch (p : _) (d : _) (c : _) (v : _) : Statement (.atomsExch p d c v) := by
  intro w h; cases Option.some.inj h; rw [decode_27 _ (wordM_26_6 ..)]; simp [decode27]

theorem atomsCas (p : _) (d : _) (c : _) (v : _) : Statement (.atomsCas p d c v) := by
  intro w h; cases Option.some.inj h; rw [decode_27 _ (wordM_26_6 ..)]; simp [decode27]

theorem atomsAddF32 (p : _) (d : _) (c : _) (v : _) : Statement (.atomsAddF32 p d c v) := by
  intro w h; cases Option.some.inj h; rw [decode_27 _ (wordM_26_6 ..)]; simp [decode27]

theorem atomsOr (p : _) (d : _) (c : _) (v : _) : Statement (.atomsOr p d c v) := by
  intro w h; cases Option.some.inj h; rw [decode_27 _ (wordM_26_6 ..)]; simp [decode27]

theorem atomsAnd (p : _) (d : _) (c : _) (v : _) : Statement (.atomsAnd p d c v) := by
  intro w h; cases Option.some.inj h; rw [decode_27 _ (wordM_26_6 ..)]; simp [decode27]

theorem fenceAcq (p : _) (e : _) : Statement (.fenceAcq p e) := by
  intro w h; cases Option.some.inj h; rw [decode_28 _ (wordX_26_6 ..)]; simp [decode28]

theorem fenceRel (p : _) (e : _) : Statement (.fenceRel p e) := by
  intro w h; cases Option.some.inj h; rw [decode_28 _ (wordX_26_6 ..)]; simp [decode28]

theorem fenceAr (p : _) (e : _) : Statement (.fenceAr p e) := by
  intro w h; cases Option.some.inj h; rw [decode_28 _ (wordX_26_6 ..)]; simp [decode28]

theorem fenceSc (p : _) (e : _) : Statement (.fenceSc p e) := by
  intro w h; cases Option.some.inj h; rw [decode_28 _ (wordX_26_6 ..)]; simp [decode28]

theorem pref (p : _) (c : _) (v : _) : Statement (.pref p c v) := by
  intro w h; cases Option.some.inj h; rw [decode_29 _ (wordM_26_6 ..)]; simp [decode29]

theorem prefLlc (p : _) (c : _) (v : _) : Statement (.prefLlc p c v) := by
  intro w h; cases Option.some.inj h; rw [decode_29 _ (wordM_26_6 ..)]; simp [decode29]

theorem cwb (p : _) (c : _) (v : _) : Statement (.cwb p c v) := by
  intro w h; cases Option.some.inj h; rw [decode_29 _ (wordM_26_6 ..)]; simp [decode29]

theorem cinv (p : _) (c : _) (v : _) : Statement (.cinv p c v) := by
  intro w h; cases Option.some.inj h; rw [decode_29 _ (wordM_26_6 ..)]; simp [decode29]

theorem cwbi (p : _) (c : _) (v : _) : Statement (.cwbi p c v) := by
  intro w h; cases Option.some.inj h; rw [decode_29 _ (wordM_26_6 ..)]; simp [decode29]

theorem ldntB32 (p : _) (d : _) (c : _) (v : _) : Statement (.ldntB32 p d c v) := by
  intro w h; cases Option.some.inj h; rw [decode_29 _ (wordM_26_6 ..)]; simp [decode29]

theorem stntB32 (p : _) (d : _) (c : _) (v : _) : Statement (.stntB32 p d c v) := by
  intro w h; cases Option.some.inj h; rw [decode_29 _ (wordM_26_6 ..)]; simp [decode29]

theorem gbegin (p : _) (x : _) (e : _) : Statement (.gbegin p x e) := by
  intro w h; cases Option.some.inj h; rw [decode_2A _ (wordX_26_6 ..)]; simp [decode2A]

theorem gend (p : _) : Statement (.gend p) := by
  intro w h; cases Option.some.inj h; rw [decode_2A _ (wordX_26_6 ..)]; simp [decode2A]

theorem viewf (p : _) (s : _) (e : _) : Statement (.viewf p s e) := by
  intro w h; cases Option.some.inj h; rw [decode_2B _ (wordX_26_6 ..)]; simp [decode2B]

theorem viewp (p : _) (t : _) (s : _) (x : _) (e : _) : Statement (.viewp p t s x e) := by
  intro w h; cases Option.some.inj h; rw [decode_2B _ (wordX_26_6 ..)]; simp [decode2B]

theorem viewq (p : _) (t : _) (s : _) (e : _) : Statement (.viewq p t s e) := by
  intro w h; cases Option.some.inj h; rw [decode_2B _ (wordX_26_6 ..)]; simp [decode2B]

theorem cpy (p : _) (t : _) (s : _) (x : _) (r : _) : Statement (.cpy p t s x r) := by
  intro w h; cases Option.some.inj h; rw [decode_2C _ (wordX1_26_6 ..)]; simp [decode2C]

theorem cpyaF32 (p : _) (t : _) (s : _) (x : _) (r : _) : Statement (.cpyaF32 p t s x r) := by
  intro w h; cases Option.some.inj h; rw [decode_2C _ (wordX1_26_6 ..)]; simp [decode2C]

theorem cpyaF16 (p : _) (t : _) (s : _) (x : _) (r : _) : Statement (.cpyaF16 p t s x r) := by
  intro w h; cases Option.some.inj h; rw [decode_2C _ (wordX1_26_6 ..)]; simp [decode2C]

theorem cpyg (p : _) (t : _) (s : _) (x : _) (r : _) : Statement (.cpyg p t s x r) := by
  intro w h; cases Option.some.inj h; rw [decode_2C _ (wordX1_26_6 ..)]; simp [decode2C]

theorem ownE (p : _) (s : _) (x : _) : Statement (.ownE p s x) := by
  intro w h; cases Option.some.inj h; rw [decode_2D _ (wordX_26_6 ..)]; simp [decode2D]

theorem ownT (p : _) (s : _) (x : _) : Statement (.ownT p s x) := by
  intro w h; cases Option.some.inj h; rw [decode_2D _ (wordX_26_6 ..)]; simp [decode2D]

theorem ownq (p : _) (t : _) (s : _) : Statement (.ownq p t s) := by
  intro w h; cases Option.some.inj h; rw [decode_2D _ (wordX_26_6 ..)]; simp [decode2D]

theorem csld (p : _) (t : _) (s : _) (x : _) (r : _) : Statement (.csld p t s x r) := by
  intro w h; cases Option.some.inj h; rw [decode_2E _ (wordX1_26_6 ..)]; simp [decode2E]

theorem mmld (p : _) (t : _) (s : _) : Statement (.mmld p t s) := by
  intro w h; cases Option.some.inj h; rw [decode_2E _ (wordX_26_6 ..)]; simp [decode2E]

theorem mmrun (p : _) (t : _) (s : _) (x : _) (r : _) : Statement (.mmrun p t s x r) := by
  intro w h; cases Option.some.inj h; rw [decode_2E _ (wordX1_26_6 ..)]; simp [decode2E]

theorem mmdrain (p : _) (t : _) (s : _) (x : _) (r : _) : Statement (.mmdrain p t s x r) := by
  intro w h; cases Option.some.inj h; rw [decode_2E _ (wordX1_26_6 ..)]; simp [decode2E]

theorem rede (p : _) (t : _) (s : _) (x : _) (r : _) : Statement (.rede p t s x r) := by
  intro w h; cases Option.some.inj h; rw [decode_2E _ (wordX1_26_6 ..)]; simp [decode2E]

theorem mmaF16 (p : _) (d : _) (a : _) (b : _) : Statement (.mmaF16 p d a b) := by
  intro w h; cases Option.some.inj h; rw [decode_2F _ (wordR_26_6 ..)]; simp [decode2F]

theorem mmaBf16 (p : _) (d : _) (a : _) (b : _) : Statement (.mmaBf16 p d a b) := by
  intro w h; cases Option.some.inj h; rw [decode_2F _ (wordR_26_6 ..)]; simp [decode2F]

theorem mmaF8e4 (p : _) (d : _) (a : _) (b : _) : Statement (.mmaF8e4 p d a b) := by
  intro w h; cases Option.some.inj h; rw [decode_2F _ (wordR_26_6 ..)]; simp [decode2F]

theorem mmaF8e5 (p : _) (d : _) (a : _) (b : _) : Statement (.mmaF8e5 p d a b) := by
  intro w h; cases Option.some.inj h; rw [decode_2F _ (wordR_26_6 ..)]; simp [decode2F]

theorem mmaI8 (p : _) (d : _) (a : _) (b : _) : Statement (.mmaI8 p d a b) := by
  intro w h; cases Option.some.inj h; rw [decode_2F _ (wordR_26_6 ..)]; simp [decode2F]

theorem ladrLane (p : _) (t : _) (s : _) : Statement (.ladrLane p t s) := by
  intro w h; cases Option.some.inj h; rw [decode_30 _ (wordX_26_6 ..)]; simp [decode30]

theorem ladrRange (p : _) (t : _) (s : _) (x : _) : Statement (.ladrRange p t s x) := by
  intro w h; cases Option.some.inj h; rw [decode_30 _ (wordX_26_6 ..)]; simp [decode30]

theorem lesc (p : _) (t : _) (e : _) : Statement (.lesc p t e) := by
  intro w h; cases Option.some.inj h; rw [decode_30 _ (wordX_26_6 ..)]; simp [decode30]

theorem lret (p : _) (t : _) : Statement (.lret p t) := by
  intro w h; cases Option.some.inj h; rw [decode_30 _ (wordX_26_6 ..)]; simp [decode30]

theorem lfrm (p : _) (t : _) : Statement (.lfrm p t) := by
  intro w h; cases Option.some.inj h; rw [decode_30 _ (wordX_26_6 ..)]; simp [decode30]

theorem linfo (p : _) (t : _) (s : _) (e : _) : Statement (.linfo p t s e) := by
  intro w h; cases Option.some.inj h; rw [decode_30 _ (wordX_26_6 ..)]; simp [decode30]

theorem rlaunch (p : _) (t : _) (s : _) (x : _) (e : _) : Statement (.rlaunch p t s x e) := by
  intro w h; cases Option.some.inj h; rw [decode_31 _ (wordX1_26_6 ..)]; simp [decode31]

theorem rquery (p : _) (t : _) (s : _) (x : _) (e : _) : Statement (.rquery p t s x e) := by
  intro w h; cases Option.some.inj h; rw [decode_31 _ (wordX_26_6 ..)]; simp [decode31]

theorem commit (p : _) : Statement (.commit p) := by
  intro w h; cases Option.some.inj h; rw [decode_31 _ (wordX_26_6 ..)]; simp [decode31]

theorem dqpush (p : _) (s : _) (x : _) : Statement (.dqpush p s x) := by
  intro w h; cases Option.some.inj h; rw [decode_31 _ (wordX_26_6 ..)]; simp [decode31]

theorem dqpop (p : _) (t : _) : Statement (.dqpop p t) := by
  intro w h; cases Option.some.inj h; rw [decode_31 _ (wordX_26_6 ..)]; simp [decode31]

theorem srd (p : _) (t : _) (r : _) : Statement (.srd p t r) := by
  intro w h; cases Option.some.inj h; rw [decode_31 _ (wordX_26_6 ..)]; simp [decode31]

theorem swr (p : _) (r : _) (x : _) : Statement (.swr p r x) := by
  intro w h; cases Option.some.inj h; rw [decode_31 _ (wordX_26_6 ..)]; simp [decode31]

theorem trap (p : _) (e : _) : Statement (.trap p e) := by
  intro w h; cases Option.some.inj h; rw [decode_32 _ (wordX_26_6 ..)]; simp [decode32]

theorem rte (p : _) (f : _) : Statement (.rte p f) := by
  intro w h; cases Option.some.inj h; rw [decode_32 _ (wordX1_26_6 ..)]; simp [decode32]

theorem xlr (p : _) (t : _) (s : _) (x : _) : Statement (.xlr p t s x) := by
  intro w h; cases Option.some.inj h; rw [decode_32 _ (wordX_26_6 ..)]; simp [decode32]

theorem xlw (p : _) (t : _) (s : _) (x : _) : Statement (.xlw p t s x) := by
  intro w h; cases Option.some.inj h; rw [decode_32 _ (wordX_26_6 ..)]; simp [decode32]

theorem kill (p : _) (s : _) : Statement (.kill p s) := by
  intro w h; cases Option.some.inj h; rw [decode_32 _ (wordX_26_6 ..)]; simp [decode32]

theorem parkq (p : _) (t : _) (s : _) : Statement (.parkq p t s) := by
  intro w h; cases Option.some.inj h; rw [decode_32 _ (wordX_26_6 ..)]; simp [decode32]

theorem unpark (p : _) (s : _) : Statement (.unpark p s) := by
  intro w h; cases Option.some.inj h; rw [decode_32 _ (wordX_26_6 ..)]; simp [decode32]

theorem ctrclm (p : _) (t : _) (s : _) : Statement (.ctrclm p t s) := by
  intro w h; cases Option.some.inj h; rw [decode_33 _ (wordX_26_6 ..)]; simp [decode33]

theorem ctrrel (p : _) (s : _) : Statement (.ctrrel p s) := by
  intro w h; cases Option.some.inj h; rw [decode_33 _ (wordX_26_6 ..)]; simp [decode33]

theorem ctrcfg (p : _) (s : _) (x : _) : Statement (.ctrcfg p s x) := by
  intro w h; cases Option.some.inj h; rw [decode_33 _ (wordX_26_6 ..)]; simp [decode33]

theorem ctrrdLo (p : _) (t : _) (s : _) : Statement (.ctrrdLo p t s) := by
  intro w h; cases Option.some.inj h; rw [decode_33 _ (wordX_26_6 ..)]; simp [decode33]

theorem ctrrdHi (p : _) (t : _) : Statement (.ctrrdHi p t) := by
  intro w h; cases Option.some.inj h; rw [decode_33 _ (wordX_26_6 ..)]; simp [decode33]

theorem enrd (p : _) (t : _) : Statement (.enrd p t) := by
  intro w h; cases Option.some.inj h; rw [decode_33 _ (wordX_26_6 ..)]; simp [decode33]

theorem himm (i : _) : Statement (.himm i) := by
  intro w h; cases Option.some.inj h; rw [decode_3F _ (wordH_26_6 ..)]; simp [decode3F]

theorem hstall (g : _) (w : _) (s : _) : Statement (.hstall g w s) := by
  intro w h; cases Option.some.inj h; rw [decode_3F _ (wordHstall_26_6 ..)]; simp [decode3F]

theorem hmod (o : _) (c : _) (s : _) (v : _) (m : _) : Statement (.hmod o c s v m) := by
  intro w h; cases Option.some.inj h; rw [decode_3F _ (wordHmod_26_6 ..)]; simp [decode3F]

theorem hcoord (w : _) (z : _) (y : _) (x : _) : Statement (.hcoord w z y x) := by
  intro w h; cases Option.some.inj h; rw [decode_3F _ (wordHcoord_26_6 ..)]; simp [decode3F]

theorem loadResponse (a : _) : Statement (.loadResponse a) := nofun

theorem umberGroupExecute (a : _) : Statement (.umberGroupExecute a) := nofun

theorem sinkGroupResponse (a : _) : Statement (.sinkGroupResponse a) := nofun

theorem storeAcknowledge (a : _) : Statement (.storeAcknowledge a) := nofun

theorem atomicCompletion (a : _) : Statement (.atomicCompletion a) := nofun

theorem directoryInvalidate (a : _) (b : _) (c : _) : Statement (.directoryInvalidate a b c) := nofun

theorem ltimeTick (a : _) : Statement (.ltimeTick a) := nofun

theorem lrReservationExpiry (a : _) (b : _) (c : _) (d : _) : Statement (.lrReservationExpiry a b c d) := nofun

theorem ownerTimeoutExpiry (a : _) (b : _) (c : _) : Statement (.ownerTimeoutExpiry a b c) := nofun

theorem orphanDetection (a : _) (b : _) : Statement (.orphanDetection a b) := nofun

theorem trailingLagTimeout (a : _) (b : _) (c : _) : Statement (.trailingLagTimeout a b c) := nofun

theorem handlerEntry (a : _) (b : _) : Statement (.handlerEntry a b) := nofun

theorem faultResumeAnswer (a : _) : Statement (.faultResumeAnswer a) := nofun

theorem faultKillAnswer (a : _) : Statement (.faultKillAnswer a) := nofun

theorem pageWalkDone (a : _) (b : _) : Statement (.pageWalkDone a b) := nofun

theorem invalidationCommand (a : _) : Statement (.invalidationCommand a) := nofun

theorem codePageHashDone (a : _) (b : _) (c : _) : Statement (.codePageHashDone a b c) := nofun

theorem engineUnit (a : _) : Statement (.engineUnit a) := nofun

theorem enginePageAnswer (a : _) (b : _) : Statement (.enginePageAnswer a b) := nofun

theorem engineCommandEnd (a : _) : Statement (.engineCommandEnd a) := nofun

theorem mmldBankValid (a : _) : Statement (.mmldBankValid a) := nofun

theorem bindBlock (a : _) (b : _) : Statement (.bindBlock a b) := nofun

theorem bindRungWarp (a : _) (b : _) : Statement (.bindRungWarp a b) := nofun

theorem bindResumeSnapshot (a : _) (b : _) : Statement (.bindResumeSnapshot a b) := nofun

theorem bankSwitch (a : _) (b : _) : Statement (.bankSwitch a b) := nofun

theorem dispatchStart (a : _) : Statement (.dispatchStart a) := nofun

theorem rootLaunch (a : _) : Statement (.rootLaunch a) := nofun

theorem villekPlacement (a : _) (b : _) (c : _) (d : _) (e : _) (f : _) : Statement (.villekPlacement a b c d e f) := nofun

theorem priorityAgeing (a : _) : Statement (.priorityAgeing a) := nofun

theorem limitCheck (a : _) : Statement (.limitCheck a) := nofun

theorem blockCompletion (a : _) : Statement (.blockCompletion a) := nofun

theorem ladderStarvation (a : _) (b : _) : Statement (.ladderStarvation a b) := nofun

theorem ladderWarpLaunch (a : _) (b : _) (c : _) (d : _) (e : _) : Statement (.ladderWarpLaunch a b c d e) := nofun

theorem ladderFrameTimeout (a : _) (b : _) (c : _) : Statement (.ladderFrameTimeout a b c) := nofun

theorem ashSpillDone (a : _) (b : _) : Statement (.ashSpillDone a b) := nofun

theorem restoreRequest (a : _) (b : _) (c : _) (d : _) (e : _) (f : _) : Statement (.restoreRequest a b c d e f) := nofun

theorem migrationStop (a : _) : Statement (.migrationStop a) := nofun

theorem worldSwitch (a : _) (b : _) (c : _) : Statement (.worldSwitch a b c) := nofun

theorem counterSteal (a : _) (b : _) : Statement (.counterSteal a b) := nofun

theorem counterReturn (a : _) (b : _) : Statement (.counterReturn a b) := nofun

theorem calendarWrite (a : _) (b : _) : Statement (.calendarWrite a b) := nofun

theorem calendarAdopt (a : _) : Statement (.calendarAdopt a) := nofun

theorem patrolScrub (a : _) (b : _) (c : _) : Statement (.patrolScrub a b c) := nofun

theorem deviceReset : Statement (.deviceReset) := nofun

theorem dieReset (a : _) : Statement (.dieReset a) := nofun

theorem heartbeatSend : Statement (.heartbeatSend) := nofun

theorem heartbeatMiss (a : _) (b : _) : Statement (.heartbeatMiss a b) := nofun

theorem fenceDirectoryScrub (a : _) : Statement (.fenceDirectoryScrub a) := nofun

theorem fabricPacketReceive (a : _) (b : _) (c : _) (d : _) : Statement (.fabricPacketReceive a b c d) := nofun

theorem fabricAckReceive (a : _) (b : _) : Statement (.fabricAckReceive a b) := nofun

theorem fabricCompletionReceive (a : _) (b : _) (c : _) : Statement (.fabricCompletionReceive a b c) := nofun

theorem portFail (a : _) : Statement (.portFail a) := nofun

theorem linkRetrainDone (a : _) : Statement (.linkRetrainDone a) := nofun

theorem linkRetrainRequest (a : _) (b : _) : Statement (.linkRetrainRequest a b) := nofun

theorem portStatusRefresh (a : _) : Statement (.portStatusRefresh a) := nofun

theorem portWarnClear (a : _) (b : _) : Statement (.portWarnClear a b) := nofun

theorem rdmaSend (a : _) (b : _) : Statement (.rdmaSend a b) := nofun

theorem rdmaSendImmediate (a : _) (b : _) (c : _) : Statement (.rdmaSendImmediate a b c) := nofun

theorem rdmaWrite (a : _) (b : _) : Statement (.rdmaWrite a b) := nofun

theorem rdmaWriteImmediate (a : _) (b : _) (c : _) : Statement (.rdmaWriteImmediate a b c) := nofun

theorem rdmaRead (a : _) (b : _) : Statement (.rdmaRead a b) := nofun

theorem rdmaCompareSwap (a : _) (b : _) (c : _) : Statement (.rdmaCompareSwap a b c) := nofun

theorem rdmaFetchAdd (a : _) (b : _) : Statement (.rdmaFetchAdd a b) := nofun

theorem ecnMark (a : _) : Statement (.ecnMark a) := nofun

theorem powerOn (a : _) (b : _) : Statement (.powerOn a b) := nofun

theorem bootRetry (a : _) : Statement (.bootRetry a) := nofun

theorem attestationQuote (a : _) : Statement (.attestationQuote a) := nofun

theorem measurementExtend (a : _) (b : _) : Statement (.measurementExtend a b) := nofun

theorem telemetryReport (a : _) (b : _) : Statement (.telemetryReport a b) := nofun

theorem clockGovern (a : _) : Statement (.clockGovern a) := nofun

theorem stopRequest (a : _) : Statement (.stopRequest a) := nofun

theorem stopResume : Statement (.stopResume) := nofun

theorem energyWeightWrite (a : _) (b : _) (c : _) : Statement (.energyWeightWrite a b c) := nofun

theorem registerWrite (a : _) : Statement (.registerWrite a) := nofun

theorem systemCoreMemoryAccess (a : _) (b : _) : Statement (.systemCoreMemoryAccess a b) := nofun

theorem pcieDmaAccess (a : _) : Statement (.pcieDmaAccess a) := nofun

theorem heartbeatReceive (a : _) (b : _) : Statement (.heartbeatReceive a b) := nofun

theorem peerReadmission (a : _) : Statement (.peerReadmission a) := nofun

theorem residenceEnergyCharge (a : _) : Statement (.residenceEnergyCharge a) := nofun

theorem execTimeCharge (a : _) : Statement (.execTimeCharge a) := nofun

end Sys2Proof.Laws.Encoding
end

