-- ==== Sys2Proof/Tests/Slice0.lean ====
section
/-! SUPPORT. Small tests: ill-formed terms that WellFormed refuses, words that the spec writes out, the spec's worked
values, one fetched step, and for each statement a state and operands that meet its hypotheses. -/

open Sys2Proof Sys2Proof.Machine Sys2Proof.Claims

namespace Sys2Proof.Tests

set_option Elab.async false

/-! ## Ill-formed terms -/

/-- Register codes and groups (04 R89): reserved codes, latches and ZERO as destinations, groups past v55. -/
theorem test_illFormed_registers :
    [Instr.iadd 7 58 1 2 0, .iadd 7 60 1 2 0, .iadd 7 56 1 2 0, .iadd 7 1 58 2 0, .iadd 7 1 2 59 0, .iadd64 7 55 0 2,
     .iadd64 7 0 55 2, .iadd64 7 0 57 2, .ldB32 7 56 1 0, .ldB32 7 1 56 0, .ldB64 7 55 1 0, .ldB128 7 53 1 0,
     .stB128 7 57 1 0, .stB32 7 58 1 0, .redAddI32 7 58 0 0].all (fun i => !i.wellFormed) = true := by decide

theorem test_illFormed_registers_more :
    [Instr.ldsB64Row 7 55 1 0, .stsB128Row 7 54 1 0, .atomCas 7 55 1 0, .atomAdd 7 56 1 0, .atomsCas 7 55 1 0, .scB32 7 57 0 0,
     .mmaF16 7 53 0 8, .mmaF16 7 0 53 8, .mmaF16 7 0 8 55, .mmaI8 7 0 55 8, .mmaI8 7 0 8 56, .v2s 7 0 58,
     .exit 7 58, .brx 7 59].all (fun i => !i.wellFormed) = true := by decide

/-- NW with a destination (04 R90), predicate destinations (R91), conversion codes and roundings (03 R72). -/
theorem test_illFormed_codes :
    [Instr.iadd 7 1 2 3 1, .sel 7 1 2 3 1 0, .isetEq 7 3 0 1 2, .isetEq 7 0 7 1 2, .fsetLt 7 0 7 1 2, .cvt 7 1 2 0x0E 0 0,
     .cvt 7 1 2 0x1C 0 0, .cvt 7 1 2 0x2F 0 0, .cvt 7 1 2 0x3A 0 0, .cvt 7 1 2 0x00 0 6, .voteAny 7 3 0 1, .elect 7 0 7,
     .sbr 7 0 0 0, .sbr 6 1 0 0, .jmovf 7 3 3 0, .loop 0 4 0, .loopi 0 3 0].all (fun i => !i.wellFormed) = true := by decide

/-- Small operands: scopes, group sizes and limits, view words, engine resume operands, register pairs, fields,
special registers (07 R175, R176, R162; 08 R187; 09 R217, R219, R222 to R225, R233). -/
theorem test_illFormed_operands :
    [Instr.fenceAcq 7 6, .fenceSc 7 15, .gbegin 7 0 1, .gbegin 7 0 9, .gbegin 7 4 2, .viewf 7 1 15, .viewf 7 0 3, .viewp 7 0 0 0 15,
     .cpy 7 0 0 1 0, .mmrun 7 0 0 1 0, .rede 7 0 0 1 0, .lesc 7 0 9, .linfo 7 0 0 7, .rquery 7 0 0 0 7, .dqpop 7 31,
     .srd 7 0 0x17, .swr 7 0x15 0, .enrd 7 31].all (fun i => !i.wellFormed) = true := by decide

/-! ## Words of the spec -/

/-- What the decoder reads from the bytes of a word. -/
noncomputable def dec (w : Nat) : Option Instr := decodeTableWord 32 w

/-- Integer, float, conversion, lane and scalar words (06, "Worked encodings"; 04 R101). -/
theorem test_decode_compute :
    [dec 0x01C70833, dec 0x15C51872, dec 0x1DD12201, dec 0x1DD23C01, dec 0x21C91053, dec 0x35C61C24,
     dec 0x41CA24B1, dec 0x45C80F86, dec 0x49C85300, dec 0xBDD00080, dec 0x25C330B2, dec 0x11D32380,
     dec 0x4DCC4FFF, dec 0x59C80004, dec 0x20C530B1]
    = [some (.imad 7 7 2 3 0), some (.sel 7 5 6 7 0 2), some (.andi 7 17 8 1), some (.shli 7 18 15 1), some (.ffma 7 9 4 5 0),
       some (.cvt 7 6 7 0x02 0 4), some (.shflXor 7 10 9 11 0), some (.v2s 7 8 3), some (.sadd 4 5 6), some (.mmaF16 7 16 0 8),
       some (.fsetLt 7 0 3 12 11), some (.isetEq 7 2 3 8 56), some (.saddi 6 4 0xFFF), some (.smovi 4 4), some (.fsub 3 5 12 11 0)] := by
  decide +kernel

/-- Control words (05 R112 to R131). -/
theorem test_decode_control :
    [dec 0x61C00004, dec 0x60800004, dec 0x55800FFD, dec 0x54CC7FFF, dec 0x69F8E382, dec 0x69F80383,
     dec 0x69F8E385, dec 0x69F85386, dec 0x6DC00022, dec 0x6DC0A5B8, dec 0x71C40003, dec 0x75E01802,
     dec 0x79C00010]
    = [some (.bra 7 4), some (.bra 2 4), some (.sbr 6 0 0 0xFFD), some (.sbr 3 6 7 0xFFF), some (.ret 7), some (.exit 7 0),
       some (.nop 7), some (.nextSeg 7 20), some (.jwait 7 2), some (.jmovf 7 10 11 8), some (.loop 0 4 3), some (.loopi 1 3 2),
       some (.barArv 7 0)] := by
  decide +kernel

/-- Memory words (07 R162 to R178). -/
theorem test_decode_memory :
    [dec 0x81CC200C, dec 0x81C30027, dec 0x85C62012, dec 0xA5C32015, dec 0x8DD32018, dec 0x89D4201B,
     dec 0xA5F82023, dec 0x95C62021, dec 0x99C22020, dec 0x9DC52018, dec 0xA1C00012, dec 0xA9C00103,
     dec 0xA9C00010, dec 0xADC05000, dec 0xADCC5392]
    = [some (.ldB32 7 12 8 1), some (.ldcB32 7 3 0 4), some (.stB32 7 6 8 2), some (.ldntB32 7 3 8 2), some (.stsB32Row 7 19 8 3),
       some (.ldsB64Col 7 20 8 3), some (.cinv 7 8 4), some (.atomCas 7 6 8 4), some (.redAddI32 7 2 8 4), some (.atomsAdd 7 5 8 3),
       some (.fenceRel 7 2), some (.gbegin 7 2 3), some (.gend 7), some (.viewf 7 5 0), some (.viewp 7 6 5 7 2)] := by
  decide +kernel

/-- Engine words (08 R185, R196). -/
theorem test_decode_engines :
    [dec 0xB1D24281, dec 0xB1D24010, dec 0xB9D24000, dec 0xB9D44010, dec 0xB9D663A1, dec 0xB9DA4050,
     dec 0xB5C04290, dec 0xB5D84020]
    = [some (.cpy 7 9 4 5 1), some (.cpyaF32 7 9 4 0 0), some (.csld 7 9 4 0 0), some (.mmld 7 10 4), some (.mmrun 7 11 6 7 1),
       some (.rede 7 13 4 0 0), some (.ownT 7 4 5), some (.ownq 7 12 4)] := by
  decide +kernel

/-- System words and hints (09 R213 to R234). -/
theorem test_decode_system :
    [dec 0xC1C04000, dec 0xC1CA4301, dec 0xC1C40013, dec 0xC1C80030, dec 0xC1D04045, dec 0xC5D24280,
     dec 0xC5D44295, dec 0xC5C042B0, dec 0xC5D0B050, dec 0xC5C161E0, dec 0xC9C00003, dec 0xC9C00011,
     dec 0xC9D09520, dec 0xCDC09520, dec 0xCDD80050, dec 0xFC000040, dec 0xFC400042, dec 0xFC800015,
     dec 0xFCC00001]
    = [some (.ladrLane 7 0 4), some (.ladrRange 7 5 4 6), some (.lesc 7 2 3), some (.lfrm 7 4), some (.linfo 7 8 4 5),
       some (.rlaunch 7 9 4 5 0), some (.rquery 7 10 4 5 5), some (.dqpush 7 4 5), some (.srd 7 8 0x0B), some (.swr 7 0x16 3),
       some (.trap 7 3), some (.rte 7 1), some (.xlr 7 8 9 10), some (.ctrcfg 7 9 10), some (.enrd 7 12), some (.himm 0x40),
       some (.hstall 0 1 2), some (.hmod 0 1 0 1 1), some (.hcoord 0 0 0 1)] := by
  decide +kernel

/-! ## The spec's worked values -/

/-- 06, worked values of the integer words, and PRMT's example. -/
theorem test_integer_values :
    satI32 ((0x7FFFFFF0 : Word).toInt + (0x20 : Word).toInt) = 0x7FFFFFFF ∧ bfeW true 0x00000F00 0x00000408 = 0xFFFFFFFF
    ∧ sarW 0x80000000 40 = 0xFFFFFFFF ∧ (prmtW 0x11223380 0 0x80044000).extractLsb' 0 16 = 0x0080 := by decide

/-- 03 R73, worked conversions of F32 sources: 300.0, 500.0 plain and saturating, 200.7 to I8. -/
theorem test_conversion_values :
    (cvtOp 0x02 0 0x43960000).1 = 0x79 ∧ (cvtOp 0x02 0 0x43FA0000).1 = 0x7F ∧ (cvtOp 0x02 4 0x43FA0000).1 = 0x7E
    ∧ (cvtOp 0x24 0 0x4348B333).1 = 0x7F ∧ (cvtOp 0x24 1 0xC348B333).1 = 0xFFFFFF80 := by decide +kernel

/-- 03 R80, the worked tree: 2^-24, 1.0, 2^-24, 2^-24. -/
theorem test_tree_sum : (reduxF32 {} [0x33800000, 0x3F800000, 0x33800000, 0x33800000]).1 = 0x3F800001 := by decide +kernel

/-! ## A fetched step -/

/-- A block of one warp at PC 0 of the words, its lanes about to act. -/
def warpAt (words : Nat) (n : Nat := 1) : State :=
  { State.reset.withFetchWord (32 * n) words with cur := some { block := 1, unit := .warp 0, lanes := 0xFFFFFFFF } }

/-- What a warp's scalar register holds after one step from the placed word. -/
noncomputable def stepScalar (w k : Nat) : Option Word :=
  match step (State.reset.withFetchWord 32 w) with
  | .next s => (s.unit? 1 (.warp 0)).map (fun w => w.s.getD 0 k)
  | _ => none

/-- 04, "Worked encodings": SMOVI s4, 4. -/
theorem test_step_smovi : stepScalar 0x59C80004 4 = some 4 := by decide +kernel

/-- What a lane's vector register holds after an instruction of the warp. -/
noncomputable def execVector (i : Instr) (s : State) (l r : Nat) : Option Word :=
  match exec i s with
  | .next t => (t.unit? 1 (.warp 0)).map (fun w => (w.lane l).reg r)
  | _ => none

/-- 04 R83, R89: IADDI v2, LANE, -1 in lane 0 wraps. -/
theorem test_exec_iaddi : execVector (.iaddi 7 2 57 0x3FF) (warpAt 0x69F8E383) 0 2 = some 0xFFFFFFFF := by decide +kernel

/-- 06 R150: BALLOT of LANE, nonzero in all lanes but lane 0. -/
theorem test_exec_ballot : execVector (.ballot 7 3 57 0) (warpAt 0x69F8E383) 5 3 = some 0xFFFFFFFE := by decide +kernel

/-- What the cause of lane 0's parking is after an instruction of the warp. -/
noncomputable def execCause (i : Instr) (s : State) : Option Nat :=
  match exec i s with
  | .next t => (t.unit? 1 (.warp 0)).bind (fun w => (w.lane 0).park.map Park.cause)
  | _ => none

/-- 04 R102 and 14 R334: an illegal register code raises cause 0x01; TRAP raises cause 0x14. -/
theorem test_exec_illegal : execCause (.iadd 7 58 0 0 0) (warpAt 0x69F8E383) = some 0x01 := by decide +kernel
theorem test_exec_trap : execCause (.trap 7 3) (warpAt 0x69F8E383) = some 0x14 := by decide +kernel

/-! ## Witnesses: every hypothesis of a statement is met by some state and operands -/

/-- `Ready`, decided. -/
def readyB (s : State) (a : Attr) (extra stall : Iss → State → Bool) : Bool :=
  match s.issuer a.p with
  | none => false
  | some i =>
    (!i.reissues && i.act != 0 && i.legal a && !a.first i s && !i.tokenStall a s && extra i s && (!a.noEnd || i.badEnd == none))
      && ((match s.ahead i with
          | (.words ws, u) => decide (u = s) && !i.latchBreach a (i.chainWith a ws).2
          | _ => false)
      && (!i.readsFlaw a && !i.logStall a && !stall i s && (!a.commits || !i.commitStall) && !i.r.check && !i.trailing))

theorem ready_of_readyB {s : State} {a : Attr} {extra stall : Iss → State → Bool} (h : readyB s a extra stall = true) :
    ∃ i ws, Ready s a i extra stall ws := by
  unfold readyB at h
  split at h
  · cases h
  · next i hi =>
    simp only [Bool.and_eq_true] at h
    obtain ⟨⟨⟨⟨⟨⟨⟨h0, h1⟩, h2⟩, h3⟩, h4⟩, h5⟩, h6⟩, h7, ⟨⟨⟨⟨⟨h8, h9⟩, h10⟩, h11⟩, h12⟩, h13⟩⟩ := h
    split at h7
    · next ws u hw =>
      simp only [Bool.and_eq_true, decide_eq_true_eq] at h7
      obtain ⟨rfl, h7⟩ := h7
      exact ⟨i, ws, hi, by simpa using h0, by simpa using h1, h2, by simpa using h3, by simpa using h4, h5, fun hn => by simpa [hn] using h6, hw,
        by simpa using h7, by simpa using h8, by simpa using h9, by simpa using h10, fun hn => by simpa [hn] using h11,
        by simpa using h12, by simpa using h13⟩
    · cases h7

/-- `Judged`, decided. -/
def judgedB (s : State) (a : Attr) : Bool :=
  match s.issuer a.p with
  | none => false
  | some i => i.act != 0 && !i.trailing && !i.lagStall a && !i.reissues && (match s.ahead i with
      | (.words _, u) => decide (u = s)
      | _ => false)

theorem judged_of_judgedB {s : State} {a : Attr} (h : judgedB s a = true) : ∃ i ws, Judged s a i ws := by
  unfold judgedB at h
  split at h
  · cases h
  · next i hi =>
    simp only [Bool.and_eq_true] at h
    obtain ⟨⟨⟨⟨h1, h2⟩, h3⟩, h0⟩, h4⟩ := h
    split at h4
    · next ws u hw =>
      obtain rfl := of_decide_eq_true h4
      exact ⟨i, ws, hi, by simpa using h1, by simpa using h2, hw, by simpa using h3, by simpa using h0⟩
    · cases h4

/-- Some word that is ready: the hypothesis of the statements about issued words. -/
def CanIssue (a : State → Attr) (extra stall : Iss → State → Bool) : Prop :=
  ∃ s i ws, Ready s (a s) i extra stall ws

theorem canIssue {a : State → Attr} {extra stall : Iss → State → Bool} (s : State)
    (h : readyB s (a s) extra stall = true) : CanIssue a extra stall :=
  ⟨s, ready_of_readyB h⟩

/-- The warp before an EXIT; a front thread; either with its block changed. -/
def w0 : State := warpAt 0x69F8E383
def front0 : State :=
  { w0.modBlock 1 (fun b => { b with ctx := { b.ctx with front := { lanes := [{}] } } }) with
    cur := some { block := 1, unit := .front, lanes := 1 } }
def warpB (f : Block → Block) : State := w0.modBlock 1 f
def warpW (f : Warp → Warp) : State := w0.modUnit 1 (.warp 0) f

theorem test_witness_IntegerResults : integerRows.all (fun r => readyB w0 (r.1.attr 7 1 2 3 0) always never) = true := by
  decide +kernel

theorem test_witness_FloatResults : floatRows.all (fun r => readyB w0 (r.1.attr 7 1 2 3 0) always never) = true := by
  decide +kernel

/-- Both immediate formats, at the extremes of destination and source codes. -/
theorem test_witness_ImmediateResults :
    ([(0x06, 0, true), (0x07, 0, false), (0x07, 6, false)] : List (Nat × Nat × Bool)).all (fun x =>
      [(0, 0), (55, 57)].all (fun (y : BitVec 6 × BitVec 6) => readyB w0
        { maj := x.1, fn := x.2.1, cls := 0, p := some 7, legal := dst y.1 && src y.2, rv := [y.2], wv := codesToRegs [y.1],
          himm := x.2.2, value := true } always never)) = true := by
  decide +kernel

/-- A pair at the top of the registers; a pair past v55; a word with NW = 1. -/
theorem test_witness_PairResults :
    ([6, 7].all (fun n => readyB w0 (pairAttr n 7 54 54 56) always never)) = true
    ∧ judgedB w0 (pairAttr 6 7 55 0 0) = true ∧ judgedB w0 (pairAttr 7 7 55 0 0) = true ∧ judgedB w0 (badAttr 0x05C0000E) = true
    ∧ ¬((55 : BitVec 6).toNat + 2 ≤ 56 ∧ ((0 : BitVec 6).toNat + 2 ≤ 56 ∨ (0 : BitVec 6) = 56)
        ∧ ((0 : BitVec 6).toNat + 2 ≤ 56 ∨ (0 : BitVec 6) = 56))
    ∧ fld (0x05C0000E : Word) 26 6 = 0x01 ∧ fld (0x05C0000E : Word) 0 3 = 6 ∧ fld (0x05C0000E : Word) 3 1 = 1 := by
  decide +kernel

theorem test_witness_CompareResults :
    compareRows.all (fun r => readyB w0 (predAttr r.1.maj r.1.fn r.1.cls 7 0 6 [1, 2]) always never) = true := by
  decide +kernel

theorem test_witness_SelectedResults :
    readyB w0 { vecAttr 0x03 6 0 7 1 2 3 0 true with rs := [31] } always never = true
    ∧ readyB w0 { vecAttr 0x05 7 0 7 1 2 3 0 false with rp := [7] } always never = true
    ∧ readyB w0 { vecAttr 0x0D 5 3 7 1 2 56 0 false with
        legal := dstNw 1 0 && src 2 && cvtCode 0x39 && decide ((5 : BitVec 3).toNat < 6) } always never = true := by
  decide +kernel

theorem test_witness_LaneResults :
    ([(0x10, 0), (0x10, 1), (0x10, 2), (0x10, 3), (0x10, 6), (0x10, 7), (0x11, 0), (0x11, 1), (0x11, 2), (0x11, 3)].all
      (fun (x : Nat × Nat) => readyB w0 (laneAttr x.1 x.2 7 1 2 3 0) always never)) = true
    ∧ readyB w0 { laneAttr 0x11 5 7 1 56 56 0 with rs := [31] } always never = true := by
  decide +kernel

theorem test_witness_LanePredicates :
    readyB w0 (predAttr 0x10 4 4 7 0 6 [1]) always never = true ∧ readyB w0 (predAttr 0x10 5 4 7 2 0 [57]) always never = true
    ∧ readyB w0 (predAttr 0x11 4 4 7 1 3 []) always never = true := by
  decide +kernel

theorem test_witness_ScalarResults :
    scalarRows.all (fun r => readyB w0 (scalAttr r.2.1 r.2.2.1 false 4 [5, 31]) always never) = true
    ∧ readyB front0 (scalAttr 0x14 5 false 4 [5]) always never = true
    ∧ readyB w0 (scalAttr 0x13 0 true 4 [5]) (fun i _ => i.h.himm.isNone || decide ((0xFFF : BitVec 12).toNat < 2 ^ 10)) never
      = true
    ∧ readyB w0 { maj := 0x11, fn := 6, cls := 4, p := some 7, legal := src 57, rv := [57], ws := [8] } always never = true := by
  decide +kernel

theorem test_witness_FragmentResults :
    [(0, 16), (1, 16), (2, 8), (3, 8), (4, 8)].all (fun (x : Nat × Nat) =>
      readyB w0 (fragAttr x.1 x.2 7 16 0 8) (fun i _ => i.act == 0xFFFFFFFF) never) = true := by
  decide +kernel

/-- Every branch form on a word with an aligned target outside any loop; SBR taken and not taken. -/
theorem test_witness_BranchTargets :
    ([ctlAttr 0x18 0 7 56 false true, ctlAttr 0x1A 0 7 1 false false, { ctlAttr 0x1A 2 7 56 true false with rr := [55] },
      { ctlAttr 0x19 0 7 56 true false with wv := [55] }, { ctlAttr 0x1A 1 7 1 true false with wv := [55] },
      sbrAttr 6 0 0, sbrAttr 1 4 5, sbrAttr 0 4 5].all (fun a => readyB w0 a always never)) = true
    ∧ (w0.issuer none).map (fun i => (i.target (0x3FFFFF : BitVec 22) % 4, ((i.op 31 1).1.toNat % 4 : Nat),
        (lanesOf i.act).all (fun l => i.backIn l (i.target (4 : BitVec 22)) == none && i.backIn l 0 == none)))
      = some (0, 0, true) := by
  decide +kernel

theorem test_witness_FlowEffects :
    readyB w0 { ctlAttr 0x1A 3 7 56 false true with
      rv := [0], serial := true, cmp := some (fun i _ => (lanesOf i.act).map (fun l => (i.status l 0).toNat)) }
      (fun i _ => if i.front then decide ((0 : BitVec 6).toNat < 32) || (0 : BitVec 6) == 56 else src 0)
      (fun i _ => i.statusStall 0) = true
    ∧ readyB front0 (ctlAttr 0x1A 4 7 56 false true) always never = true
    ∧ readyB w0 (ctlAttr 0x1A 5 7 56 false true) always never = true
    ∧ readyB w0 { ctlAttr 0x1A 7 7 56 false true with mirror := false } always never = true
    ∧ readyB w0 (sysAttr 0x32 0 7 true) always never = true
    ∧ readyB w0 { ctlAttr 0x1A 6 7 57 true false with mirror := false } always (fun i _ =>
        ((lanesOf i.act).map (fun l => (l, (i.op l 57).1.toNat))).any (fun e => decide (e.2 < i.r.segCnt)
          && i.readWaits e.1 (i.r.segBase + 4 * e.2) 4)) = true := by
  decide +kernel

theorem test_witness_RejoinSets :
    [setAttr 0 7, setAttr 1 7, { setAttr 2 7 with serial := true, noEnd := true },
      { setAttr 3 7 with legal := (10 : BitVec 5) != 11, ws := [10, 11] }, { setAttr 4 7 with rs := [10, 11] }, setAttr 5 7].all
      (fun a => readyB w0 a (fun i _ => decide ((15 : BitVec 4).toNat < i.r.setLim)) never) = true := by
  decide +kernel

/-- The longest body of LOOP, whose end page is fetched, and the shortest of LOOPI. -/
theorem test_witness_LoopWords :
    ([(0x1C, 4095, [4]), (0x1D, 1, [])] : List (Nat × Nat × List Nat)).all (fun y => match w0.issuer none with
      | none => false
      | some i => match w0.skipHints i.core i.b.regid i.r 8 ((i.pc + 4 * y.2.1) % 2 ^ 32) with
        | (_, held, u) => readyB u { maj := y.1, legal := y.2.1 != 0, rs := y.2.2, noEnd := true } always (fun _ _ => held))
      = true := by
  decide +kernel

theorem test_witness_BarrierWords :
    readyB w0 (barAttr 0 7 true) always never = true
    ∧ readyB front0 (barAttr 1 7 true) always never = true
    ∧ readyB w0 (barAttr 2 7 true) always never = true
    ∧ readyB w0 { barAttr 3 7 false with rs := [4] } (fun i _ => decide ((i.s 4).toNat ≤ 17)) never = true := by
  decide +kernel

/-- One word of each kind, at the last view. -/
theorem test_witness_MemoryWords :
    let e := fun (a : State → Attr) => readyB w0 (a w0) (fun _ s => coordsFit 8 (s.rankOf 127 8)) (fun i _ => i.b.commitDue && i.w.hints.isEmpty)
    loadRows.all (fun r => e (fun s => { memAttr r.2.1 r.2.2.1 7 (run 12 (max 1 (r.2.2.2.1 / 4))) 8 (s.rankOf 127 8) with
      wv := regRun 12 (max 1 (r.2.2.2.1 / 4)), value := true, outs := (regRun 12 (max 1 (r.2.2.2.1 / 4))).map Out.v })) = true
    ∧ storeRows.all (fun r => e (fun s => storing { memAttr r.2.1 r.2.2.1 7 (data 12 r.2.2.2.2.1) 8 (s.rankOf 127 8) with
      rv := dataCodes 12 r.2.2.2.2.1, rr := coordRun 8 (s.rankOf 127 8) ++ dataRegs 12 r.2.2.2.2.1 } (.store r.2.2.2.1) 0 127 8 (s.rankOf 127 8)
      (storeData 12 r.2.2.2.2.1))) = true
    ∧ atomRows.all (fun r => e (fun s => atomAttr r.2.1 r.2.2.1 r.2.2.2.1 r.2.2.2.2 7 12 8 127 (s.rankOf 127 8))) = true
    ∧ redRows.all (fun r => e (fun s =>
        storing { memAttr 0x26 r.2.1 7 (data 12 1) 8 (s.rankOf 127 8) with rv := [12] } (.red r.2.2) 0 127 8 (s.rankOf 127 8)
          (storeData 12 1))) = true
    ∧ [2, 3, 4].all (fun n => e (fun s =>
        { memAttr 0x29 n 7 true 8 (s.rankOf 127 8) with serial := true, ordered := true })) = true := by
  decide +kernel

theorem test_witness_ScratchpadWords :
    let e := fun (a : State → Attr) (m : State → MemIss) =>
      let x : MemIss := { m w0 with rank := w0.rankOf 3 8 }
      readyB w0 { a w0 with
        cls := 11
        onStall := fun i u => u.noteOwner i (some x.view) (u.ownedLanes i x) }
        (fun _ s => coordsFit 8 (s.rankOf 3 8)) (fun i s => (i.b.commitDue && i.w.hints.isEmpty) || !(s.ownedLanes i x).isEmpty)
    ldsRows.all (fun r => e (fun s => { memAttr 0x22 r.2.1 7 (run 12 (max 1 (r.2.2.1 / 4))) 8 (s.rankOf 3 8) with
        wv := regRun 12 (max 1 (r.2.2.1 / 4)), value := true, outs := (regRun 12 (max 1 (r.2.2.1 / 4))).map Out.v })
      (fun _ => { op := .lds r.2.2.1, d := 12, dir := r.2.2.2, view := 3, c := 8, data := noData })) = true
    ∧ stsRows.all (fun r => e (fun s => storing { memAttr 0x23 r.2.1 7 (data 12 r.2.2.2.1) 8 (s.rankOf 3 8) with
        rv := dataCodes 12 r.2.2.2.1, rr := coordRun 8 (s.rankOf 3 8) ++ dataRegs 12 r.2.2.2.1 } (.sts r.2.2.1) r.2.2.2.2 3 8
          (s.rankOf 3 8) (storeData 12 r.2.2.2.1))
      (fun _ => { op := .sts r.2.2.1, d := 12, dir := r.2.2.2.2, view := 3, c := 8, data := storeData 12 r.2.2.2.1 })) = true
    ∧ atomsRows.all (fun r => e (fun s => atomAttr 0x27 r.2.1 r.2.2.1 (.atoms r.2.2.2) 7 12 8 3 (s.rankOf 3 8))
      (fun _ => { op := .atoms r.2.2.2, d := 12, view := 3, c := 8, data := atomData 12 r.2.2.1 })) = true := by
  decide +kernel

theorem test_witness_PrefetchWords :
    [0, 1].all (fun n => readyB w0 { memAttr 0x29 n 7 true 8 (w0.rankOf 4 8) with logs := false }
      (fun _ s => coordsFit 8 (s.rankOf 4 8)) never) = true := by
  decide +kernel

/-- The narrowest and the widest scope. -/
theorem test_witness_FenceWords :
    [0, 1, 2, 3].all (fun fn => [0, 5].all (fun (e : BitVec 4) =>
      readyB w0 (orderAttr 0x28 fn 7 (decide (e.toNat < 6))) always never)) = true := by
  decide +kernel

theorem test_witness_ViewWords :
    readyB w0 { orderAttr 0x2B 0 7 true with rs := [5] } always never = true
    ∧ readyB w0 { orderAttr 0x2B 1 7 ((14 : BitVec 4) != 15) with
        rs := [5, 7], ws := [6], outs := [.s 6], cmp := some (fun i _ => [i.viewNo 5, 14, (i.s 7).toNat]) } always never = true
    ∧ readyB front0 { maj := 0x2B, fn := 2, p := some 7, legal := true, front := true, serial := true, rs := [5],
                      ws := [6], outs := [.s 6], mirror := false } always never = true := by
  decide +kernel

/-- GBEGIN 2, limit 3; LD.B32 v12, vw1[v8]; RED.ADD.I32 vw1[v8], v12; GEND; EXIT. -/
def sinkWords : Nat := 0xA9C00182 + 2 ^ 32 * 0x81CC200C + 2 ^ 64 * 0x99CC2008 + 2 ^ 96 * 0xA9C00010 + 2 ^ 128 * 0x69F8E383

/-- GBEGIN 2 of a GEND and an EXIT, which is ill formed; GBEGIN of a predicate that is false; its group. -/
def badGroup : Nat := 0xA9C00102 + 2 ^ 32 * 0xA9C00010 + 2 ^ 64 * 0x69F8E383

theorem test_witness_SinkGroups :
    let s := warpAt sinkWords 5
    let stall := fun (i : Iss) (s : State) => (i.b.commitDue && i.w.hints.isEmpty) || decide (Config.sinkEntries ≤ s.sinkLines i.core)
    (match s.issuer (some 7) with
      | none => false
      | some i => match s.fetchGroup i.core i.b.regid i.r 64 2 (nextPc i.pc) [] [] with
        | (.ok l _, u) => groupOk l && readyB u
            (groupAttr 7 true l (some (nextPc (s.groupEnd i.core i.b.regid i.r 64 2 (nextPc i.pc)).2.1))) always stall
        | _ => false) = true
    ∧ (let b := warpAt badGroup 3
       match b.issuer (some 7) with
        | none => false
        | some i => match b.fetchGroup i.core i.b.regid i.r 64 8 (nextPc i.pc) [] [] with
          | (.form, u) =>
            let gend := (b.groupEnd i.core i.b.regid i.r 64 8 (nextPc i.pc)).2.1
            (i.groupEnds gend).isNone && readyB u (groupAttr 7 true [] (some (nextPc gend))) always stall
          | _ => false) = true
    ∧ (match s.issuer (some 15) with
        | none => false
        | some i => match s.groupEnd i.core i.b.regid i.r 64 2 (nextPc i.pc) with
          | (.word _, _, u) => i.act == 0 && !i.r.check && !i.trailing && !i.reissues && decide (u = s) && (match u.ahead i with
            | (.words _, v) => decide (v = u)
            | _ => false)
          | _ => false) = true
    ∧ readyB w0 { maj := 0x2A, fn := 1, p := some 7, legal := true, serial := true } always never = true := by
  decide +kernel

theorem test_witness_EngineCommands :
    ([(0x2C, 0, .cpy), (0x2C, 1, .cpyaF32), (0x2C, 2, .cpyaF16), (0x2C, 3, .cpyg), (0x2E, 0, .csld), (0x2E, 1, .mmld),
      (0x2E, 2, .mmrun), (0x2E, 3, .mmdrain), (0x2E, 5, .rede)] : List (Nat × Nat × CmdOp)).all (fun x =>
      readyB front0 (engineAttr x.1 x.2.1 7 9 4 0 0) always
        (fun i s => s.paramOwned i 4 || s.queueFull i x.2.2 4)) = true := by
  decide +kernel

theorem test_witness_OwnerWords :
    readyB w0 (ownAttr 0 7 4 5) always never = true
    ∧ readyB w0 (ownAttr 1 7 4 5) always (fun i s => !i.tilesBad 4 5 && s.tilesBusy i (i.tiles 4 5)) = true
    ∧ readyB w0 { maj := 0x2D, fn := 2, p := some 7, legal := true, rs := [4], ws := [12], front := true,
                  serial := true, outs := [.s 12], mirror := false } always never = true := by
  decide +kernel

/-- A rung warp: the block stands in rung 0 of ladder 1, with one frame word and eight argument words. -/
def rung0 : State :=
  { (warpB (fun b => { b with rung := some (1, 0) })) with
    ladders := [(1, { die := 0, cluster := 0, part := 0, key := 0, hdie := 0, tracked := false, desc := 0 })] }

theorem test_witness_LadderWords :
    readyB w0 (ladrAttr 7 false [31] [4] (fun i => i.viewNo 4 :: (lanesOf i.act).map (fun l => ((i.w.lane l).reg 31).toNat)))
      always never = true
    ∧ readyB front0 (ladrAttr 7 true [] [5, 4, 6] (fun i => [i.viewNo 4, (i.s 5).toNat, (i.s 6).toNat])) always never = true
    ∧ readyB w0 { sysAttr 0x30 4 7 true with legal := true, rs := [4], ws := [8], outs := [.s 8] } always never = true
    ∧ (let regs := (List.range 8).map (2 + ·)
       readyB rung0 (rungAttr 1 7 (decide ((8 : BitVec 4).toNat < 9)) regs
        (fun i => 8 :: (lanesOf i.act).flatMap (fun l => regs.map (fun r => ((i.w.lane l).reg r).toNat)))) Iss.inRung never = true)
    ∧ readyB rung0 (rungAttr 2 7 true [2] (fun i => (lanesOf i.act).map (fun l => ((i.w.lane l).reg 2).toNat))) Iss.inRung never
      = true
    ∧ readyB rung0 { sysAttr 0x30 3 7 false with
        ordered := true, rr := (List.range rung0.rungFrame).map (4 + ·), wv := (List.range rung0.rungFrame).map (4 + ·),
        outs := ((List.range rung0.rungFrame).map (4 + ·)).map Out.v }
        (fun i s => i.inRung s && decide ((4 : BitVec 5).toNat + s.rungFrame ≤ 56)) never = true := by
  decide +kernel

/-- A decision queue that holds an entry for warp 0. -/
def queue0 : State := warpB (fun b => { b with ctx := { b.ctx with dq := [{ word := 7, mask := 1 }] } })

theorem test_witness_LaunchWords :
    readyB w0 (rlaunchAttr 7 9 4 5 0) always never = true
    ∧ readyB front0 { sysAttr 0x31 1 7 true with
        legal := decide ((6 : BitVec 4).toNat < 7), rs := [4, 5], ws := [10], outs := [.s 10] } always never = true
    ∧ readyB w0 { sysAttr 0x31 2 7 true with ordered := true } always never = true
    ∧ readyB front0 { sysAttr 0x31 3 7 true with
        rs := [4, 5], cmp := some (fun i _ => [(i.s 4).toNat, (i.s 5).toNat]) } (fun i _ => i.front)
      (fun i _ => decide (Config.dqEntries ≤ i.b.ctx.dq.length)) = true
    ∧ readyB queue0 { sysAttr 0x31 4 7 false with legal := (30 : BitVec 5) != 31, ws := [30, 31], outs := [.s 30, .s 31] }
      always (fun i _ => (dqTake i.u.num i.b.ctx.dq).isNone) = true := by
  decide +kernel

theorem test_witness_SpecialRegisterWords :
    (List.range 0x17).all (fun r => readyB w0 { sysAttr 0x31 5 7 true with legal := decide (r ≤ 0x16), ws := [8], outs := [.s 8] }
      always (fun i _ => i.srdStall r)) = true
    ∧ readyB front0 { sysAttr 0x31 5 7 true with legal := true, ws := [8], outs := [.s 8] } always never = true
    ∧ readyB w0 { sysAttr 0x31 6 7 true with
        legal := (0x16 : BitVec 5) == 0x16, rs := [3], cmp := some (fun i _ => [0x16, (i.s 3).toNat]) } always
        (fun i _ => i.w.groupsOut) = true := by
  decide +kernel

/-- Lane 0 runs a handler; lane 1 is parked. -/
def handler0 : State :=
  { (warpW (fun w => { (w.modLane 1 (fun l => { l with
        status := .parked
        park := some { cause := 0x14, pc := 0, resume := 4, view := 0, coord := 0, stamp := 0, delivered := true } })) with
      handler := some 0 })) with
    cur := some { block := 1, unit := .warp 0, lanes := 1 } }

/-- XLR and XLW of a lane that is parked, with a register that is good and one beyond its code, and of one that is not. -/
theorem test_witness_TrapWords :
    readyB handler0 (sysAttr 0x32 1 7 true) (fun i _ => i.inHandler) (fun i _ => i.bankPending) = true
    ∧ (let xlr : Attr := { sysAttr 0x32 2 7 false with rs := [9, 10], ws := [8], mirror := true }
       readyB handler0 xlr (fun i _ => i.inHandler && !i.front && decide ((i.s 10).toNat % 64 < 56)) never = true
       ∧ readyB (handler0.modUnit 1 (.warp 0) (fun w => w.sPut 9 1)) xlr
          (fun i _ => i.inHandler && !i.front && decide ((i.s 10).toNat % 64 < 56)) never = true)
    ∧ (let xlw : Attr := { sysAttr 0x32 3 7 false with
        rs := [9, 10, 8]
        cmp := some (fun i _ => [(i.s 9).toNat, (i.s 10).toNat, (i.s 8).toNat]) }
       readyB (handler0.modUnit 1 (.warp 0) (fun w => w.sPut 9 1)) xlw
        (fun i _ => i.inHandler && !i.front && decide ((i.s 10).toNat % 64 < 56)) never = true)
    ∧ ((handler0.unit? 1 (.warp 0)).map (fun w => ((w.lane 0).status, (w.lane 1).status))) = some (.running, .parked)
    ∧ (handler0.unit? 1 (.warp 0)).map (fun w => natBit (w.lane 1).bad.toNat 0) = some false
    ∧ ((handler0.modUnit 1 (.warp 0) (fun w => w.modLane 1 (fun l => { l with bad := 1 }))).unit? 1 (.warp 0)).map
        (fun w => natBit (w.lane 1).bad.toNat 0) = some true
    ∧ readyB w0 { sysAttr 0x32 4 7 true with rs := [5], cmp := some (fun i _ => [(i.s 5).toNat]) } always never = true
    ∧ readyB w0 { sysAttr 0x32 6 7 false with rs := [4] } always never = true
    ∧ readyB w0 { sysAttr 0x32 5 7 false with rs := [9], ws := [8], outs := [.s 8] } always
        (fun i _ => !i.w.faultPointsPassed) = true := by
  decide +kernel

theorem test_witness_CounterWords :
    [0, 3].all (fun n => readyB w0 { sysAttr 0x33 n 7 true with rs := [9], ws := [8], outs := [.s 8] } always never) = true
    ∧ readyB front0 { sysAttr 0x33 1 7 true with rs := [9] } always never = true
    ∧ readyB w0 { sysAttr 0x33 2 7 true with rs := [9, 10] } always never = true
    ∧ readyB w0 { sysAttr 0x33 4 7 true with rs := [], ws := [8], outs := [.s 8] } always never = true := by
  decide +kernel

theorem test_witness_HintWords : (w0.issuer none).isSome = true ∧ (front0.issuer none).isSome = true := by decide +kernel

/-- With the energy of earlier instructions in, and not: a load of the warp has still to bind. -/
theorem test_witness_EnergyReads :
    let a : Attr := { sysAttr 0x33 5 7 true with legal := (30 : BitVec 5) != 31, ws := [30, 31], outs := [.s 30, .s 31] }
    let access : Access := {
      op := .load 4 false, d := 3, pc := 0, headPc := 0, view := 0, record := 0, c := 0
      lanes := [{ lane := 0, coords := [], data := [], elems := [], phase := .passed }] }
    let busy := warpW (fun w => { w with log := [(0, access)] })
    readyB w0 a always (fun i _ => !i.w.energyIn) = true ∧ readyB busy a always never = true
    ∧ (busy.issuer a.p).map (fun i => i.w.energyIn) = some false := by
  decide +kernel

/-- A word that holds no instruction, with active lanes (a reserved major), and one with none. -/
theorem test_witness_IllegalWords :
    (match decode 0x3DC00000 with
      | .error _ => true
      | .ok _ => false) = true ∧ isHintWord 0x3DC00000 = false
    ∧ judgedB w0 (badAttr 0x3DC00000) = true := by
  decide +kernel

/-- An unpredicated word off, 04's own (!p7) NOP, and a reserved major. -/
theorem test_witness_InactiveWords :
    [0x6BF8E385, 0x3FC00000].all (fun (w : Word) => !isHintWord w && !(fld w 26 6 == (0x2A : BitVec 6) && fld w 4 3 == (0 : BitVec 3))
      && (match w0.issuer (predOf w) with
        | none => false
        | some i => i.act == 0 && !i.r.check && !i.trailing && !i.reissues && (match w0.ahead i with
          | (.words _, u) => decide (u = w0)
          | _ => false))) = true := by
  decide +kernel

/-- A register of every code, both of its forms. -/
theorem test_witness_EncodedDecodes :
    encode (.iadd 7 55 63 57 0) = some 0x01F7FF90 ∧ decode 0x01F7FF90 = .ok (.iadd 7 55 63 57 0) := ⟨rfl, rfl⟩

theorem test_witness_DecodedEncodes : decode 0x9DC52018 = .ok (.atomsAdd 7 5 8 3) := rfl

theorem test_witness_ReservedWords :
    reservedMajors.all (fun m => (fld (BitVec.ofNat 32 (m * 2 ^ 26)) 26 6 : BitVec 6).toNat == m) = true
    ∧ reservedFns.all (fun r => r.2.2.2.all (fun x =>
        let w : Word := BitVec.ofNat 32 (r.1 * 2 ^ 26 + x * 2 ^ r.2.1)
        (fld w 26 6 : BitVec 6).toNat == r.1 && (fld w r.2.1 r.2.2.1 : BitVec r.2.2.1).toNat == x)) = true
    ∧ cvtCode 0x3F = false ∧ cvtCode 0x0E = false ∧ 6 ≤ (6 : BitVec 3).toNat ∧ 7 ≤ (7 : BitVec 4).toNat
    ∧ 6 ≤ (6 : BitVec 4).toNat := by
  decide +kernel

/-! Traps -/

/-- The warp of a region with a handler. -/
def trap0 : State := w0.modRegion 1 (fun r => { r with trapv := 0x100 })
def trapPark (cause : Nat) : Park := { cause := cause, pc := 0, resume := 4, view := 0, coord := 3, stamp := 0 }

/-- The same warp in the middle of a chain of four words, which began at 8. -/
def chain0 : State := trap0.modUnit 1 (.warp 0) (fun w =>
  { (w.modLanes 0xFFFFFFFF (fun _ l => { l with pc := 12 })) with chain := some { lanes := 14, head := 8 } })

theorem test_witness_ParkedLanes :
    [trap0, chain0].all (fun s => (s.block? 1).isSome && (s.unit? 1 (.warp 0)).map Warp.handler == some none
      && ((s.block? 1).map (fun b => (s.region? b.regid).map Region.trapv) == some (some 0x100))) = true
    ∧ forwardOnly (trapPark Cause.TRAP).cause = false ∧ (trapPark Cause.TRAP).cause ≠ Cause.WATCH
    ∧ (chain0.unit? 1 (.warp 0)).map (fun w => (w.backTo 2, w.atLast, (w.lane 3).status)) = some (some (14, 8), false, .running) := by
  decide +kernel

/-- Lanes 1 and 2 parked by one instruction. -/
def parked0 : State := trap0.modUnit 1 (.warp 0) (fun w => w.modLanes 6 (fun _ l =>
  { l with status := .parked, park := some (trapPark Cause.TRAP) }))

theorem test_witness_HandlerEntries :
    (parked0.block? 1).map (fun b => (b.loc, b.ctx.pairs.isEmpty, (parked0.region? b.regid).isSome)) = some (.live, true, true)
    ∧ UnitRef.ofNum (UnitRef.warp 0).num = .warp 0
    ∧ (match parked0.unit? 1 (.warp 0) with
        | none => false
        | some w => w.hints.isEmpty && w.handler.isNone && (w.lane (lowest 6)).park.isSome && decide (w.lanes.length = 32)
          && (List.range 32).all (fun l =>
            let p := (w.lane l).park
            (inMask 6 l == ((w.lane l).status == .parked && p.any (fun p => !p.delivered && !forwardOnly p.cause)))
              && (!inMask 6 l || p.map (fun p => (p.age, p.cause)) == some (0, Cause.TRAP)))) = true := by
  decide +kernel

/-- A step that answers a next state, from a state in canonical form. -/
theorem test_witness_StepKeepsMemory :
    MemCanonical (State.reset.withFetchWord 32 0x59C80004)
    ∧ (match step (State.reset.withFetchWord 32 0x59C80004) with
        | .next _ => true
        | _ => false) = true := by
  unfold MemCanonical; decide +kernel

/-- The placed word is fetched, and its path is the only one that may issue. -/
theorem test_witness_StepRunsWord :
    let s := State.reset.withFetchWord 32 0x59C80004
    (match runAll s.tick.2 s.tick.1 with
      | .next u =>
        let v := u.settle.chargeTime.countCycles
        v.agenda.isEmpty && v.orphans.isEmpty && (match v.cands.filterMap v.allowed with
          | [c] => (match c.paths with
              | [e] => c.w.hints.isEmpty && c.w.forced == 0 && (c.w.yieldLanes == 0)
                && decide (c.w.age.getD 0 e.1 < c.amax) && v.isReady c e
                && (match v.region? c.regid with
                    | none => false
                    | some r => !v.hstall c r e && match { v with stalled := false }.fetch c.core c.regid r e.1 with
                      | (.word x, _) => x == 0x59C80004
                      | _ => false)
              | _ => false)
          | _ => false)
      | _ => false) = true := by
  decide +kernel

/-- The last word of a line; an operation that stores, and one that does not. -/
theorem test_witness_AtomicUpdates :
    (let h : Home := { line := 0, hdie := 0, hdev := 0, tracked := false }
     w0.isPoisoned (dieOf 0) h = false ∧ w0.cutStore (dieOf 0) h = false) ∧ 124 + 4 ≤ 128 := by decide +kernel

/-- A lane with a reservation on the line, and one with none. -/
theorem test_witness_Reservations :
    let s := warpW (fun w => w.modLane 3 (fun l => { l with resv := some { line := 0, stamp := 5 } }))
    (s.unit? 1 (.warp 0)).map (fun w => ((w.lane 3).resv.map Resv.line, (w.lane 31).resv.map Resv.line,
      decide (31 < w.lanes.length))) = some (some 0, none, true) := by
  decide +kernel

/-- A trailing warp at a word of its leading warp's, which waits to perform a KILL of a status. -/
def trail0 (item : CheckItem) : State :=
  { (w0.modRegion 1 (fun r => { r with check := true })).modBlock 1 (fun b =>
      { b with ctx := { b.ctx with trailing := b.ctx.warps, pairs := [{ item := some item }] } }) with
    cur := some { block := 1, unit := .trail 0, lanes := 0xFFFFFFFF } }

/-- The item that is compared is the trailing warp's own, and is not. -/
theorem test_witness_TrailingMismatches :
    let a : Attr := { sysAttr 0x32 4 7 true with rs := [4], cmp := some (fun i _ => [(i.s 4).toNat]) }
    [0, 1].all (fun k =>
      let x : CheckItem := { pc := 0, lanes := 0xFFFFFFFF, hints := [], kind := 0x324, operands := [0xFFFFFFFF, k] }
      match (trail0 x).issuer (some 7) with
      | none => false
      | some i => (i.u == .trail 0) && i.pair.stream.isEmpty && !i.pair.compared && i.pair.item == some x
        && ((x == i.checkItem (trail0 x) a (fun i _ => [(i.s 4).toNat])) == (k == 0))
        && ((trail0 x).block? i.blk).map Block.consumed == some none) = true := by
  decide +kernel

/-! Events: for each clause, a state that meets its premises together. -/

def leaf0 : Leaf := fetchLeaf 0
def laneAcc0 : LaneAcc := { lane := 3, coords := [], data := [], elems := [some 0], leaf := some leaf0, phase := .passed }
def access0 (op : MemOp) (x : LaneAcc) : Access :=
  { op := op, d := 5, pc := 0, headPc := 0, view := 0, record := 0, c := 0, lanes := [x] }
/-- An access of one lane, in a log. -/
structure Logged where
  op : MemOp
  acc : LaneAcc := laneAcc0
def logged0 (op : MemOp) (x : LaneAcc) : State := warpW (fun w => { w with log := [(9, access0 op x)] })

/-- A value at hand; a load to bind, a store and a line to maintain; an atomic to perform, and one whose elements are all skipped. -/
theorem test_witness_AccessEvents :
    ([({ op := .load 4 false, acc := { laneAcc0 with value := some [7] } }), { op := .load 4 false }, { op := .store 4 },
      { op := .maint 3, acc := { laneAcc0 with phase := .held } }, { op := .atom .add }, { op := .atom .add, acc := { laneAcc0 with elems := [none] } }] :
        List Logged).all (fun e =>
      let s := logged0 e.op e.acc
      match s.site? ((9 * 32 + 3) / 32) with
        | none => false
        | some t => match t.a.lane? ((9 * 32 + 3) % 32), s.block? t.blk with
          | some x, some b => x.past && !s.respWaits t.blk b.core t.a.op x
            && (match x.homeOf with
              | some h => !s.behind t (some h.line) (t.a.mates h.line) && !s.cutHome (dieOf b.core) h 3 (s.partOf t.blk)
              | none => x.elems == [none])
          | _, _ => false) = true
    ∧ ((logged0 (.atom .add) laneAcc0).site? 9).isSome = true := by
  decide +kernel

/-- A sunk group at its level, accepted and not; one whose level is chosen afresh; one whose results come back, and whose
store has, and has no, room in the block's buffer. -/
theorem test_witness_AccessEvents_sunk :
    let k : Sunk := { block := 1, unit := 0, entry := 9, lane := 3, line := 0, core := 0, level := 3 }
    let back : Sunk := { k with result := some [(5, 1)], parts := [(0, [7])] }
    let s := { logged0 .sink laneAcc0 with sunk := [(4, k), (5, { k with result := some [(5, 1)] }), (6, { k with accepted := false }),
                                                    (7, { k with level := 1 }), (8, back)] }
    let full := (s.modRegion 1 (fun r => { r with prot := true })).modBlock 1 (fun b =>
      { b with buf := (List.range 256).map (fun n => (n + 1, { mask := 1, data := 0, tracked := false, hdie := 0 })) })
    [4, 6, 7].all (fun n => (s.sunk.get? n).any (fun k => k.result.isNone && !s.sunkBefore k)) = true
    ∧ [5, 8].all (fun n => (s.sunk.get? n).any (fun k => k.result == some [(5, 1)])) = true
    ∧ (match s.site? k.entry with
        | none => false
        | some t => match t.a.lane? k.lane, s.block? t.blk with
          | some x, some b => (s.region? b.regid).isSome && x.leaf.isSome && (match x.homeOf with
            | some h => !s.cutHome (dieOf b.core) h 3 (s.partOf t.blk) && !s.sliceServes (dieOf b.core) h && (b.buf.get? h.line).isNone
                && !s.roomStall t.blk h.line && full.roomStall t.blk h.line
            | none => false)
          | _, _ => false) = true := by
  decide +kernel

/-- An acknowledged write, and one with a sharer; a sharer of each kind. -/
theorem test_witness_CoherenceEvents :
    let a : Ack := { core := 0, block := 1, die := 0, line := 0, wts := 1 }
    let s := { w0 with acks := [(2, a), (3, { a with dies := 8, devs := 1, acked := true })] }
    (s.acks.get? 2 = some a ∧ ¬(a.dies ≠ 0 ∨ a.devs ≠ 0)
      ∧ s.cutHome (dieOf a.core) { line := a.line, hdie := a.die, hdev := devOfLine a.line, tracked := false } 0 = false)
    ∧ (s.acks.get? 3).map (fun a => (decide (a.dies ≠ 0 ∨ a.devs ≠ 0), a.acked)) = some (true, true)
    ∧ s.fencedBy a.die 3 = false ∧ s.fencedBy 3 a.die = false ∧ 3 < 4
    ∧ s.fencedBy a.die 4 = false ∧ s.cutOff a.die (4 - 4) 0 = false ∧ 4 ≤ 4 := by
  decide +kernel

/-- A lane on an engine's tile, before its access and in it; a lane that waits for ever; a pair 65,536 cycles behind. -/
theorem test_witness_TimeoutEvents :
    [none, some 9].all (fun k =>
      let s := ((logged0 (.lds 4) { laneAcc0 with phase := .walking }).modUnit 1 (.warp 0) (fun w =>
        { w with owners := [{ since := 7, pc := 0, view := none, lanes := [(3, 0, [5])], entry := k }] })).modCore
        0 (fun c => c.setTile 5 true)
      match s.block? 1, s.unit? 1 (UnitRef.ofNum 0) with
      | some b, some w => (match w.owners.find? (fun o => o.since == 7) with
        | some o => !(s.stillOwned b w o).isEmpty && ((o.entry.bind s.site?).isSome == k.isSome)
        | none => false)
      | _, _ => false) = true
    ∧ ((warpW (fun w => w.modLanes 0xFFFFFFFF (fun _ l => { l with wait := .set 15 }))).unit? 1 (.warp 0)).map Warp.orphaned
      = some true
    ∧ (let s := { warpB (fun b => { b with ctx := { b.ctx with pairs := [{ since := some 3 }] } }) with now := 65539 }
       (s.block? 1).map (fun b => (b.loc, ((b.ctx.pairs[0]?).getD ({} : Pair)).since, decide (3 + 65536 ≤ s.now)))
        = some (.live, some 3, true)) := by
  decide +kernel

/-- A handler entry; answers that resume and that kill; an invalidation of one page, and one that is malformed; a page whose hash is due. -/
theorem test_witness_FaultEvents :
    ((trap0.block? 1).map (fun b => b.loc) = some .live ∧ ((trap0.unit? 1 (UnitRef.ofNum 0)).map Warp.hints) = some [])
    ∧ (let wait : Waiting := { die := 0, seq := 6, block := 1, unit := 0, lanes := 1, double := false, since := 0 }
       let s := { w0 with waiting := [(8, wait)] }
       let q := fun (word : BitVec 64) => s.modDie 0 (fun d => { d with resumeQ := [word] })
       [6, 0x100000006].all (fun (word : BitVec 64) => match ((q word).die 0).resumeQ with
        | x :: rest => (((q word).modDie 0 (fun d => { d with resumeQ := rest })).answered 0 (field x 0 32)).any
            (fun e => e.2.request.isNone)
        | [] => false) = true
       ∧ natBit (6 : BitVec 64).toNat 32 = false ∧ natBit (0x100000006 : BitVec 64).toNat 32 = true
       ∧ (s.block? 1).map (fun b => b.loc != .spilled && b.loc != .moved) = some true
       ∧ (s.unit? 1 (UnitRef.ofNum 0)).isSome = true)
    ∧ (let s := w0.modDie 0 (fun d => { d with invalQ := [BitVec.ofNat 128 (2 ^ 64)] })
       match openInval (s.die 0).invalQ with
        | some c => !invalBad c && !(s.dropLeaves 0 (invalCovers c)).usesLeaf 0 (invalCovers c)
        | none => false) = true
    ∧ (openInval ((w0.modDie 0 (fun d => { d with invalQ := [BitVec.ofNat 128 (2 ^ 64 + 2 ^ 8)] })).die 0).invalQ).map invalBad
      = some true := by
  decide +kernel

/-- A code object of one page, whose hash check runs: header at 0, manifest at 0x100, state word at 0x200. -/
def hashed0 : State :=
  let s := (w0.wrNat 0 4 Config.kcoMagic).wrNat 8 4 1
  let s := (s.wrNat 20 4 0x100).wrNat 24 4 0x200
  ({ s with parts := s.parts.put 0 { s.part 0 with carveOuts := [(0, (0, 2 ^ 18))] } }.modRegion 1 (fun r =>
    { r with codeBase := 2 ^ 16 })).modDie 0 (fun d =>
    { d with tlb := [{ leaf0 with size := 1 }], hashing := [(1, 0)] })

theorem test_witness_FaultEvents_hash :
    let s' := hashed0.modDie 0 (fun d => { d with hashing := d.hashing.filter (· != (1, 0)) })
    (match s'.region? 1 with
    | none => false
    | some r => (s'.stateWordAt 0 r 0 == some (0x200, 0x100))
      && (match s'.translateEngine 0 r.part 0x200 { r := true } 0 false, s'.translateEngine 0 r.part 0x100 { r := true } 0 false with
          | (.ok ls, _), (.ok _, _) => s'.rdNat (ls.key 0x200) 4 == 0
          | _, _ => false)) = true := by
  decide +kernel

/-- The page that is hashed can be read, whatever it holds. -/
theorem test_witness_FaultEvents_page : (hashed0.codePage 0 0 (2 ^ 16) 16).isSome = true := by decide +kernel

def cmd0 (op : CmdOp) (st : CmdState) : Cmd :=
  { id := 3, op := op, engine := .copy 0 0, dest := { block := 1, unit := 16, reg := 9 }, core := 0, regid := 1, poff := 0,
    params := 0, resume := 0, prog := 0, state := st }
def withCmd (c : Cmd) : State := { w0 with cmds := [(3, c)] }

/-- Commands that are to begin, wait for a record, have it, are at a REDE's flag, have units left, and have none. -/
theorem test_witness_EngineEvents :
    [cmd0 .cpy .queued, { cmd0 .cpy .queued with uncaptured := some 2 }, cmd0 .rede .running,
      { cmd0 .cpy .running with total := 1 }, cmd0 .cpy .running].all (fun c =>
      let s := withCmd c
      ((s.queueOf c.engine).head?.map Prod.fst == some 3) && (s.block? c.dest.block).isSome && (s.region? c.regid).isSome
        && (s.setC 3).isEmpty && c.op != .mmld && !c.flagged && c.far.isEmpty) = true
    ∧ (let s := withCmd { cmd0 .cpy .queued with uncaptured := some 2 }
       ({ s with pageReqs := [(2, { die := 0, part := 0, page := 0, seq := 0 })] }.pageReqs.get? 2).isSome = true
        ∧ (s.pageReqs.get? 2).isSome = false)
    ∧ (({ cmd0 .cpy .running with total := 1 } : Cmd).prog < 1 ∧ (cmd0 .cpy .running).total ≤ (cmd0 .cpy .running).prog) := by
  decide +kernel

/-- A command that ends; a page answer; a far completion. -/
theorem test_witness_EngineEvents_ends :
    (let c := { cmd0 .cpy .ending with op := .mmrun }
     c.state = .ending ∧ c.far.isEmpty = true ∧ ((withCmd c).acksOf 3).isEmpty = true)
    ∧ ({ w0 with pageReqs := [(2, { die := 0, part := 0, page := 0, seq := 0 })] }.pageReqs.get? 2).isSome = true
    ∧ (({ cmd0 .cpy .running with far := [(0 * 64 + 5, 2)] }).far.get? (0 * 64 + 5)) = some 2
    ∧ ({ w0 with links := [(0, { formed := [0], members := [0], peer := 5 })] }.cutOff 0 5 0) = false := by
  decide +kernel

/-- A latch slot: an infinite weight scale makes column 0 bad, as does an error in its store; a slot of zeros is good. -/
theorem test_witness_EngineEvents_columns :
    (let s := withCmd (cmd0 .mmld .running)
     let find := fun (s : State) => (List.range 512).find? (fun j => (s.die 0).colFlawed (slotAt 0 j 0) 1536
       || !columnGood 0 (latchSlot (s.die 0).colStore 0 0) j)
     find s = none ∧ find (s.modDie 0 (fun d => { d with colBad := [0] })) = some 0)
    ∧ columnGood 1 [(0, 0x80), (1, 0x7F)] 0 = false := by
  decide +kernel

/-- A region that wants a block bound, on a device whose firmware is up. -/
def ready0 : State :=
  { State.reset with
    boot := { stage := 7 }
    dies := [(0, { rootQ := [(0, 0x1000)] })]
    regions := [(2, { part := 0, die := 0, gx := 3, cls := 0, deadline := some 0 })] }

/-- A queued root; a place for the next block; a region whose priority rises; one past its deadline; one whose time is charged. -/
theorem test_witness_VillekEvents :
    (ready0.boot.runs 7 = true ∧ (ready0.die 0).rootQ = [(0, 0x1000)])
    ∧ (match ready0.region? 2 with
        | none => false
        | some r => r.die == 0 && ready0.wants 2 r && (ready0.coresFor r).contains 95
            && (ready0.fit 95 r.cls r.ntile r.nwarp r.check).isSome && r.relaunch.isEmpty
            && !((slotRun 0 r.nwarp r.check).any (ready0.slotsTaken 95).contains)
            && !(((List.range r.ntile).map (0 + ·)).any (ready0.tilesTaken 95).contains)
            && !(ready0.ranked.any (fun e => ranksAbove e (2, r) && e.2.part == r.part && (ready0.coresFor e.2).contains 95
                && (ready0.fit 95 e.2.cls e.2.ntile e.2.nwarp e.2.check).isSome))
            && (r.state == 1 || r.state == 2)) = true
    ∧ (let s := { ready0 with now := 940000 }
       match s.region? 2 with
        | some r => decide (r.state = 1) && decide ((s.now - r.tLastBind) % 940000 = 0) && decide ((s.now - r.tLastBind) / 940000 ≠ 0)
        | none => false) = true
    ∧ (ready0.regions.filter (fun e => e.2.die == 0 && (e.2.state == 1 || e.2.state == 2))).isEmpty = false
    ∧ ((ready0.modRegion 2 (fun r => { r with state := 2 })).region? 2).map Region.state = some 2 := by
  decide +kernel

/-- A block that is over, before and after its last commit point, or killed; one that is bound. -/
theorem test_witness_VillekEvents_block :
    let ended := fun (f : Fate) => warpB (fun b => { b with
      fate := f, ctx := { b.ctx with warps := [{ lanes := [{ status := .exited }] }] } })
    [Fate.running, .killed].all (fun f => match (ended f).block? 1 with
      | some b => b.over && !((ended f).cmds.any (fun e => e.2.dest.block == 1)) && b.loc != .unbound && !b.commitDue
          && b.consumed.isNone && ((ended f).acksOf 1).isEmpty
      | none => false) = true
    ∧ [false, true].all (fun x => (((ended .running).modBlock 1 (fun b => { b with exiting := x })).block? 1).any
        (fun b => b.exiting == x && b.fate == .running)) = true := by
  decide +kernel

/-- A rung with 32 items, and a place of its ladder's reserve; lanes that have waited for a frame. -/
theorem test_witness_LadderEvents :
    let l : Ladder := {
      die := 0, cluster := 0, part := 0, key := 0, hdie := 0, tracked := false, desc := BitVec.ofNat 1024 (2 ^ 1024 - 1)
      queues := [(List.range 32).map (fun i => { id := i, frame := none, since := 0 }), [], [], []]
      reserve := [(0, 32, 0)] }
    let s := { ready0 with ladders := [(1, l)], regions := [(dRegion l.desc, { part := 0 })] }
    (match s.region? (dRegion l.desc) with
      | none => false
      | some r => l.ready (s.dieCycles l.die) 0 && s.roomFor (dRegion l.desc) r && (s.freeReserve l r).contains (0, 32, 0)) = true
    ∧ (match (warpW (fun w => w.modLane 4 (fun l => { l with wait := .frame, stamp := 6 }))).unit? 1 (.warp 0) with
        | some w => (w.lane 4).wait == .frame && (w.lane 4).stamp == 6
        | none => false) = true := by
  decide +kernel

/-- A settled standby bank; images that this part's stepping does not, and does, take; a halted block, and one that runs past its
deadline; a clear cluster. -/
theorem test_witness_SwitchEvents :
    (let s := warpB (fun b => { b with loc := .standby })
     (s.standby 0).isEmpty = false ∧ (s.standby 0).all (fun e => e.2.settled) = true)
    ∧ (let s := warpB (fun b => { b with loc := .moved })
       match s.block? 1 with
        | some b => match s.region? b.regid with
          | some r => b.loc == .moved && decide (b.usedSets ≤ min 16 r.setLim) && s.restoreFits 1 b r 3 0 0 && !s.standbyTaken b 3
          | none => false
        | none => false) = true ∧ Config.stepping + 1 ≠ Config.stepping
    ∧ (let s := warpB (fun b => { b with ctx := { b.ctx with warps := [{ lanes := [{ status := .exited }] }] } })
       match s.block? 1 with
        | some b => match s.region? b.regid with
          | some r => b.fate == .running && b.loc == .live && !((b.ctx.front :: b.ctx.warps).any (fun w => w.parked != 0))
              && (b.ctx.front :: b.ctx.warps).all (fun w => w.halted r.codeBase) && !(s.cmds.any (fun e => e.2.dest.block == 1))
          | none => false
        | none => false) = true
    ∧ (let s := (warpW (fun w => { w with hints := [0xFC400042] })).modRegion 1 (fun r => { r with deadline := some 0 })
       match s.block? 1 with
        | some b => match s.region? b.regid with
          | some r => b.loc == .live && !((b.ctx.front :: b.ctx.warps).all (fun w => w.halted r.codeBase))
              && r.deadline.any (fun d => decide (d ≤ s.ns))
          | none => false
        | none => false) = true
    ∧ (let cores := clusterCores 3 11
       let s := cores.foldl (fun (s : State) c => (s.moveLoc c [.live] .standby (fun b => { b with ctx := b.ctx.switched })).dropRecords
          c (fun _ => true)) State.reset
       let gone := fun (l : Leaf) => ((cores.map (fun c => (s.core c).part)).filter (· != 1)).contains l.part
       let u := (cores.foldl (fun (s : State) c => (s.onCore c).foldl (fun (s : State) e => s.release e.1) s) s).dropLeaves 3 gone
       cores.all s.coreClear && !u.usesLeaf 3 gone) = true := by
  decide +kernel

/-- A staged calendar, a clean line, a powered part whose boot failed at stages 3 and 5, the last user register. -/
theorem test_witness_UpkeepEvents :
    (∃ u l, (({ w0 with cals := [(u, { staged := some l })] } : State).calOf u).staged = some l)
    ∧ w0.poison.contains 0 = false ∧ State.reset.powered = false
    ∧ (let s := { w0 with powered := true, boot := { stage := 5, err := 1 } }
       s.powered = true ∧ s.boot.err ≠ 0 ∧ 3 ≤ s.boot.stage ∧ s.boot.stage ≤ 5) ∧ 4 ≤ 7 := by
  refine ⟨⟨quadUnit 0 0, [0], ?_⟩, ?_⟩ <;> decide +kernel

/-- A link to device 9, numbered 2. -/
def linked0 (l : Link) : State := { w0 with links := [(2, l)] }
def link0 : Link := { formed := [0, 1], members := [0, 1], peer := 9 }

/-- A peer device and a die that are, and are not, lost to a die; a die that has been reset since; a link that is up with a packet
to acknowledge; a port in no link; a link that retrains. -/
theorem test_witness_LinkEvents :
    0 < 4 ∧ 0 ≠ 4 + 9 ∧ w0.isPeer (4 + 9) = true ∧ w0.fencedBy 0 (4 + 9) = false
    ∧ (let s := { w0 with fenced := [{ die := 0, peer := 3, reset := true }, { die := 0, peer := 4 + 9 }] }
       s.fencedBy 0 3 = true ∧ s.fencedBy 0 (4 + 9) = true ∧ s.fenced.any (fun f => f.die == 0 && f.peer == 3 && f.reset) = true)
    ∧ (((linked0 link0).links.get? 2) = some link0 ∧ link0.down = false ∧ (linked0 link0).cutPeer link0.peer = false)
    ∧ FabricBody.pad.bad = false ∧ (FabricBody.share 0 7).bad = false ∧ w0.shareWaits .pad = none
    ∧ (let l := { link0 with replay := [(0, 3), (1, 1)] }
       l.up = true ∧ l.replay.any (fun e => e.1 == 1) = true ∧ (linked0 l).cutPeer l.peer = false)
    ∧ (w0.port 71).fail = false ∧ 71 < 72
    ∧ ({ link0 with retraining := true }).retraining = true := by
  decide +kernel

/-- A part whose system cores run, with a write that is open and one access that waits behind it; accesses at both ends of
physical memory; queue pairs and a page that they reach. -/
theorem test_witness_OutsideEvents :
    (let s := { w0 with boot := { stage := 8 } }
     s.boot.runs 8 = true ∧ s.coreStopped 15 = false ∧ s.outsideOpen = false ∧ s.sysQueue.getD [] 15 = [] ∧ badRange 0 8 = false
      ∧ badRange (2 ^ 52 - 8) 8 = false ∧ badRange (2 ^ 52 - 7) 8 = true
      ∧ ({ s with acks := [(2, { core := noCore, block := 0, die := 0, line := 0, wts := 0 })] }.outsideOpen) = true
      ∧ ({ s with sysQueue := s.sysQueue.put 15 [.lr 0 8 false] }.sysQueue.getD [] 15) = [.lr 0 8 false])
    ∧ (let s := ({ w0 with qps := [(4, { part := 0, keys := [(1, (0xFF00, 0x100))] })] }).modDie 0 (fun d => { d with tlb := [leaf0] })
       let dst : RdmaTarget := { qp := 4, va := 0xFFF8, key := 1 }
       (s.qps.get? 4).map QueuePair.error = some false ∧ s.outsideOpen = false ∧ s.rdmaOpen 4 = false ∧ dst.ipv4 = false
       ∧ (s.qps.get? 4).map (fun q => (q.covers dst 8, q.covers dst 9)) = some (true, false)
       ∧ [({ r := false, w := true } : Need), { r := true, w := false }, { r := true, w := true }].all (fun n =>
          match s.rdmaLines 0 n (linePieces 0xFFF8 (List.replicate 8 0)) with
          | (some l, u) => (u.rdmaFetch l).1.isSome
          | _ => false) = true
       ∧ 0xFFF8 % 8 = 0)
    ∧ (linePieces 0x78 (List.replicate 8 0)).length = 1 ∧ (linePieces 0x7C (List.replicate 8 0)).length = 2 := by
  decide +kernel

theorem test_witness_ResetLeaves : 3 < 4 ∧ dieOf 383 = 3 := by decide

/-- `HSTALL 2, 0b0001` (04 R100) issued in cycle 100: held in cycle 102, not in 103; never in interlocked mode. -/
theorem test_witness_HstallHolds :
    let s := warpW (fun w => { w with hints := [0xFC400042], lastIssue := 100, unitLanes := 0xFFFFFFFF })
    let e : Nat × Word := (0, 0xFFFFFFFF)
    let c : Cand := { blk := 1, u := .warp 0, core := 0, slot := 0, part := 0, cls := 1, amax := 64, regid := 1,
                      w := (s.unit? 1 (.warp 0)).getD {}, paths := [e] }
    wordHstall 0x3F 1 0 1 2 = 0xFC400042
    ∧ (s.region? 1).map (fun r => (({ s with now := 102 } : State).hstall c r e, ({ s with now := 103 } : State).hstall c r e,
        ({ s.modBlock 1 (fun b => { b with ctx := { b.ctx with interlocked := true } }) with now := 102 } : State).hstall c r e))
      = some (true, false, false) := by
  decide +kernel

end Sys2Proof.Tests
end

section
/-! 02 R58; 09 R230; 14 R341, R344, R349: one rule for each way in which a context leaves its bank or comes back. -/

open Sys2Proof Sys2Proof.Machine Sys2Proof.Claims

namespace Sys2Proof.Machine

/-! ## Spills -/

theorem exec_ashSpillDone_of_settled {s u : State} {die core image : Nat}
    (hne : (s.standby (die * Config.coresPerDie + core)).isEmpty = false)
    (hset : (s.standby (die * Config.coresPerDie + core)).all (fun e => e.2.settled) = true) (hfresh : s.fresh = (image, u)) :
    let c := die * Config.coresPerDie + core
    exec (.ashSpillDone die core) s = .next
      (if s.claimed c && !(s.onCore c).any (fun e => e.2.inLive) then
        (((s.moveAll c (s.standby c)).moveAll c ((s.onCore c).filter (fun e => e.2.loc == .spilled))).ringPump c).villek
      else (((u.writeImage c (s.standby c) false).moveLoc c [.standby, .spilling] .spilled
        (fun b => { b with image := some image })).ringPump c).villek) := by
  intro c
  show execAshSpillDone die core s = _
  simp only [execAshSpillDone, hne, hset, hfresh, Bool.not_true, Bool.false_eq_true, if_false]
  by_cases hwanted : (s.claimed c && !(s.onCore c).any (fun e => e.2.inLive)) = true
  · rw [if_pos hwanted, if_pos hwanted]
  · rw [if_neg hwanted, if_neg hwanted]

/-! ## Restores -/

section

variable {s : State} {blk die core tile0 wslot0 step : Nat} {b : Block} {r : Region}

theorem exec_restoreRequest_of_otherStepping (hb : s.block? blk = some b) (hr : s.region? b.regid = some r)
    (hloc : b.loc = .moved) (hstep : step ≠ Config.stepping) :
    exec (.restoreRequest blk die core tile0 wslot0 step) s =
      .next { s with restores := s.restores ++ [(blk, Cause.RESTORE_CAPACITY)] } := by
  show execRestoreRequest blk die core tile0 wslot0 step s = _
  simp [execRestoreRequest, hb, hr, hloc, hstep]

/-- An image that stands in no core's scratchpad brings its own window. -/
theorem exec_restoreRequest_of_fits (hb : s.block? blk = some b) (hr : s.region? b.regid = some r)
    (hloc : b.loc = .moved) (hstep : step = Config.stepping) (hsets : b.usedSets ≤ min 16 r.setLim)
    (hfits : s.restoreFits blk b r (die * Config.coresPerDie + core) tile0 wslot0 = true)
    (hfree : s.standbyTaken b (die * Config.coresPerDie + core) = false) :
    let c := die * Config.coresPerDie + core
    let s' := (s.modBlock blk (fun b =>
      { b with loc := .standby, core := c, tile0 := tile0, wslot0 := wslot0, stopping := false })).fillWindow c tile0
        b.ntile b.imgWindow b.imgOwners
    let s'' := (if b.core = c then s' else (s'.leaveRecords b.core b.regid).enterCore blk b.core c).setMode blk
    exec (.restoreRequest blk die core tile0 wslot0 step) s =
      .next ({ s''.resumeAnswered blk with restores := s''.restores ++ [(blk, 0)] }.villek) := by
  have hroom : ¬ (step ≠ Config.stepping ∨ min 16 r.setLim < b.usedSets
      ∨ !s.restoreFits blk b r (die * Config.coresPerDie + core) tile0 wslot0) := by
    rintro (hother | hlim | hunfit)
    · exact hother hstep
    · exact Nat.not_lt.mpr hsets hlim
    · rw [hfits] at hunfit
      exact Bool.false_ne_true hunfit
  show execRestoreRequest blk die core tile0 wslot0 step s = _
  simp only [execRestoreRequest, hb, hr, hloc, hroom, hfree]
  rfl

end

/-! ## Migration -/

section

variable {s : State} {blk : Nat} {b : Block} {r : Region} (hb : s.block? blk = some b)
  (hr : s.region? b.regid = some r) (hfate : b.fate = .running) (hloc : b.loc = .live)
  (hpark : (b.ctx.front :: b.ctx.warps).any (fun w => w.parked != 0) = false)

include hb hr hfate hloc hpark

theorem exec_migrationStop_of_halted (hhalt : (b.ctx.front :: b.ctx.warps).all (fun w => w.halted r.codeBase) = true)
    (hcmds : s.cmds.any (fun e => e.2.dest.block == blk) = false) :
    exec (.migrationStop blk) s = .next
      ((((s.moveAll b.core [(blk, b)]).ringPump b.core).pumpCluster (dieOf b.core)
        (clusterOf b.core % Config.clustersPerDie)).villek) := by
  show execMigrationStop blk s = _
  simp only [execMigrationStop, hb, hr, hfate, hloc, hpark, hhalt, hcmds]
  rfl

theorem exec_migrationStop_of_late {d : Nat}
    (hrun : (b.ctx.front :: b.ctx.warps).all (fun w => w.halted r.codeBase) = false) (hd : r.deadline = some d)
    (hlate : d ≤ s.ns) :
    exec (.migrationStop blk) s = .next (s.modBlock blk (fun b => { b with stopping := false })) := by
  show execMigrationStop blk s = _
  simp only [execMigrationStop, hb, hr, hfate, hloc, hpark, hrun, hd, Option.any_some, decide_eq_true hlate]
  rfl

end

/-! ## World switches -/

theorem exec_worldSwitch_of_clear (s : State) (die cluster part : Nat) :
    let cores := clusterCores die cluster
    let s' := cores.foldl (fun (s : State) c =>
      (s.moveLoc c [.live] .standby (fun b => { b with ctx := b.ctx.switched })).dropRecords c (fun _ => true)) s
    let gone := fun (l : Leaf) => ((cores.map (fun c => (s'.core c).part)).filter (· != part)).contains l.part
    let u := (cores.foldl (fun (s : State) c => (s.onCore c).foldl (fun (s : State) e => s.release e.1) s) s').dropLeaves die gone
    cores.all s'.coreClear = true → u.usesLeaf die gone = false →
    exec (.worldSwitch die cluster part) s = .next ((cores.foldl (fun (s : State) c => s.handOver part c) u).villek) := by
  intro cores s' gone u hclear hunused
  show execWorldSwitch die cluster part s = _
  have hblocked : ¬ (!cores.all s'.coreClear) = true := by simp [hclear]
  have hfree : (!u.usesLeaf die gone) = true := by simp [hunused]
  exact (if_neg hblocked).trans (if_pos hfree)

end Sys2Proof.Machine

namespace Sys2Proof.Claims

/-- Settles O38: each event follows its rule above; the two of the counter banks are their definitions. -/
theorem switchEvents : Obligations.SwitchEvents := by
  refine ⟨?spill, ?restore, ?migrate, exec_worldSwitch_of_clear, ?banks⟩
  case spill => exact fun s u die core image => exec_ashSpillDone_of_settled
  case restore =>
    intro s blk die core tile0 wslot0 step b r hb hr hloc
    exact ⟨exec_restoreRequest_of_otherStepping hb hr hloc, exec_restoreRequest_of_fits hb hr hloc⟩
  case migrate =>
    intro s blk b r hb hr hfate hloc hpark
    exact ⟨exec_migrationStop_of_halted hb hr hfate hloc hpark, fun d => exec_migrationStop_of_late hb hr hfate hloc hpark⟩
  case banks =>
    intro s core bank x t
    constructor <;> (rintro rfl; rfl)

end Sys2Proof.Claims
end

section
/-! 02 R59: what Villek's decision at the end of a die's reset does to the blocks that the reset has left, and a state in which it brings
one of them onto that die. -/

open Sys2Proof Sys2Proof.Machine Sys2Proof.Claims

namespace Sys2Proof.Machine

/-! ## What Villek changes of the blocks -/

@[simp] theorem State.ringPump_blocks (s : State) (core : Nat) : (s.ringPump core).blocks = s.blocks := by
  unfold State.ringPump
  dsimp only
  split
  · rfl
  · split <;> rfl

@[simp] theorem State.writeBind_blocks (s : State) (core : Nat) (r : Bind) : (s.writeBind core r).blocks = s.blocks :=
  State.ringPump_blocks _ core

/-- Villek's own decision adds records and steps alone: only what binds rung warps again writes blocks. -/
theorem State.villek_blocks (s : State) : s.villek.blocks = s.rebindRungs.blocks := by
  unfold State.villek
  extract_lets rebound ranked placed switched
  have hplaced : placed.blocks = rebound.blocks := by
    dsimp only [placed]
    split
    · split <;> rfl
    · rfl
  have hswitched : switched.blocks = placed.blocks := by
    dsimp only [switched]
    split
    · split
      · split <;> rfl
      · exact State.writeBind_blocks placed _ _
      · rfl
    · rfl
  split
  · rw [State.writeBind_blocks, hswitched, hplaced]
  · rw [hswitched, hplaced]

/-- A rung warp for which the reserve has one free place gets it: the block that stands first under its number is moved there. -/
theorem State.rebindRung_blocks_of_onePlace {s : State} {blk lid k : Nat} {b : Block} {l : Ladder} {r : Region} {core t w : Nat}
    (hl : s.ladders.get? lid = some l) (hr : s.region? b.regid = some r) (hroom : s.roomFor b.regid r = true)
    (hfree : s.freeReserve l r = [(core, t, w)]) :
    (s.rebindRung blk b lid k).blocks = s.blocks.modify blk (fun b => { b with core := core, wslot0 := w, tile0 := t }) := by
  have hspots : (if ([(core, t, w)].filter (fun x => x.1 != b.core)).isEmpty then [(core, t, w)]
      else [(core, t, w)].filter (fun x => x.1 != b.core)) = [(core, t, w)] := by
    by_cases hc : core = b.core <;> simp [hc]
  simp only [State.rebindRung, hl, hr, hroom, hfree, if_true]
  rw [hspots]
  simp [Nat.mod_one, State.modBlock]

/-! ## A block that comes onto the die -/

/-- The ladder of region 1 at die 1. Its reserve has tile 0 and slot 0 of core 0, on die 0. -/
def strayLadder : Ladder :=
  { die := 1, cluster := 0, part := 0, key := 0, hdie := 1, tracked := false, desc := BitVec.ofNat 1024 (2 ^ 64), reserve := [(0, 0, 0)] }

/-- A rung warp of that ladder that waits to be bound again. -/
def waitingRung : Block := { regid := 1, core := 96, loc := .unbound, rung := some (1, 0) }

/-- Region 1 of die 1 has a live block on core 96, and the rung warp that waits is listed under the same number. -/
def twiceListed : State :=
  { regions := [(1, { part := 0, die := 1 })], ladders := [(1, strayLadder)]
    blocks := [(1, { regid := 1, core := 96 }), (1, waitingRung)] }

/-- Nothing in it stands on die 0 or is die 0's, so that the reset finds nothing to take away. -/
theorem twiceListed_resetDie : twiceListed.resetDie 0 = twiceListed.villek := by
  unfold State.resetDie
  exact congrArg State.villek (by decide +kernel)

theorem twiceListed_rebindRungs : twiceListed.rebindRungs = twiceListed.rebindRung 1 waitingRung 1 0 := rfl

/-- The place is given to the live block, which then stands on die 0. -/
theorem twiceListed_villek_blocks : twiceListed.villek.blocks = [(1, { regid := 1, core := 0 })] := by
  have hfree : twiceListed.freeReserve strayLadder { part := 0, die := 1 } = [(0, 0, 0)] := by decide +kernel
  rw [State.villek_blocks, twiceListed_rebindRungs, State.rebindRung_blocks_of_onePlace (l := strayLadder) rfl rfl rfl hfree]
  rfl

end Sys2Proof.Machine

namespace Sys2Proof.Claims

/-- Refutes O50, by a state whose tables are not in their canonical form, which the statement does not ask for: in `twiceListed` a live
block of die 1 and a rung warp that waits to be bound again have one number, and the ladder's reserve names a core of die 0. A reset of
die 0 leaves both, and at its end Villek gives that core to the rung warp, by its number: so the live block stands on die 0. -/
theorem not_resetLeaves : ¬ Obligations.ResetLeaves := by
  rintro ⟨-, hdie⟩
  obtain ⟨t, hexec, hblocks, -⟩ := hdie twiceListed 0 (by decide)
  have ht : twiceListed.resetDie 0 = t := Host.Outcome.next.inj hexec
  have hone : t.blocks = [(1, { regid := 1, core := 0 })] := by
    rw [← ht, twiceListed_resetDie, twiceListed_villek_blocks]
  exact hblocks (1, { regid := 1, core := 0 }) (by simp [hone]) (by decide) (by decide) (by decide)

end Sys2Proof.Claims
end

section
/-! 04 R82 to R91, R101: the two directions of the encoding. An instruction's word decodes to it, one instruction after the other;
and where a word decodes, the decoder has read its major and its FN and checked each field that the format fixes, so that the word is
the one made of the fields that it has read. -/

open Sys2Proof Sys2Proof.Machine Sys2Proof.Claims

namespace Sys2Proof.Laws.Encoding

theorem statement_holds : ∀ i : Instr, Statement i
  | .iadd .. => iadd _ _ _ _ _ | .isub .. => isub _ _ _ _ _ | .imul .. => imul _ _ _ _ _ | .imad .. => imad _ _ _ _ _
  | .imulhI32 .. => imulhI32 _ _ _ _ _ | .imulhN32 .. => imulhN32 _ _ _ _ _ | .iaddsI32 .. => iaddsI32 _ _ _ _ _
  | .isubsI32 .. => isubsI32 _ _ _ _ _ | .iminI32 .. => iminI32 _ _ _ _ _ | .iminN32 .. => iminN32 _ _ _ _ _
  | .imaxI32 .. => imaxI32 _ _ _ _ _ | .imaxN32 .. => imaxN32 _ _ _ _ _ | .iabsI32 .. => iabsI32 _ _ _ _
  | .idiffN32 .. => idiffN32 _ _ _ _ _ | .iadd64 .. => iadd64 _ _ _ _ | .isub64 .. => isub64 _ _ _ _
  | .andV .. => andV _ _ _ _ _ | .orV .. => orV _ _ _ _ _ | .xorV .. => xorV _ _ _ _ _ | .andn .. => andn _ _ _ _ _
  | .shl .. => shl _ _ _ _ _ | .shr .. => shr _ _ _ _ _ | .sar .. => sar _ _ _ _ _ | .rot .. => rot _ _ _ _ _
  | .popc .. => popc _ _ _ _ | .clz .. => clz _ _ _ _ | .brev .. => brev _ _ _ _ | .bfeI32 .. => bfeI32 _ _ _ _ _
  | .bfeN32 .. => bfeN32 _ _ _ _ _ | .bfi .. => bfi _ _ _ _ _ | .lop3 .. => lop3 _ _ _ _ _ | .prmt .. => prmt _ _ _ _ _
  | .isetEq .. => isetEq _ _ _ _ _ | .isetNe .. => isetNe _ _ _ _ _ | .isetLtI32 .. => isetLtI32 _ _ _ _ _
  | .isetLeI32 .. => isetLeI32 _ _ _ _ _ | .isetLtN32 .. => isetLtN32 _ _ _ _ _ | .isetLeN32 .. => isetLeN32 _ _ _ _ _
  | .isetTst .. => isetTst _ _ _ _ _ | .isetNtst .. => isetNtst _ _ _ _ _ | .sel .. => sel _ _ _ _ _ _
  | .iaddi .. => iaddi _ _ _ _ | .shli .. => shli _ _ _ _ | .shri .. => shri _ _ _ _ | .sari .. => sari _ _ _ _
  | .roti .. => roti _ _ _ _ | .andi .. => andi _ _ _ _ | .ori .. => ori _ _ _ _ | .xori .. => xori _ _ _ _
  | .fadd .. => fadd _ _ _ _ _ | .fsub .. => fsub _ _ _ _ _ | .fmul .. => fmul _ _ _ _ _ | .ffma .. => ffma _ _ _ _ _
  | .fmin .. => fmin _ _ _ _ _ | .fmax .. => fmax _ _ _ _ _ | .fmna .. => fmna _ _ _ _ _ | .fcopys .. => fcopys _ _ _ _ _
  | .fsetEq .. => fsetEq _ _ _ _ _ | .fsetNe .. => fsetNe _ _ _ _ _ | .fsetLt .. => fsetLt _ _ _ _ _
  | .fsetLe .. => fsetLe _ _ _ _ _ | .fsetOrd .. => fsetOrd _ _ _ _ _ | .fsetUnord .. => fsetUnord _ _ _ _ _
  | .fsetEqu .. => fsetEqu _ _ _ _ _ | .fsetLtu .. => fsetLtu _ _ _ _ _ | .frcp .. => frcp _ _ _ _ | .frsq .. => frsq _ _ _ _
  | .fsqrt .. => fsqrt _ _ _ _ | .fex2 .. => fex2 _ _ _ _ | .flg2 .. => flg2 _ _ _ _ | .fsin .. => fsin _ _ _ _
  | .fcos .. => fcos _ _ _ _ | .ftanh .. => ftanh _ _ _ _ | .hadd2F16 .. => hadd2F16 _ _ _ _ _
  | .hsub2F16 .. => hsub2F16 _ _ _ _ _ | .hmul2F16 .. => hmul2F16 _ _ _ _ _ | .hfma2F16 .. => hfma2F16 _ _ _ _ _
  | .hmin2F16 .. => hmin2F16 _ _ _ _ _ | .hmax2F16 .. => hmax2F16 _ _ _ _ _ | .hdot2F16 .. => hdot2F16 _ _ _ _ _
  | .hadd2Bf16 .. => hadd2Bf16 _ _ _ _ _ | .hsub2Bf16 .. => hsub2Bf16 _ _ _ _ _ | .hmul2Bf16 .. => hmul2Bf16 _ _ _ _ _
  | .hfma2Bf16 .. => hfma2Bf16 _ _ _ _ _ | .hmin2Bf16 .. => hmin2Bf16 _ _ _ _ _ | .hmax2Bf16 .. => hmax2Bf16 _ _ _ _ _
  | .hdot2Bf16 .. => hdot2Bf16 _ _ _ _ _ | .cvt .. => cvt _ _ _ _ _ _ | .frndRn .. => frndRn _ _ _ _
  | .frndRz .. => frndRz _ _ _ _ | .frndRd .. => frndRd _ _ _ _ | .frndRu .. => frndRu _ _ _ _ | .ffrac .. => ffrac _ _ _ _
  | .fexp .. => fexp _ _ _ _ | .fscale .. => fscale _ _ _ _ _ | .fclass .. => fclass _ _ _ _
  | .shflIdx .. => shflIdx _ _ _ _ _ | .shflXor .. => shflXor _ _ _ _ _ | .shflUp .. => shflUp _ _ _ _ _
  | .shflDown .. => shflDown _ _ _ _ _ | .voteAny .. => voteAny _ _ _ _ | .voteAll .. => voteAll _ _ _ _
  | .ballot .. => ballot _ _ _ _ | .matchLanes .. => matchLanes _ _ _ _ | .reduxAddI32 .. => reduxAddI32 _ _ _ _
  | .reduxMinI32 .. => reduxMinI32 _ _ _ _ | .reduxMaxI32 .. => reduxMaxI32 _ _ _ _ | .reduxAddF32 .. => reduxAddF32 _ _ _ _
  | .elect .. => elect _ _ _ | .s2v .. => s2v _ _ _ _ | .v2s .. => v2s _ _ _ | .sadd .. => sadd _ _ _
  | .ssub .. => ssub _ _ _ | .smul .. => smul _ _ _ | .sand .. => sand _ _ _ | .sor .. => sor _ _ _ | .sxor .. => sxor _ _ _
  | .sshl .. => sshl _ _ _ | .sshr .. => sshr _ _ _ | .saddi .. => saddi _ _ _ | .sminI32 .. => sminI32 _ _ _
  | .smaxI32 .. => smaxI32 _ _ _ | .sminN32 .. => sminN32 _ _ _ | .smaxN32 .. => smaxN32 _ _ _ | .ssar .. => ssar _ _ _
  | .spopc .. => spopc _ _ | .sclz .. => sclz _ _ | .sbr .. => sbr _ _ _ _ | .smovi .. => smovi _ _ | .bra .. => bra _ _
  | .call .. => call _ _ | .brx .. => brx _ _ | .callx .. => callx _ _ | .ret .. => ret _ | .exit .. => exit _ _
  | .yield .. => yield _ | .nop .. => nop _ | .nextSeg .. => nextSeg _ _ | .brk .. => brk _ | .jenter .. => jenter _ _
  | .jquit .. => jquit _ _ | .jwait .. => jwait _ _ | .jmovf .. => jmovf _ _ _ _ | .jmovt .. => jmovt _ _ _ _
  | .jclr .. => jclr _ _ | .loop .. => loop _ _ _ | .loopi .. => loopi _ _ _ | .barSync .. => barSync _ _
  | .barArv .. => barArv _ _ | .barWait .. => barWait _ _ | .barCnt .. => barCnt _ _ _ | .ldB8I .. => ldB8I _ _ _ _
  | .ldB8N .. => ldB8N _ _ _ _ | .ldB16I .. => ldB16I _ _ _ _ | .ldB16N .. => ldB16N _ _ _ _ | .ldB32 .. => ldB32 _ _ _ _
  | .ldB64 .. => ldB64 _ _ _ _ | .ldB128 .. => ldB128 _ _ _ _ | .ldcB32 .. => ldcB32 _ _ _ _ | .stB8 .. => stB8 _ _ _ _
  | .stB16 .. => stB16 _ _ _ _ | .stB32 .. => stB32 _ _ _ _ | .stB64 .. => stB64 _ _ _ _ | .stB128 .. => stB128 _ _ _ _
  | .ldsB32Row .. => ldsB32Row _ _ _ _ | .ldsB32Col .. => ldsB32Col _ _ _ _ | .ldsB64Row .. => ldsB64Row _ _ _ _
  | .ldsB64Col .. => ldsB64Col _ _ _ _ | .ldsB16Row .. => ldsB16Row _ _ _ _ | .ldsB16Col .. => ldsB16Col _ _ _ _
  | .ldsB8Row .. => ldsB8Row _ _ _ _ | .ldsB128Row .. => ldsB128Row _ _ _ _ | .stsB32Row .. => stsB32Row _ _ _ _
  | .stsB32Col .. => stsB32Col _ _ _ _ | .stsB64Row .. => stsB64Row _ _ _ _ | .stsB64Col .. => stsB64Col _ _ _ _
  | .stsB16Row .. => stsB16Row _ _ _ _ | .stsB16Col .. => stsB16Col _ _ _ _ | .stsB8Row .. => stsB8Row _ _ _ _
  | .stsB128Row .. => stsB128Row _ _ _ _ | .atomAdd .. => atomAdd _ _ _ _ | .atomMinI32 .. => atomMinI32 _ _ _ _
  | .atomMaxI32 .. => atomMaxI32 _ _ _ _ | .atomMinN32 .. => atomMinN32 _ _ _ _ | .atomMaxN32 .. => atomMaxN32 _ _ _ _
  | .atomAnd .. => atomAnd _ _ _ _ | .atomOr .. => atomOr _ _ _ _ | .atomXor .. => atomXor _ _ _ _
  | .atomExch .. => atomExch _ _ _ _ | .atomCas .. => atomCas _ _ _ _ | .atomAddF32 .. => atomAddF32 _ _ _ _
  | .lrB32 .. => lrB32 _ _ _ _ | .scB32 .. => scB32 _ _ _ _ | .redAddI32 .. => redAddI32 _ _ _ _
  | .redMinI32 .. => redMinI32 _ _ _ _ | .redMaxI32 .. => redMaxI32 _ _ _ _ | .redAnd .. => redAnd _ _ _ _
  | .redOr .. => redOr _ _ _ _ | .redXor .. => redXor _ _ _ _ | .redAddF32 .. => redAddF32 _ _ _ _
  | .redAddF16x2 .. => redAddF16x2 _ _ _ _ | .atomsAdd .. => atomsAdd _ _ _ _ | .atomsMinI32 .. => atomsMinI32 _ _ _ _
  | .atomsMaxI32 .. => atomsMaxI32 _ _ _ _ | .atomsExch .. => atomsExch _ _ _ _ | .atomsCas .. => atomsCas _ _ _ _
  | .atomsAddF32 .. => atomsAddF32 _ _ _ _ | .atomsOr .. => atomsOr _ _ _ _ | .atomsAnd .. => atomsAnd _ _ _ _
  | .fenceAcq .. => fenceAcq _ _ | .fenceRel .. => fenceRel _ _ | .fenceAr .. => fenceAr _ _ | .fenceSc .. => fenceSc _ _
  | .pref .. => pref _ _ _ | .prefLlc .. => prefLlc _ _ _ | .cwb .. => cwb _ _ _ | .cinv .. => cinv _ _ _
  | .cwbi .. => cwbi _ _ _ | .ldntB32 .. => ldntB32 _ _ _ _ | .stntB32 .. => stntB32 _ _ _ _ | .gbegin .. => gbegin _ _ _
  | .gend .. => gend _ | .viewf .. => viewf _ _ _ | .viewp .. => viewp _ _ _ _ _ | .viewq .. => viewq _ _ _ _
  | .cpy .. => cpy _ _ _ _ _ | .cpyaF32 .. => cpyaF32 _ _ _ _ _ | .cpyaF16 .. => cpyaF16 _ _ _ _ _
  | .cpyg .. => cpyg _ _ _ _ _ | .ownE .. => ownE _ _ _ | .ownT .. => ownT _ _ _ | .ownq .. => ownq _ _ _
  | .csld .. => csld _ _ _ _ _ | .mmld .. => mmld _ _ _ | .mmrun .. => mmrun _ _ _ _ _ | .mmdrain .. => mmdrain _ _ _ _ _
  | .rede .. => rede _ _ _ _ _ | .mmaF16 .. => mmaF16 _ _ _ _ | .mmaBf16 .. => mmaBf16 _ _ _ _
  | .mmaF8e4 .. => mmaF8e4 _ _ _ _ | .mmaF8e5 .. => mmaF8e5 _ _ _ _ | .mmaI8 .. => mmaI8 _ _ _ _
  | .ladrLane .. => ladrLane _ _ _ | .ladrRange .. => ladrRange _ _ _ _ | .lesc .. => lesc _ _ _ | .lret .. => lret _ _
  | .lfrm .. => lfrm _ _ | .linfo .. => linfo _ _ _ _ | .rlaunch .. => rlaunch _ _ _ _ _ | .rquery .. => rquery _ _ _ _ _
  | .commit .. => commit _ | .dqpush .. => dqpush _ _ _ | .dqpop .. => dqpop _ _ | .srd .. => srd _ _ _
  | .swr .. => swr _ _ _ | .trap .. => trap _ _ | .rte .. => rte _ _ | .xlr .. => xlr _ _ _ _ | .xlw .. => xlw _ _ _ _
  | .kill .. => kill _ _ | .parkq .. => parkq _ _ _ | .unpark .. => unpark _ _ | .ctrclm .. => ctrclm _ _ _
  | .ctrrel .. => ctrrel _ _ | .ctrcfg .. => ctrcfg _ _ _ | .ctrrdLo .. => ctrrdLo _ _ _ | .ctrrdHi .. => ctrrdHi _ _
  | .enrd .. => enrd _ _ | .himm .. => himm _ | .hstall .. => hstall _ _ _ | .hmod .. => hmod _ _ _ _ _
  | .hcoord .. => hcoord _ _ _ _ | .loadResponse .. => loadResponse _ | .umberGroupExecute .. => umberGroupExecute _
  | .sinkGroupResponse .. => sinkGroupResponse _ | .storeAcknowledge .. => storeAcknowledge _
  | .atomicCompletion .. => atomicCompletion _ | .directoryInvalidate .. => directoryInvalidate _ _ _
  | .ltimeTick .. => ltimeTick _ | .lrReservationExpiry .. => lrReservationExpiry _ _ _ _
  | .ownerTimeoutExpiry .. => ownerTimeoutExpiry _ _ _ | .orphanDetection .. => orphanDetection _ _
  | .trailingLagTimeout .. => trailingLagTimeout _ _ _ | .handlerEntry .. => handlerEntry _ _
  | .faultResumeAnswer .. => faultResumeAnswer _ | .faultKillAnswer .. => faultKillAnswer _
  | .pageWalkDone .. => pageWalkDone _ _ | .invalidationCommand .. => invalidationCommand _
  | .codePageHashDone .. => codePageHashDone _ _ _ | .engineUnit .. => engineUnit _
  | .enginePageAnswer .. => enginePageAnswer _ _ | .engineCommandEnd .. => engineCommandEnd _
  | .mmldBankValid .. => mmldBankValid _ | .bindBlock .. => bindBlock _ _ | .bindRungWarp .. => bindRungWarp _ _
  | .bindResumeSnapshot .. => bindResumeSnapshot _ _ | .bankSwitch .. => bankSwitch _ _
  | .dispatchStart .. => dispatchStart _ | .rootLaunch .. => rootLaunch _
  | .villekPlacement .. => villekPlacement _ _ _ _ _ _ | .priorityAgeing .. => priorityAgeing _
  | .limitCheck .. => limitCheck _ | .blockCompletion .. => blockCompletion _ | .ladderStarvation .. => ladderStarvation _ _
  | .ladderWarpLaunch .. => ladderWarpLaunch _ _ _ _ _ | .ladderFrameTimeout .. => ladderFrameTimeout _ _ _
  | .ashSpillDone .. => ashSpillDone _ _ | .restoreRequest .. => restoreRequest _ _ _ _ _ _
  | .migrationStop .. => migrationStop _ | .worldSwitch .. => worldSwitch _ _ _ | .counterSteal .. => counterSteal _ _
  | .counterReturn .. => counterReturn _ _ | .calendarWrite .. => calendarWrite _ _ | .calendarAdopt .. => calendarAdopt _
  | .patrolScrub .. => patrolScrub _ _ _ | .deviceReset .. => deviceReset | .dieReset .. => dieReset _
  | .heartbeatSend .. => heartbeatSend | .heartbeatMiss .. => heartbeatMiss _ _
  | .fenceDirectoryScrub .. => fenceDirectoryScrub _ | .fabricPacketReceive .. => fabricPacketReceive _ _ _ _
  | .fabricAckReceive .. => fabricAckReceive _ _ | .fabricCompletionReceive .. => fabricCompletionReceive _ _ _
  | .portFail .. => portFail _ | .linkRetrainDone .. => linkRetrainDone _ | .linkRetrainRequest .. => linkRetrainRequest _ _
  | .portStatusRefresh .. => portStatusRefresh _ | .portWarnClear .. => portWarnClear _ _ | .rdmaSend .. => rdmaSend _ _
  | .rdmaSendImmediate .. => rdmaSendImmediate _ _ _ | .rdmaWrite .. => rdmaWrite _ _
  | .rdmaWriteImmediate .. => rdmaWriteImmediate _ _ _ | .rdmaRead .. => rdmaRead _ _
  | .rdmaCompareSwap .. => rdmaCompareSwap _ _ _ | .rdmaFetchAdd .. => rdmaFetchAdd _ _ | .ecnMark .. => ecnMark _
  | .powerOn .. => powerOn _ _ | .bootRetry .. => bootRetry _ | .attestationQuote .. => attestationQuote _
  | .measurementExtend .. => measurementExtend _ _ | .telemetryReport .. => telemetryReport _ _
  | .clockGovern .. => clockGovern _ | .stopRequest .. => stopRequest _ | .stopResume .. => stopResume
  | .energyWeightWrite .. => energyWeightWrite _ _ _ | .registerWrite .. => registerWrite _
  | .systemCoreMemoryAccess .. => systemCoreMemoryAccess _ _ | .pcieDmaAccess .. => pcieDmaAccess _
  | .heartbeatReceive .. => heartbeatReceive _ _ | .peerReadmission .. => peerReadmission _
  | .residenceEnergyCharge .. => residenceEnergyCharge _ | .execTimeCharge .. => execTimeCharge _

end Sys2Proof.Laws.Encoding

namespace Sys2Proof

/-! ## A word is that of some fields where its fields are those -/

section

variable {w : Word}

theorem wordR_eq_iff {x0 : BitVec 6} {x1 : BitVec 4} {x2 x3 x4 : BitVec 6} {x5 : BitVec 1} {x6 : BitVec 3} :
    wordR x0 x1 x2 x3 x4 x5 x6 = w ↔ fld w 26 6 = x0 ∧ fld w 22 4 = x1 ∧ fld w 16 6 = x2 ∧ fld w 10 6 = x3 ∧ fld w 4 6 = x4
      ∧ fld w 3 1 = x5 ∧ fld w 0 3 = x6 := by
  constructor
  · rintro rfl
    simp
  · rintro ⟨rfl, rfl, rfl, rfl, rfl, rfl, rfl⟩
    exact wordR_fields w

theorem wordP_eq_iff {x0 : BitVec 6} {x1 : BitVec 4} {x2 : BitVec 1} {x3 : BitVec 2} {x4 : BitVec 3} {x5 x6 : BitVec 6}
    {x7 : BitVec 1} {x8 : BitVec 3} :
    wordP x0 x1 x2 x3 x4 x5 x6 x7 x8 = w ↔ fld w 26 6 = x0 ∧ fld w 22 4 = x1 ∧ fld w 21 1 = x2 ∧ fld w 19 2 = x3
      ∧ fld w 16 3 = x4 ∧ fld w 10 6 = x5 ∧ fld w 4 6 = x6 ∧ fld w 3 1 = x7 ∧ fld w 0 3 = x8 := by
  constructor
  · rintro rfl
    simp
  · rintro ⟨rfl, rfl, rfl, rfl, rfl, rfl, rfl, rfl, rfl⟩
    exact wordP_fields w

theorem wordI_eq_iff {x0 : BitVec 6} {x1 : BitVec 4} {x2 x3 : BitVec 6} {x4 : BitVec 10} :
    wordI x0 x1 x2 x3 x4 = w ↔ fld w 26 6 = x0 ∧ fld w 22 4 = x1 ∧ fld w 16 6 = x2 ∧ fld w 10 6 = x3 ∧ fld w 0 10 = x4 := by
  constructor
  · rintro rfl
    simp
  · rintro ⟨rfl, rfl, rfl, rfl, rfl⟩
    exact wordI_fields w

theorem wordKs_eq_iff {x0 : BitVec 6} {x1 : BitVec 4} {x2 x3 : BitVec 6} {x4 : BitVec 3} {x5 : BitVec 2} {x6 : BitVec 5} :
    wordKs x0 x1 x2 x3 x4 x5 x6 = w ↔ fld w 26 6 = x0 ∧ fld w 22 4 = x1 ∧ fld w 16 6 = x2 ∧ fld w 10 6 = x3
      ∧ fld w 7 3 = x4 ∧ fld w 5 2 = x5 ∧ fld w 0 5 = x6 := by
  constructor
  · rintro rfl
    simp
  · rintro ⟨rfl, rfl, rfl, rfl, rfl, rfl, rfl⟩
    exact wordKs_fields w

theorem wordK_eq_iff {x0 : BitVec 6} {x1 : BitVec 4} {x2 x3 : BitVec 6} {x4 : BitVec 3} {x5 : BitVec 7} :
    wordK x0 x1 x2 x3 x4 x5 = w ↔ fld w 26 6 = x0 ∧ fld w 22 4 = x1 ∧ fld w 16 6 = x2 ∧ fld w 10 6 = x3 ∧ fld w 7 3 = x4
      ∧ fld w 0 7 = x5 := by
  constructor
  · rintro rfl
    simp
  · rintro ⟨rfl, rfl, rfl, rfl, rfl, rfl⟩
    exact wordK_fields w

theorem wordS2v_eq_iff {x0 : BitVec 6} {x1 : BitVec 4} {x2 : BitVec 6} {x3 : BitVec 1} {x4 : BitVec 5} {x5 : BitVec 6}
    {x6 : BitVec 1} {x7 : BitVec 3} :
    wordS2v x0 x1 x2 x3 x4 x5 x6 x7 = w ↔ fld w 26 6 = x0 ∧ fld w 22 4 = x1 ∧ fld w 16 6 = x2 ∧ fld w 15 1 = x3
      ∧ fld w 10 5 = x4 ∧ fld w 4 6 = x5 ∧ fld w 3 1 = x6 ∧ fld w 0 3 = x7 := by
  constructor
  · rintro rfl
    simp
  · rintro ⟨rfl, rfl, rfl, rfl, rfl, rfl, rfl, rfl⟩
    exact wordS2v_fields w

theorem wordV2s_eq_iff {x0 : BitVec 6} {x1 : BitVec 4} {x2 : BitVec 1} {x3 : BitVec 5} {x4 x5 : BitVec 6} {x6 : BitVec 1}
    {x7 : BitVec 3} :
    wordV2s x0 x1 x2 x3 x4 x5 x6 x7 = w ↔ fld w 26 6 = x0 ∧ fld w 22 4 = x1 ∧ fld w 21 1 = x2 ∧ fld w 16 5 = x3
      ∧ fld w 10 6 = x4 ∧ fld w 4 6 = x5 ∧ fld w 3 1 = x6 ∧ fld w 0 3 = x7 := by
  constructor
  · rintro rfl
    simp
  · rintro ⟨rfl, rfl, rfl, rfl, rfl, rfl, rfl, rfl⟩
    exact wordV2s_fields w

theorem wordS_eq_iff {x0 : BitVec 6} {x1 : BitVec 4} {x2 x3 x4 : BitVec 5} {x5 : BitVec 3} {x6 : BitVec 4} :
    wordS x0 x1 x2 x3 x4 x5 x6 = w ↔ fld w 26 6 = x0 ∧ fld w 22 4 = x1 ∧ fld w 17 5 = x2 ∧ fld w 12 5 = x3 ∧ fld w 7 5 = x4
      ∧ fld w 4 3 = x5 ∧ fld w 0 4 = x6 := by
  constructor
  · rintro rfl
    simp
  · rintro ⟨rfl, rfl, rfl, rfl, rfl, rfl, rfl⟩
    exact wordS_fields w

theorem wordSi_eq_iff {x0 : BitVec 6} {x1 : BitVec 4} {x2 x3 : BitVec 5} {x4 : BitVec 12} :
    wordSi x0 x1 x2 x3 x4 = w ↔ fld w 26 6 = x0 ∧ fld w 22 4 = x1 ∧ fld w 17 5 = x2 ∧ fld w 12 5 = x3 ∧ fld w 0 12 = x4 := by
  constructor
  · rintro rfl
    simp
  · rintro ⟨rfl, rfl, rfl, rfl, rfl⟩
    exact wordSi_fields w

theorem wordSb_eq_iff {x0 : BitVec 6} {x1 : BitVec 4} {x2 x3 : BitVec 5} {x4 : BitVec 12} :
    wordSb x0 x1 x2 x3 x4 = w ↔ fld w 26 6 = x0 ∧ fld w 22 4 = x1 ∧ fld w 17 5 = x2 ∧ fld w 12 5 = x3 ∧ fld w 0 12 = x4 := by
  constructor
  · rintro rfl
    simp
  · rintro ⟨rfl, rfl, rfl, rfl, rfl⟩
    exact wordSb_fields w

theorem wordJ_eq_iff {x0 : BitVec 6} {x1 : BitVec 4} {x2 : BitVec 22} :
    wordJ x0 x1 x2 = w ↔ fld w 26 6 = x0 ∧ fld w 22 4 = x1 ∧ fld w 0 22 = x2 := by
  constructor
  · rintro rfl
    simp
  · rintro ⟨rfl, rfl, rfl⟩
    exact wordJ_fields w

theorem wordX_eq_iff {x0 : BitVec 6} {x1 : BitVec 4} {x2 x3 x4 : BitVec 5} {x5 : BitVec 3} {x6 : BitVec 4} :
    wordX x0 x1 x2 x3 x4 x5 x6 = w ↔ fld w 26 6 = x0 ∧ fld w 22 4 = x1 ∧ fld w 17 5 = x2 ∧ fld w 12 5 = x3 ∧ fld w 7 5 = x4
      ∧ fld w 4 3 = x5 ∧ fld w 0 4 = x6 := by
  constructor
  · rintro rfl
    simp
  · rintro ⟨rfl, rfl, rfl, rfl, rfl, rfl, rfl⟩
    exact wordX_fields w

theorem wordL_eq_iff {x0 : BitVec 6} {x1 : BitVec 4} {x2 : BitVec 1} {x3 : BitVec 5} {x4 : BitVec 4} {x5 : BitVec 12} :
    wordL x0 x1 x2 x3 x4 x5 = w ↔ fld w 26 6 = x0 ∧ fld w 22 4 = x1 ∧ fld w 21 1 = x2 ∧ fld w 16 5 = x3 ∧ fld w 12 4 = x4
      ∧ fld w 0 12 = x5 := by
  constructor
  · rintro rfl
    simp
  · rintro ⟨rfl, rfl, rfl, rfl, rfl, rfl⟩
    exact wordL_fields w

theorem wordLi_eq_iff {x0 : BitVec 6} {x1 : BitVec 4} {x2 : BitVec 1} {x3 : BitVec 10} {x4 : BitVec 11} :
    wordLi x0 x1 x2 x3 x4 = w ↔ fld w 26 6 = x0 ∧ fld w 22 4 = x1 ∧ fld w 21 1 = x2 ∧ fld w 11 10 = x3 ∧ fld w 0 11 = x4 := by
  constructor
  · rintro rfl
    simp
  · rintro ⟨rfl, rfl, rfl, rfl, rfl⟩
    exact wordLi_fields w

theorem wordM_eq_iff {x0 : BitVec 6} {x1 : BitVec 4} {x2 x3 : BitVec 6} {x4 : BitVec 7} {x5 : BitVec 3} :
    wordM x0 x1 x2 x3 x4 x5 = w ↔ fld w 26 6 = x0 ∧ fld w 22 4 = x1 ∧ fld w 16 6 = x2 ∧ fld w 10 6 = x3 ∧ fld w 3 7 = x4
      ∧ fld w 0 3 = x5 := by
  constructor
  · rintro rfl
    simp
  · rintro ⟨rfl, rfl, rfl, rfl, rfl, rfl⟩
    exact wordM_fields w

theorem wordX1_eq_iff {x0 : BitVec 6} {x1 : BitVec 4} {x2 x3 x4 : BitVec 5} {x5 x6 : BitVec 3} {x7 : BitVec 1} :
    wordX1 x0 x1 x2 x3 x4 x5 x6 x7 = w ↔ fld w 26 6 = x0 ∧ fld w 22 4 = x1 ∧ fld w 17 5 = x2 ∧ fld w 12 5 = x3
      ∧ fld w 7 5 = x4 ∧ fld w 4 3 = x5 ∧ fld w 1 3 = x6 ∧ fld w 0 1 = x7 := by
  constructor
  · rintro rfl
    simp
  · rintro ⟨rfl, rfl, rfl, rfl, rfl, rfl, rfl, rfl⟩
    exact wordX1_fields w

theorem wordH_eq_iff {x0 : BitVec 6} {x1 : BitVec 4} {x2 : BitVec 22} :
    wordH x0 x1 x2 = w ↔ fld w 26 6 = x0 ∧ fld w 22 4 = x1 ∧ fld w 0 22 = x2 := by
  constructor
  · rintro rfl
    simp
  · rintro ⟨rfl, rfl, rfl⟩
    exact wordH_fields w

theorem wordHstall_eq_iff {x0 : BitVec 6} {x1 : BitVec 4} {x2 : BitVec 10} {x3 x4 : BitVec 6} :
    wordHstall x0 x1 x2 x3 x4 = w ↔ fld w 26 6 = x0 ∧ fld w 22 4 = x1 ∧ fld w 12 10 = x2 ∧ fld w 6 6 = x3 ∧ fld w 0 6 = x4 := by
  constructor
  · rintro rfl
    simp
  · rintro ⟨rfl, rfl, rfl, rfl, rfl⟩
    exact wordHstall_fields w

theorem wordHmod_eq_iff {x0 : BitVec 6} {x1 : BitVec 4} {x2 : BitVec 15} {x3 : BitVec 2} {x4 x5 x6 : BitVec 1} {x7 : BitVec 2} :
    wordHmod x0 x1 x2 x3 x4 x5 x6 x7 = w ↔ fld w 26 6 = x0 ∧ fld w 22 4 = x1 ∧ fld w 7 15 = x2 ∧ fld w 5 2 = x3
      ∧ fld w 4 1 = x4 ∧ fld w 3 1 = x5 ∧ fld w 2 1 = x6 ∧ fld w 0 2 = x7 := by
  constructor
  · rintro rfl
    simp
  · rintro ⟨rfl, rfl, rfl, rfl, rfl, rfl, rfl, rfl⟩
    exact wordHmod_fields w

theorem wordHcoord_eq_iff {x0 : BitVec 6} {x1 : BitVec 4} {x2 : BitVec 2} {x3 x4 x5 x6 : BitVec 5} :
    wordHcoord x0 x1 x2 x3 x4 x5 x6 = w ↔ fld w 26 6 = x0 ∧ fld w 22 4 = x1 ∧ fld w 20 2 = x2 ∧ fld w 15 5 = x3
      ∧ fld w 10 5 = x4 ∧ fld w 5 5 = x5 ∧ fld w 0 5 = x6 := by
  constructor
  · rintro rfl
    simp
  · rintro ⟨rfl, rfl, rfl, rfl, rfl, rfl, rfl⟩
    exact wordHcoord_fields w

/-- A field as the decoder reads it, as a number. -/
theorem fld_eq_iff {lo n : Nat} {x : BitVec n} : fld w lo n = x ↔ (fld w lo n).toNat = x.toNat := BitVec.toNat_inj.symm

end

/-! ## What a branch of the decoder answers -/

/-- If the decoder answers an instruction for a word, the word is that of the instruction. -/
def Encodes (w : Word) (r : Except DecodeError Instr) : Prop := ∀ i, r = .ok i → encode i = some w

section

variable {w : Word}

@[simp] theorem encodes_ok_iff {i : Instr} : Encodes w (.ok i) ↔ encode i = some w := by
  constructor
  · exact fun h => h i rfl
  · rintro h j ⟨rfl⟩
    exact h

@[simp] theorem encodes_error (e : DecodeError) : Encodes w (.error e) := nofun

@[simp] theorem encodes_ite_iff {c : Prop} [Decidable c] {x y : Except DecodeError Instr} :
    Encodes w (if c then x else y) ↔ (c → Encodes w x) ∧ (¬ c → Encodes w y) := by
  by_cases hc : c
  · simp [hc]
  · simp [hc]

/-! ### Each major: the cases are its FN values, and in each the instruction's word is compared with `w` field by field -/

theorem encodes_decode00 (hmaj : (fld w 26 6).toNat = 0x00) : Encodes w (decode00 w) := by
  unfold decode00
  split <;> simp [encode.eq_def, wordR_eq_iff, fld_eq_iff, *]

theorem encodes_decode01 (hmaj : (fld w 26 6).toNat = 0x01) : Encodes w (decode01 w) := by
  unfold decode01
  split <;> simp [encode.eq_def, wordR_eq_iff, fld_eq_iff, *]

theorem encodes_decode02 (hmaj : (fld w 26 6).toNat = 0x02) : Encodes w (decode02 w) := by
  unfold decode02
  split <;> simp [encode.eq_def, wordR_eq_iff, fld_eq_iff, *]

theorem encodes_decode03 (hmaj : (fld w 26 6).toNat = 0x03) : Encodes w (decode03 w) := by
  unfold decode03
  split <;> simp [encode.eq_def, wordR_eq_iff, fld_eq_iff, *]

theorem encodes_decode04 (hmaj : (fld w 26 6).toNat = 0x04) : Encodes w (decode04 w) := by
  unfold decode04
  split <;> simp [encode.eq_def, wordP_eq_iff, fld_eq_iff, *]

theorem encodes_decode05 (hmaj : (fld w 26 6).toNat = 0x05) : Encodes w (decode05 w) := by
  unfold decode05
  simp [encode.eq_def, wordR_eq_iff, fld_eq_iff, *]

theorem encodes_decode06 (hmaj : (fld w 26 6).toNat = 0x06) : Encodes w (decode06 w) := by
  unfold decode06
  simp [encode.eq_def, wordI_eq_iff, fld_eq_iff, *]

theorem encodes_decode07 (hmaj : (fld w 26 6).toNat = 0x07) : Encodes w (decode07 w) := by
  unfold decode07
  split <;> simp [encode.eq_def, wordKs_eq_iff, wordK_eq_iff, fld_eq_iff, *]

theorem encodes_decode08 (hmaj : (fld w 26 6).toNat = 0x08) : Encodes w (decode08 w) := by
  unfold decode08
  split <;> simp [encode.eq_def, wordR_eq_iff, fld_eq_iff, *]

theorem encodes_decode09 (hmaj : (fld w 26 6).toNat = 0x09) : Encodes w (decode09 w) := by
  unfold decode09
  split <;> simp [encode.eq_def, wordP_eq_iff, fld_eq_iff, *]

theorem encodes_decode0A (hmaj : (fld w 26 6).toNat = 0x0A) : Encodes w (decode0A w) := by
  unfold decode0A
  split <;> simp [encode.eq_def, wordR_eq_iff, fld_eq_iff, *]

theorem encodes_decode0B (hmaj : (fld w 26 6).toNat = 0x0B) : Encodes w (decode0B w) := by
  unfold decode0B
  split <;> simp [encode.eq_def, wordR_eq_iff, fld_eq_iff, *]

theorem encodes_decode0C (hmaj : (fld w 26 6).toNat = 0x0C) : Encodes w (decode0C w) := by
  unfold decode0C
  split <;> simp [encode.eq_def, wordR_eq_iff, fld_eq_iff, *]

theorem encodes_decode0D (hmaj : (fld w 26 6).toNat = 0x0D) : Encodes w (decode0D w) := by
  unfold decode0D
  simp [encode.eq_def, wordR_eq_iff, fld_eq_iff, *]

theorem encodes_decode0E (hmaj : (fld w 26 6).toNat = 0x0E) : Encodes w (decode0E w) := by
  unfold decode0E
  split <;> simp [encode.eq_def, wordR_eq_iff, fld_eq_iff, *]

theorem encodes_decode10 (hmaj : (fld w 26 6).toNat = 0x10) : Encodes w (decode10 w) := by
  unfold decode10
  split <;> simp [encode.eq_def, wordR_eq_iff, wordP_eq_iff, fld_eq_iff, *]

theorem encodes_decode11 (hmaj : (fld w 26 6).toNat = 0x11) : Encodes w (decode11 w) := by
  unfold decode11
  split <;> simp [encode.eq_def, wordR_eq_iff, wordP_eq_iff, wordS2v_eq_iff, wordV2s_eq_iff, fld_eq_iff, *]

theorem encodes_decode12 (hmaj : (fld w 26 6).toNat = 0x12) : Encodes w (decode12 w) := by
  unfold decode12
  split <;> simp [encode.eq_def, wordS_eq_iff, fld_eq_iff, *]

theorem encodes_decode13 (hmaj : (fld w 26 6).toNat = 0x13) : Encodes w (decode13 w) := by
  unfold decode13
  simp [encode.eq_def, wordSi_eq_iff, fld_eq_iff, *]

theorem encodes_decode14 (hmaj : (fld w 26 6).toNat = 0x14) : Encodes w (decode14 w) := by
  unfold decode14
  split <;> simp [encode.eq_def, wordS_eq_iff, fld_eq_iff, *]

theorem encodes_decode15 (hmaj : (fld w 26 6).toNat = 0x15) : Encodes w (decode15 w) := by
  unfold decode15
  simp [encode.eq_def, wordSb_eq_iff, fld_eq_iff, *]

theorem encodes_decode16 (hmaj : (fld w 26 6).toNat = 0x16) : Encodes w (decode16 w) := by
  unfold decode16
  simp [encode.eq_def, wordSi_eq_iff, fld_eq_iff, *]

theorem encodes_decode18 (hmaj : (fld w 26 6).toNat = 0x18) : Encodes w (decode18 w) := by
  unfold decode18
  simp [encode.eq_def, wordJ_eq_iff, fld_eq_iff, *]

theorem encodes_decode19 (hmaj : (fld w 26 6).toNat = 0x19) : Encodes w (decode19 w) := by
  unfold decode19
  simp [encode.eq_def, wordJ_eq_iff, fld_eq_iff, *]

theorem encodes_decode1A (hmaj : (fld w 26 6).toNat = 0x1A) : Encodes w (decode1A w) := by
  unfold decode1A
  split <;> simp [encode.eq_def, wordR_eq_iff, fld_eq_iff, *]

theorem encodes_decode1B (hmaj : (fld w 26 6).toNat = 0x1B) : Encodes w (decode1B w) := by
  unfold decode1B
  split <;> simp [encode.eq_def, wordX_eq_iff, fld_eq_iff, *]

theorem encodes_decode1C (hmaj : (fld w 26 6).toNat = 0x1C) : Encodes w (decode1C w) := by
  unfold decode1C
  simp [encode.eq_def, wordL_eq_iff, fld_eq_iff, *]

theorem encodes_decode1D (hmaj : (fld w 26 6).toNat = 0x1D) : Encodes w (decode1D w) := by
  unfold decode1D
  simp [encode.eq_def, wordLi_eq_iff, fld_eq_iff, *]

theorem encodes_decode1E (hmaj : (fld w 26 6).toNat = 0x1E) : Encodes w (decode1E w) := by
  unfold decode1E
  split <;> simp [encode.eq_def, wordX_eq_iff, fld_eq_iff, *]

theorem encodes_decode20 (hmaj : (fld w 26 6).toNat = 0x20) : Encodes w (decode20 w) := by
  unfold decode20
  split <;> simp [encode.eq_def, wordM_eq_iff, fld_eq_iff, *]

theorem encodes_decode21 (hmaj : (fld w 26 6).toNat = 0x21) : Encodes w (decode21 w) := by
  unfold decode21
  split <;> simp [encode.eq_def, wordM_eq_iff, fld_eq_iff, *]

theorem encodes_decode22 (hmaj : (fld w 26 6).toNat = 0x22) : Encodes w (decode22 w) := by
  unfold decode22
  split <;> simp [encode.eq_def, wordM_eq_iff, fld_eq_iff, *]

theorem encodes_decode23 (hmaj : (fld w 26 6).toNat = 0x23) : Encodes w (decode23 w) := by
  unfold decode23
  split <;> simp [encode.eq_def, wordM_eq_iff, fld_eq_iff, *]

theorem encodes_decode24 (hmaj : (fld w 26 6).toNat = 0x24) : Encodes w (decode24 w) := by
  unfold decode24
  split <;> simp [encode.eq_def, wordM_eq_iff, fld_eq_iff, *]

theorem encodes_decode25 (hmaj : (fld w 26 6).toNat = 0x25) : Encodes w (decode25 w) := by
  unfold decode25
  split <;> simp [encode.eq_def, wordM_eq_iff, fld_eq_iff, *]

theorem encodes_decode26 (hmaj : (fld w 26 6).toNat = 0x26) : Encodes w (decode26 w) := by
  unfold decode26
  split <;> simp [encode.eq_def, wordM_eq_iff, fld_eq_iff, *]

theorem encodes_decode27 (hmaj : (fld w 26 6).toNat = 0x27) : Encodes w (decode27 w) := by
  unfold decode27
  split <;> simp [encode.eq_def, wordM_eq_iff, fld_eq_iff, *]

theorem encodes_decode28 (hmaj : (fld w 26 6).toNat = 0x28) : Encodes w (decode28 w) := by
  unfold decode28
  split <;> simp [encode.eq_def, wordX_eq_iff, fld_eq_iff, *]

theorem encodes_decode29 (hmaj : (fld w 26 6).toNat = 0x29) : Encodes w (decode29 w) := by
  unfold decode29
  split <;> simp [encode.eq_def, wordM_eq_iff, fld_eq_iff, *]

theorem encodes_decode2A (hmaj : (fld w 26 6).toNat = 0x2A) : Encodes w (decode2A w) := by
  unfold decode2A
  split <;> simp [encode.eq_def, wordX_eq_iff, fld_eq_iff, *]

theorem encodes_decode2B (hmaj : (fld w 26 6).toNat = 0x2B) : Encodes w (decode2B w) := by
  unfold decode2B
  split <;> simp [encode.eq_def, wordX_eq_iff, fld_eq_iff, *]

theorem encodes_decode2C (hmaj : (fld w 26 6).toNat = 0x2C) : Encodes w (decode2C w) := by
  unfold decode2C
  split <;> simp [encode.eq_def, wordX1_eq_iff, fld_eq_iff, *]

theorem encodes_decode2D (hmaj : (fld w 26 6).toNat = 0x2D) : Encodes w (decode2D w) := by
  unfold decode2D
  split <;> simp [encode.eq_def, wordX_eq_iff, fld_eq_iff, *]

theorem encodes_decode2E (hmaj : (fld w 26 6).toNat = 0x2E) : Encodes w (decode2E w) := by
  unfold decode2E
  split <;> simp [encode.eq_def, wordX1_eq_iff, wordX_eq_iff, fld_eq_iff, *]

theorem encodes_decode2F (hmaj : (fld w 26 6).toNat = 0x2F) : Encodes w (decode2F w) := by
  unfold decode2F
  split <;> simp [encode.eq_def, wordR_eq_iff, fld_eq_iff, *]

theorem encodes_decode30 (hmaj : (fld w 26 6).toNat = 0x30) : Encodes w (decode30 w) := by
  unfold decode30
  split <;> simp [encode.eq_def, wordX_eq_iff, fld_eq_iff, *]

theorem encodes_decode31 (hmaj : (fld w 26 6).toNat = 0x31) : Encodes w (decode31 w) := by
  unfold decode31
  split <;> simp [encode.eq_def, wordX1_eq_iff, wordX_eq_iff, fld_eq_iff, *]

theorem encodes_decode32 (hmaj : (fld w 26 6).toNat = 0x32) : Encodes w (decode32 w) := by
  unfold decode32
  split <;> simp [encode.eq_def, wordX_eq_iff, wordX1_eq_iff, fld_eq_iff, *]

theorem encodes_decode33 (hmaj : (fld w 26 6).toNat = 0x33) : Encodes w (decode33 w) := by
  unfold decode33
  split <;> simp [encode.eq_def, wordX_eq_iff, fld_eq_iff, *]

theorem encodes_decode3F (hmaj : (fld w 26 6).toNat = 0x3F) : Encodes w (decode3F w) := by
  unfold decode3F
  split <;> simp [encode.eq_def, wordH_eq_iff, wordHstall_eq_iff, wordHmod_eq_iff, wordHcoord_eq_iff, fld_eq_iff, *]

end

theorem encodes_decode (w : Word) : Encodes w (decode w) := by
  unfold decode
  split <;> rename_i hmaj
  · exact encodes_decode00 hmaj
  · exact encodes_decode01 hmaj
  · exact encodes_decode02 hmaj
  · exact encodes_decode03 hmaj
  · exact encodes_decode04 hmaj
  · exact encodes_decode05 hmaj
  · exact encodes_decode06 hmaj
  · exact encodes_decode07 hmaj
  · exact encodes_decode08 hmaj
  · exact encodes_decode09 hmaj
  · exact encodes_decode0A hmaj
  · exact encodes_decode0B hmaj
  · exact encodes_decode0C hmaj
  · exact encodes_decode0D hmaj
  · exact encodes_decode0E hmaj
  · exact encodes_decode10 hmaj
  · exact encodes_decode11 hmaj
  · exact encodes_decode12 hmaj
  · exact encodes_decode13 hmaj
  · exact encodes_decode14 hmaj
  · exact encodes_decode15 hmaj
  · exact encodes_decode16 hmaj
  · exact encodes_decode18 hmaj
  · exact encodes_decode19 hmaj
  · exact encodes_decode1A hmaj
  · exact encodes_decode1B hmaj
  · exact encodes_decode1C hmaj
  · exact encodes_decode1D hmaj
  · exact encodes_decode1E hmaj
  · exact encodes_decode20 hmaj
  · exact encodes_decode21 hmaj
  · exact encodes_decode22 hmaj
  · exact encodes_decode23 hmaj
  · exact encodes_decode24 hmaj
  · exact encodes_decode25 hmaj
  · exact encodes_decode26 hmaj
  · exact encodes_decode27 hmaj
  · exact encodes_decode28 hmaj
  · exact encodes_decode29 hmaj
  · exact encodes_decode2A hmaj
  · exact encodes_decode2B hmaj
  · exact encodes_decode2C hmaj
  · exact encodes_decode2D hmaj
  · exact encodes_decode2E hmaj
  · exact encodes_decode2F hmaj
  · exact encodes_decode30 hmaj
  · exact encodes_decode31 hmaj
  · exact encodes_decode32 hmaj
  · exact encodes_decode33 hmaj
  · exact encodes_decode3F hmaj
  · exact encodes_error _

end Sys2Proof

namespace Sys2Proof.Claims

/-- Settles O42: so it is for each constructor of the instructions; an event of the part has no word. -/
theorem encodedDecodes : Obligations.EncodedDecodes := Laws.Encoding.statement_holds

/-- Settles O43: each branch of the decoder that answers an instruction has read all of the word. -/
theorem decodedEncodes : Obligations.DecodedEncodes := fun i w h => encodes_decode w i h

end Sys2Proof.Claims
end

section
/-! 04 R101, R102: words of a reserved major, FN or hint KIND, and instructions with a code outside its range. -/

open Sys2Proof Sys2Proof.Machine Sys2Proof.Claims

namespace Sys2Proof.Claims

theorem decode_of_reservedMajor {w : Word} (hw : (fld w 26 6).toNat ∈ reservedMajors) :
    decode w = .error (.reservedMajor (fld w 26 6).toNat) := by
  unfold decode
  split
  case h_51 => rfl
  all_goals
    next hmaj => simp [hmaj, reservedMajors] at hw

/-- The entry of the list fixes the major; of the branches of that major's decoder, only the last one is left to an FN of the entry. -/
theorem decode_of_reservedFn {w : Word} {r : Nat × Nat × Nat × List Nat} (hr : r ∈ reservedFns) (hmaj : (fld w 26 6).toNat = r.1)
    (hfn : (fld w r.2.1 r.2.2.1).toNat ∈ r.2.2.2) :
    decode w = .error (.reservedFunction r.1 (fld w r.2.1 r.2.2.1).toNat) := by
  simp only [reservedFns, List.mem_cons, List.not_mem_nil, or_false] at hr
  rcases hr with rfl | rfl | rfl | rfl | rfl | rfl | rfl | rfl | rfl | rfl | rfl | rfl | rfl | rfl | rfl | rfl | rfl | rfl | rfl
    | rfl | rfl | rfl
  all_goals
    dsimp only at hmaj hfn ⊢
    unfold decode
    simp only [hmaj, decode07, decode0B, decode0C, decode11, decode14, decode1B, decode1E, decode21, decode25, decode28, decode29,
      decode2A, decode2B, decode2C, decode2D, decode2E, decode2F, decode30, decode31, decode32, decode33, decode3F]
    split
  all_goals simp_all

/-- Settles O44. -/
theorem reservedWords : Obligations.ReservedWords := by
  refine ⟨fun w => decode_of_reservedMajor, fun r hr w => decode_of_reservedFn hr, ?cvt, ?sbr, ?fence⟩
  case cvt =>
    intro p d a c n r hcode
    have hbad : (cvtCode c && decide (r.toNat < 6)) = false := by
      rcases hcode with hcode | hround
      · rw [hcode, Bool.false_and]
      · rw [decide_eq_false (Nat.not_lt.mpr hround), Bool.and_false]
    simp only [Instr.wellFormed, legalForm, Bool.and_assoc, hbad, Bool.and_false]
  case sbr =>
    intro c a b o hc
    have hsix : (c == 6) = false := by
      refine beq_eq_false_iff_ne.mpr ?_
      rintro rfl
      exact absurd hc (by decide)
    have hless : decide (c.toNat < 6) = false := decide_eq_false (by omega)
    simp only [Instr.wellFormed, legalForm, hsix, hless, Bool.false_and, Bool.or_false]
  case fence =>
    intro p e he
    have hscope : decide (e.toNat < 6) = false := decide_eq_false (Nat.not_lt.mpr he)
    exact ⟨hscope, hscope, hscope, hscope⟩

end Sys2Proof.Claims
end

section
/-! 04 R96, R100, R103: the hint words, and how long an HSTALL holds its path. -/

open Sys2Proof Sys2Proof.Machine Sys2Proof.Claims

namespace Sys2Proof.Machine

theorem field_eq_toNat_fld (w : Word) (lo n : Nat) : field w lo n = (fld w lo n).toNat := by
  simp [field, fld]

theorem field_bit_iff (w : Word) (lo n : Nat) {k : Nat} (hk : k < n) :
    field w (lo + k) 1 = 1 ↔ (fld w lo n).getLsbD k = true := by
  rw [fld, BitVec.getLsbD_ofNat, Nat.testBit_div_two_pow, Nat.testBit_eq_decide_div_mod_eq]
  simp [field, hk, Nat.add_comm]

/-- The payload holds for STALL cycles, and for what the WAIT bits 0 (loads), 4 (stores) and 5 (tokens) name. -/
theorem payloadHolds_wordHstall_iff (v : Warp) (now : Nat) (g : BitVec 10) (wait stall : BitVec 6) :
    v.payloadHolds now (wordHstall 0x3F 1 g wait stall) = true ↔
      now ≤ v.lastIssue + stall.toNat
        ∨ (wait.getLsbD 0 = true ∧ v.outstanding MemOp.isLoad = true)
        ∨ (wait.getLsbD 4 = true ∧ v.outstanding MemOp.isStore = true)
        ∨ (wait.getLsbD 5 = true ∧ v.pend ≠ []) := by
  have hstall : field (wordHstall 0x3F 1 g wait stall) 0 6 = stall.toNat := by
    rw [field_eq_toNat_fld, wordHstall_0_6]
  have hwait : ∀ {k : Nat}, k < 6 → (field (wordHstall 0x3F 1 g wait stall) (6 + k) 1 = 1 ↔ wait.getLsbD k = true) := by
    intro k hk
    rw [field_bit_iff _ 6 6 hk, wordHstall_6_6]
  have hload := hwait (k := 0) (by decide)
  have hstore := hwait (k := 4) (by decide)
  have htoken := hwait (k := 5) (by decide)
  simp only [Warp.payloadHolds, hstall, Bool.or_eq_true, Bool.and_eq_true, decide_eq_true_eq, beq_iff_eq, or_assoc, hload, hstore,
    htoken, Bool.not_eq_true', ne_eq, List.isEmpty_eq_false_iff]

theorem hstall_of_lastHint {s : State} {c : Cand} {r : Region} {e : Nat × Word} {g : BitVec 10} {wait stall : BitVec 6}
    (hlead : ∀ n, c.u ≠ .trail n) (hlast : c.w.hints.getLast? = some (wordHstall 0x3F 1 g wait stall)) :
    s.hstall c r e = (!(s.block? c.blk).any (fun b => b.ctx.interlocked)
      && c.w.payloadHolds s.now (wordHstall 0x3F 1 g wait stall) && s.executes c r e) := by
  have hkind : (field (wordHstall 0x3F 1 g wait stall) 22 4 == 1) = true := by
    rw [field_eq_toNat_fld, wordHstall_22_4]
    rfl
  cases hu : c.u with
  | trail n => exact absurd hu (hlead n)
  | warp n => simp only [State.hstall, hu, hlast, hkind, Bool.true_and]
  | front => simp only [State.hstall, hu, hlast, hkind, Bool.true_and]

end Sys2Proof.Machine

namespace Sys2Proof.Claims

theorem hintGives_of_hintWord {instr : Instr} {x : Word} (h : ∀ s, exec instr s = s.hintWord x) : HintGives instr x := by
  intro s i hissuer
  rw [h, State.hintWord, hissuer]

/-- Settles O29: each of the four is `State.hintWord` of its word. -/
theorem hintWords : Obligations.HintWords :=
  ⟨fun _ => hintGives_of_hintWord fun _ => rfl, fun _ _ _ => hintGives_of_hintWord fun _ => rfl,
    fun _ _ _ _ _ => hintGives_of_hintWord fun _ => rfl, fun _ _ _ _ => hintGives_of_hintWord fun _ => rfl⟩

/-- Settles O60. -/
theorem hstallHolds : Obligations.HstallHolds := by
  intro s c r e g wait stall hlead hlast
  rw [hstall_of_lastHint hlead hlast, Bool.and_eq_true, Bool.and_eq_true, payloadHolds_wordHstall_iff, Bool.not_eq_true', and_assoc,
    and_comm (b := s.executes c r e = true)]

end Sys2Proof.Claims
end

section
/-! 04 R88, R102; 05 R133: a word that holds no instruction, and a word with no active lane. -/

open Sys2Proof Sys2Proof.Machine Sys2Proof.Claims

namespace Sys2Proof.Machine

/-! ## A word that holds no instruction -/

section

variable {s : State} {a : Attr} {i : Iss} {ws : List Word}

theorem badWord_of_active {w : Word} (hhint : isHintWord w = false) (hj : Judged s (badAttr w) i ws) :
    s.badWord w = s.issue (badAttr w) always never (straight (fun _ s => s)) := by
  have hact : (i.act == 0) = false := beq_eq_false_iff_ne.mpr hj.active
  simp only [State.badWord, hhint, hj.issuer, hact, Bool.and_false, Bool.false_eq_true, if_false]

/-- Legality is judged before all that may hold a word, but the lag of a pair and an access to issue again. -/
theorem judge_of_illegal {extra stall : Iss → State → Bool} (hj : Judged s a i ws) (hlegal : a.legal = false) :
    s.judge i a extra stall = (.refuse (i.chainWith a ws).1 Cause.ILLEGAL 0, s) := by
  unfold State.judge
  rw [hj.ahead]
  dsimp only
  rw [if_neg (by simp [hj.lag, hj.reissues]), if_neg hj.active, if_pos (by simp [Iss.legal, hlegal])]

theorem issue_of_illegal {extra stall : Iss → State → Bool} {body : Iss → State → State × Word} (hj : Judged s a i ws)
    (hlegal : a.legal = false) :
    s.issue a extra stall body = .next (s.refuse i (a.past i) (i.chainWith a ws).1 Cause.ILLEGAL) := by
  have hleading := hj.leading
  rw [State.issue, hj.issuer]
  simp only [judge_of_illegal hj hlegal]
  cases hu : i.u with
  | trail n => simp [Iss.trailing, hu] at hleading
  | warp n => rfl
  | front => rfl

end

/-! ## A LOOP on a path of no lanes -/

/-- LOOP with SA = 0 and the end of its body 4 words ahead. -/
def loopOverFour : Word := wordL 0x1C 7 0 0 0 4

theorem decode_loopOverFour : decode loopOverFour = .ok (.loop 0 0 4) := Laws.Encoding.loop 0 0 4 loopOverFour rfl

/-- The translation of the first page, at which a region without a code base has its code. -/
def firstPage : Leaf :=
  { part := 0, size := 0, page := 0, base := 0, r := true, w := true, x := true, t := false, d := true, hdie := 0, hdev := 0 }

/-- A front thread issues for a path of no lanes; die 0 holds the translation of its code, and core 0 does not yet. -/
def emptyPath : State :=
  { cur := some { block := 0, unit := .front, lanes := 0 }
    blocks := [(0, { regid := 0, core := 0 })], regions := [(0, { part := 0 })]
    dies := [(0, { tlb := [firstPage] })], parts := [(0, { carveOuts := [(0, 0, 2 ^ 16)] })] }

/-- LOOP has no active lane there. -/
theorem emptyPath_issuer : ∃ i, emptyPath.issuer (predOf loopOverFour) = some i ∧ i.u = .front ∧ i.act = 0 ∧ i.r.check = false
    ∧ i.reissues = false := ⟨_, rfl, rfl, rfl, rfl, rfl⟩

/-- LOOP looks for the end of its body before it is judged: core 0 keeps the translation that this takes. -/
theorem emptyPath_exec_loop : ∃ t, exec (.loop 0 0 4) emptyPath = .next t ∧ (t.core 0).tlb = [firstPage] := ⟨_, rfl, rfl⟩

end Sys2Proof.Machine

namespace Sys2Proof.Claims

/-- Settles O46: such a word is issued as one that is not legal, and legality comes first. -/
theorem illegalWords : Obligations.IllegalWords := by
  intro s w e i ws hdec hhint hj
  rw [State.runWord, hdec]
  exact (badWord_of_active hhint hj).trans (issue_of_illegal hj rfl)

/-- Refutes O47, by a LOOP on a path of no lanes, which the statement does not exclude. Its predicate leaves it no active lane; but it
looks for the end of its body all the same, and the translation of that word enters the TLB of the core. -/
theorem not_inactiveWords : ¬ Obligations.InactiveWords := by
  intro h
  obtain ⟨i, hissuer, hfront, hact, hcheck, hreissues⟩ := emptyPath_issuer
  have hleading : i.trailing = false := by rw [Iss.trailing, hfront]
  have hahead : emptyPath.ahead i = (.words [], emptyPath) := by rw [State.ahead, hfront]
  obtain ⟨t, hrun, -, honly⟩ := h emptyPath loopOverFour i [] rfl (by decide) hissuer hact hcheck hleading hreissues hahead
  obtain ⟨u, hexec, hfilled⟩ := emptyPath_exec_loop
  rw [State.runWord, decode_loopOverFour] at hrun
  obtain rfl : u = t := Host.Outcome.next.inj (hexec.symm.trans hrun)
  have hkept : (u.core 0).tlb = (emptyPath.core 0).tlb :=
    congrArg Core.tlb (a₁ := (u.core 0).uncounted) (a₂ := (emptyPath.core 0).uncounted) (honly.cores 0)
  rw [hfilled] at hkept
  exact List.cons_ne_nil _ _ hkept

end Sys2Proof.Claims
end

section
/-! 05 R105 to R133, 08 R198, 12 R291: the control words, each a short use of the rule for a word that nothing holds; and the timeouts
of issue. -/

open Sys2Proof Sys2Proof.Machine Sys2Proof.Claims

namespace Sys2Proof.Machine

variable {s : State} {a : Attr} {i : Iss} {extra stall : Iss → State → Bool} {ws : List Word}

/-! ## Control words -/

/-- A word whose own effect leaves the state as it is, is done. -/
theorem Ready.past_of_idle (h : Ready s a i extra stall ws) :
    ∃ t, s.issue a extra stall (straight (fun _ u => u)) = .next t ∧ Past s t i i.w (a.past i) :=
  h.past (g := id) ⟨fun _ _ hw => hw, fun u => .refl u i.blk i.u, fun _ => rfl⟩
    ⟨fun _ _ => rfl, fun _ _ => rfl, fun _ => rfl, fun _ => rfl⟩ (fun _ hw => hw)

/-- The conditions of SBR, as one list (05 R111). -/
theorem sbrTaken_eq_getD (c : BitVec 4) (x y : Word) :
    sbrTaken c x y = [x == y, x != y, decide (x.toInt < y.toInt), decide (y.toInt ≤ x.toInt), decide (x.toNat < y.toNat),
      decide (y.toNat ≤ x.toNat)].getD c.toNat true := by
  unfold sbrTaken
  rcases c.toNat with _ | _ | _ | _ | _ | _ | _ <;> rfl

/-- The condition of an SBR reads the issuing unit alone: where it holds the word is its jump, where it fails the word does nothing. -/
theorem exec_sbr_of_taken {c : BitVec 4} {x y : BitVec 5} {o : BitVec 12} (h : Ready s (sbrAttr c x y) i always never ws)
    (ht : sbrTaken c (i.s x) (i.s y) = true) :
    exec (.sbr c x y o) s = s.issue (sbrAttr c x y) always never
      (fun i u => u.jump i true ((lanesOf i.act).map (fun l => (l, i.target o)))) :=
  h.congr fun _ _ _ => if_pos ht

theorem exec_sbr_of_not_taken {c : BitVec 4} {x y : BitVec 5} {o : BitVec 12} (h : Ready s (sbrAttr c x y) i always never ws)
    (ht : sbrTaken c (i.s x) (i.s y) = false) :
    exec (.sbr c x y o) s = s.issue (sbrAttr c x y) always never (straight (fun _ u => u)) :=
  h.congr fun _ _ _ => if_neg (Bool.eq_false_iff.mp ht)

end Sys2Proof.Machine

namespace Sys2Proof.Claims

theorem branchGives_of_acts {instr : Instr} {a : Attr} {leave link : Bool} {f : Iss → Nat → Nat} {body : Iss → State → State × Word}
    (hpast : ∀ i, a.past i = nextPc i.pc) (hexec : ∀ s, exec instr s = s.issue a always never body)
    (hacts : ∀ i, (∀ l ∈ lanesOf i.act, f i l % 4 = 0 ∧ (leave = true → i.backIn l (f i l) = none)) →
      Acts i body (fun w => (i.gone leave ((lanesOf i.act).map (fun l => (l, f i l))) w).modLanes i.act
        (fun _ x => if link then x.setReg 55 (BitVec.ofNat 32 (nextPc i.pc)) else x)) i.act) :
    BranchGives instr a leave link f := by
  intro s i ws h hgood
  have hbranch := h.branch leave (f i) _ (fun _ x => by split <;> exact ⟨rfl, rfl, rfl⟩) (hacts i hgood)
  rw [hpast] at hbranch
  rw [hexec]
  exact hbranch

theorem branchGives_of_jump {instr : Instr} {a : Attr} {f : Iss → Nat → Nat} (hpast : ∀ i, a.past i = nextPc i.pc)
    (hexec : ∀ s, exec instr s = s.issue a always never (fun i u => u.jump i true ((lanesOf i.act).map (fun l => (l, f i l))))) :
    BranchGives instr a true false f :=
  branchGives_of_acts hpast hexec fun _ hgood => (acts_jump hgood).congr fun _ => rfl

theorem branchGives_of_call {instr : Instr} {a : Attr} {f : Iss → Nat → Nat} (hpast : ∀ i, a.past i = nextPc i.pc)
    (hexec : ∀ s, exec instr s = s.issue a always never (fun i u =>
      let r := u.jump i false ((lanesOf i.act).map (fun l => (l, f i l)))
      (r.1.link i r.2, r.2))) :
    BranchGives instr a false true f :=
  branchGives_of_acts hpast hexec fun _ hgood => (acts_call fun l hl => (hgood l hl).1).congr fun _ => rfl

theorem sbr_past {s : State} {c : BitVec 4} {a b : BitVec 5} {o : BitVec 12} {i : Iss} {ws : List Word}
    (h : Ready s (sbrAttr c a b) i always never ws) (hfails : sbrTaken c (i.s a) (i.s b) = false) :
    ∃ t, exec (.sbr c a b o) s = .next t ∧ Past s t i i.w := by
  rw [exec_sbr_of_not_taken h hfails]
  exact h.past_of_idle

theorem sbr_goes {s : State} {c : BitVec 4} {a b : BitVec 5} {o : BitVec 12} {i : Iss} {ws : List Word}
    (h : Ready s (sbrAttr c a b) i always never ws) (hholds : sbrTaken c (i.s a) (i.s b) = true)
    (halign : i.target o % 4 = 0) (hback : ∀ l ∈ lanesOf i.path, i.backIn l (i.target o) = none) :
    ∃ t, exec (.sbr c a b o) s = .next t ∧ OnlyUnit s t i.blk i.u
      ∧ ∃ w, t.unit? i.blk i.u = some w ∧ w.unissued = i.w.unissued ∧ (∀ l, (w.lane l).unissued = (i.w.lane l).unissued)
        ∧ ∀ l, l < 32 → l < i.w.lanes.length → (i.w.lane l).wait = .none → inMask i.path l = true →
            (w.lane l).pc = i.target o % 2 ^ 32 ∧ (w.lane l).wait = .none := by
  have hact : i.act = i.path := act_path h.issuer
  rw [exec_sbr_of_taken h hholds]
  obtain ⟨t, ht, honly, w, hw, hunit, -, hlanes, hgo⟩ :=
    h.branch true (fun _ => i.target o) (fun _ x => x) (fun _ _ => ⟨rfl, rfl, rfl⟩)
      (body := fun i u => u.jump i true ((lanesOf i.act).map (fun l => (l, i.target o))))
      ((acts_jump fun l hl => ⟨halign, fun _ => hback l (hact ▸ hl)⟩).congr fun _ => rfl)
  refine ⟨t, ht, honly, w, hw, hunit, fun l => ?_, fun l hl hlen hwait hin => ?_⟩
  · rw [hlanes, modLanes_id]
  · exact (hgo l hl hlen hwait).1 (hact ▸ hin)

/-- Settles O11: a branch or call is `State.jump` (with the link), to which `Ready.branch` applies; an SBR is that jump or
nothing. -/
theorem branchTargets : Obligations.BranchTargets := by
  refine ⟨fun p o a => ⟨branchGives_of_jump (fun _ => rfl) fun _ => rfl, branchGives_of_jump (fun _ => rfl) fun _ => rfl,
    branchGives_of_jump (fun _ => rfl) fun _ => rfl, branchGives_of_call (fun _ => rfl) fun _ => rfl,
    branchGives_of_call (fun _ => rfl) fun _ => rfl⟩, ?_⟩
  intro s c a b o i ws h holds
  have hcond : sbrTaken c (i.s a) (i.s b) = holds := sbrTaken_eq_getD c (i.s a) (i.s b)
  have hrun : exec (.sbr c a b o) s = .next _ := h.issue _
  refine ⟨_, hrun, fun hfails => ?_, fun hholds halign hback => ?_⟩
  · obtain ⟨t, ht, hpast⟩ := sbr_past (o := o) h (hcond.trans hfails)
    rwa [Host.Outcome.next.inj (hrun.symm.trans ht)]
  · obtain ⟨t, ht, hgoes⟩ := sbr_goes h (hcond.trans hholds) halign hback
    rwa [Host.Outcome.next.inj (hrun.symm.trans ht)]

/-- An instruction is carried out where `exec` issues it with a body whose effect is `f` in a warp that is no trailing one. -/
theorem carries_of_issue {instr : Instr} {a : Attr} {extra stall : Iss → State → Bool} {body : Iss → State → State × Word}
    {f : Iss → State → State} (hpast : ∀ i, a.past i = nextPc i.pc)
    (hexec : ∀ s, exec instr s = s.issue a extra stall body) (hbody : ∀ i u, i.trailing = false → (body i u).1 = f i u) :
    Carries instr (fun _ => a) extra stall (fun _ => f) := by
  intro s i ws h
  rw [hexec]
  exact h.carries (hpast i) fun u => hbody i u h.leading

theorem carries_of_straight {instr : Instr} {a : Attr} {extra stall : Iss → State → Bool} {f : Iss → State → State}
    (hpast : ∀ i, a.past i = nextPc i.pc) (hexec : ∀ s, exec instr s = s.issue a extra stall (straight f)) :
    Carries instr (fun _ => a) extra stall (fun _ => f) :=
  carries_of_issue hpast hexec fun _ _ _ => rfl

/-- Settles O12: each word is issued with its effect as its body; EXIT's body asks first whether the warp is a trailing one, which a
ready word's is not, and NEXT's whether an entry came back poisoned. -/
theorem flowEffects : Obligations.FlowEffects := by
  intro p a e
  refine ⟨carries_of_issue (fun _ => rfl) (fun _ => rfl) fun i u hlead => ?_, fun s i ws h => ?_, fun s i ws h => h.past_of_idle,
    carries_of_straight (fun _ => rfl) fun _ => rfl, carries_of_straight (fun _ => rfl) fun _ => rfl,
    carries_of_issue (fun _ => rfl) (fun _ => rfl) fun i u _ => ?_⟩
  · simp only [straight, hlead, Bool.false_eq_true, if_false]
  · exact h.unitOnly (g := fun w => { w with yieldLanes := i.path, yielded := true }) (fun _ => rfl) (fun _ => rfl) (fun _ => rfl)
      (fun _ _ hw => congrArg (fun w : Warp => { w with yieldLanes := i.path, yielded := true }) hw)
      ((acts_modUnit i _).congr fun _ => rfl)
  · dsimp only
    split <;> rfl

theorem setGives_of_setOp {instr : Instr} {a : Attr} {e : BitVec 4} {f : Iss → Warp → Warp}
    (hpast : ∀ i, a.past i = nextPc i.pc) (hexec : ∀ s, exec instr s = s.setOp a e f) : SetGives instr a e f :=
  carries_of_straight hpast hexec

/-- Settles O13: each is `State.setOp` of its update, but for JWAIT, whose lanes may fault in between. -/
theorem rejoinSets : Obligations.RejoinSets := fun _ _ _ _ =>
  ⟨setGives_of_setOp (fun _ => rfl) fun _ => rfl, setGives_of_setOp (fun _ => rfl) fun _ => rfl,
    setGives_of_setOp (fun _ => rfl) fun _ => rfl, setGives_of_setOp (fun _ => rfl) fun _ => rfl,
    setGives_of_setOp (fun _ => rfl) fun _ => rfl, carries_of_straight (fun _ => rfl) fun _ => rfl⟩

/-- Settles O15: each word is issued with its effect as its body. -/
theorem barrierWords : Obligations.BarrierWords := fun _ _ _ =>
  ⟨carries_of_straight (fun _ => rfl) fun _ => rfl, carries_of_straight (fun _ => rfl) fun _ => rfl,
    carries_of_straight (fun _ => rfl) fun _ => rfl, carries_of_straight (fun _ => rfl) fun _ => rfl⟩

/-- Settles O32: each event follows the branch of its definition that the hypotheses choose. -/
theorem timeoutEvents : Obligations.TimeoutEvents := by
  refine ⟨?_, ?_, ?_⟩
  · intro s blk unit stamp b w o e still hblock hunit hfind hstill
    have hrun : exec (.ownerTimeoutExpiry blk unit stamp) s = execOwnerTimeoutExpiry blk unit stamp s := rfl
    dsimp only
    cases hview : o.view with
    | none => exact ⟨fun hsite => by simp only [hrun, execOwnerTimeoutExpiry, hblock, hunit, hfind, hstill, hsite, hview],
        fun t hsite => by simp only [hrun, execOwnerTimeoutExpiry, hblock, hunit, hfind, hstill, hsite, hview]⟩
    | some v => exact ⟨fun hsite => by simp only [hrun, execOwnerTimeoutExpiry, hblock, hunit, hfind, hstill, hsite, hview],
        fun t hsite => by simp only [hrun, execOwnerTimeoutExpiry, hblock, hunit, hfind, hstill, hsite, hview]⟩
  · intro s blk warp w hunit horphaned sets
    show execOrphanDetection blk warp s = _
    simp only [execOrphanDetection, hunit, horphaned, Bool.not_true, Bool.false_eq_true, if_false, sets]
  · intro s blk warp stamp b hblock hlive hsince hlag
    show execTrailingLagTimeout blk warp stamp s = _
    simp only [execTrailingLagTimeout, hblock]
    exact if_pos ⟨hlive, hsince, hlag⟩

end Sys2Proof.Claims
end

section
/-! 04 R81, R94, R100; 05 R105, R106, R115: what a path that issues does, and a cycle in which one path alone can. -/

open Sys2Proof Sys2Proof.Machine Sys2Proof.Claims

namespace Sys2Proof.Machine

/-! ## A path's turn -/

variable {s u v : State} {c : Cand} {e : Nat × Word} {r : Region}

/-- The word that a fetch finds is kept, and what it decodes to is carried out for the lanes of the path (14 R384). -/
theorem State.runFetched_of_word {x : Word} {i : Instr}
    (hfetch : { s with stalled := false }.fetch c.core c.regid r e.1 = (.word x, u)) (hdecode : decode x = .ok i) :
    s.runFetched c r e =
      andThen (exec i { u.keepWord c.core c.regid e.1 x with cur := some { block := c.blk, unit := c.u, lanes := e.2 } })
        (fun t => .next { t with cur := none }) := by
  simp only [State.runFetched, hfetch, State.runWord, hdecode]

theorem State.runPath_of_free (hregion : s.region? c.regid = some r) (hfree : s.hstall c r e = false) :
    s.runPath c e = s.runFetched c r e := by
  simp only [State.runPath, hregion, hfree, Bool.false_eq_true, if_false]

theorem State.runPath_of_hstall (hregion : s.region? c.regid = some r) (hheld : s.hstall c r e = true) :
    s.runPath c e = .next s.hold := by
  simp only [State.runPath, hregion, hheld, if_true]

/-- A unit without hint words is held by no HSTALL (04 R100). -/
theorem State.hstall_of_no_hints (hnone : c.w.hints = []) : s.hstall c r e = false := by
  unfold State.hstall
  rw [hnone]
  cases c.u <;> rfl

/-! ## One path alone -/

/-- The one ready path of a unit is its choice, not by age: it is the path to go on with or there is none, no lane stands back,
and its counter is below the limit (05 R106, R115). -/
theorem pathChoice_singleton {w : Warp} {amax : Nat} (hforced : w.forced = 0 ∨ w.forced = e.2) (hyield : w.yieldLanes = 0)
    (hage : w.age.getD 0 e.1 < amax) : pathChoice w amax [e] = some (e, false) := by
  have hyoung : ¬ amax ≤ w.age.getD 0 e.1 := by omega
  unfold pathChoice
  by_cases hnone : w.forced = 0
  · simp [hnone, hyield, hyoung, leastBy]
  · have heq : w.forced = e.2 := hforced.resolve_left hnone
    have hsome : ¬ e.2 = 0#32 := heq ▸ hnone
    simp [heq, hsome]

/-- The one unit that may issue takes the slot for its partition, whatever the calendar names (13 R317). -/
theorem State.tenant_singleton (unit : CalUnit) (slot quad : Nat) : s.tenant unit slot quad [c] = c.part := by
  have hnamed : ∀ p, s.named unit slot [c] = some p → p = c.part := by
    intro p hp
    simp only [State.named, List.any_cons, List.any_nil, Bool.or_false, beq_iff_eq] at hp
    split at hp
    · next h => exact (Option.some.inj hp).symm.trans h.2.symm
    · split at hp
      · next h => exact (Option.some.inj hp).symm.trans h.2.symm
      · cases hp
  unfold State.tenant
  cases hn : s.named unit slot [c] with
  | some p => exact hnamed p hn
  | none => cases hh : c.holds <;> simp [hh, leastBy]

/-- It is its quadrant's choice, though it has yielded (05 R115; 13 R319). -/
theorem State.quadChoice_singleton (unit : CalUnit) (slot quad : Nat) : s.quadChoice unit slot quad [c] = some c := by
  have hrested : (if ([c].filter (fun c => !c.w.yielded)).isEmpty then [c] else [c].filter (fun c => !c.w.yielded)) = [c] := by
    cases hy : c.w.yielded <;> simp [hy]
  have hfirst : (if ([c].filter (fun c => c.cls == 0)).isEmpty then [c] else [c].filter (fun c => c.cls == 0)) = [c] := by
    cases hc : c.cls == 0 <;> simp [hc]
  have hmine : [c].filter (fun d => d.part == c.part) = [c] := by simp
  simp only [State.quadChoice, hrested, State.tenant_singleton, hmine, hfirst]
  cases hh : c.holds <;> simp [hh, leastBy]

theorem State.turns_singleton (hpaths : c.paths = [e]) (hready : s.isReady c e = true)
    (hchoice : pathChoice c.w c.amax [e] = some (e, false)) : s.turns [c] = [(c, [e])] := by
  simp [State.turns, hpaths, hready, hchoice, insertPc, State.quadChoice_singleton]

/-- A path that is ready notes no wait. -/
theorem State.tries_singleton (hpaths : c.paths = [e]) (hready : s.isReady c e = true) : s.tries [c] = [] := by
  have hopen : ∀ x ∈ c.open, s.isReady c x = true := by
    intro x hx
    have hmem : x ∈ c.paths := by
      unfold Cand.open at hx
      split at hx
      · exact hx
      · exact (List.mem_filter.mp hx).1
    rw [hpaths, List.mem_singleton] at hmem
    rw [hmem, hready]
  simp only [State.tries, List.flatMap_cons, List.flatMap_nil, List.append_nil]
  split
  · rfl
  · exact List.filterMap_eq_nil_iff.mpr fun x hx => by rw [hopen x hx]; rfl

/-- Where no step is pending, and one unit's turn is all that can happen, it happens. -/
theorem State.act_of_one_turn {ready : List (Nat × Word)} (hagenda : s.agenda = []) (horphans : s.orphans = [])
    (hturns : s.turns (s.cands.filterMap s.allowed) = [(c, ready)]) (htries : s.tries (s.cands.filterMap s.allowed) = []) :
    s.act = (s.chosen (s.cands.filterMap s.allowed) c).turn c ready := by
  simp [State.act, hagenda, horphans, hturns, htries]

theorem State.turn_of_choice {ready : List (Nat × Word)} (hchoice : pathChoice c.w c.amax ready = some (e, false)) :
    s.turn c ready = (s.modUnit c.blk c.u (fun w => { w.agePaths ready e.1 with yielded := false })).runPath c e := by
  simp only [State.turn, hchoice, Bool.false_eq_true, if_false]

/-- A cycle in which what comes due leaves `u`: the choice is made after time is charged and cycles are counted. -/
theorem step_of_due (hdue : runAll s.tick.2 s.tick.1 = .next u) : step s = u.settle.chargeTime.countCycles.act := by
  show andThen (runAll s.tick.2 s.tick.1) _ = _
  rw [hdue]
  rfl

end Sys2Proof.Machine

namespace Sys2Proof.Claims

/-- Settles O54: a path's turn by the rules for `State.runPath`; and with one candidate, each choice of the cycle (path, quadrant, event)
is among one. -/
theorem stepRunsWord : Obligations.StepRunsWord := by
  refine ⟨fun s u c e r x i hregion hfree hfetch hdecode => ?_, fun s c e r hregion => ⟨State.hstall_of_no_hints, ?_⟩, ?_⟩
  · exact (State.runPath_of_free hregion hfree).trans (State.runFetched_of_word hfetch hdecode)
  · exact State.runPath_of_hstall hregion
  · intro s u c e hdue v hagenda horphans hcands hpaths hforced hyield hage hready
    have hchoice := pathChoice_singleton hforced hyield hage
    have hturns : v.turns (v.cands.filterMap v.allowed) = [(c, [e])] := by
      rw [hcands]
      exact State.turns_singleton hpaths hready hchoice
    have htries : v.tries (v.cands.filterMap v.allowed) = [] := by
      rw [hcands]
      exact State.tries_singleton hpaths hready
    calc step s = v.act := step_of_due hdue
      _ = (v.chosen [c] c).turn c [e] := by rw [State.act_of_one_turn hagenda horphans hturns htries, hcands]
      _ = _ := State.turn_of_choice hchoice

end Sys2Proof.Claims
end

section
/-! 06 R134 to R155: the words that compute in registers alone, each a short use of the rule for a ready word with a vector, a predicate
or a scalar result. -/

open Sys2Proof Sys2Proof.Machine Sys2Proof.Claims

namespace Sys2Proof.Machine

/-! ## Operands and results, as the statements write them -/

theorem pick_slt (x y u v : Word) : pick (x.slt y) u v = if x.toInt < y.toInt then u else v := by
  simp only [pick, BitVec.slt, decide_eq_true_eq]

theorem pick_ult (x y u v : Word) : pick (x.ult y) u v = if x.toNat < y.toNat then u else v := by
  simp only [pick, BitVec.ult, decide_eq_true_eq]

/-- The magnitude of the least integer, 2^31, is that integer's own word (06 R138). -/
theorem pick_neg_eq_natAbs (x : Word) : pick (x.slt 0) (-x) x = BitVec.ofInt 32 x.toInt.natAbs := by
  have hzero : (0 : Word).toInt = 0 := rfl
  rw [pick_slt, hzero]
  by_cases hneg : x.toInt < 0
  · rw [if_pos hneg, Int.ofNat_natAbs_of_nonpos (Int.le_of_lt hneg), BitVec.ofInt_neg, BitVec.ofInt_toInt]
  · rw [if_neg hneg, Int.natAbs_of_nonneg (Int.not_lt.mp hneg), BitVec.ofInt_toInt]

theorem Iss.op64_of_ne {a : BitVec 6} (h : a ≠ 56) (i : Iss) (l : Nat) :
    (i.op64 l a).1 = (i.w.lane l).reg (a.toNat + 1) ++ (i.w.lane l).reg a.toNat := by
  rw [Iss.op64, if_neg h]

theorem pair64_iff (a : BitVec 6) : pair64 a = true ↔ a.toNat + 2 ≤ 56 ∨ a = 56 := by
  simp [pair64, run]

end Sys2Proof.Machine

namespace Sys2Proof.Claims

/-! ## Vector results: O1, O2, O3, O6, O7 -/

theorem VecRow.gives_of_vec {r : VecRow} {f : Iss → Word × Word × Word → Word} {g : Iss → Word × Word × Word → Flags}
    {v : Mods → Word → Word → Word → Nat × Flags}
    (hexec : ∀ s p d a b n, exec (r.op p d a b n) s = s.vec r.maj r.fn r.cls p d a (r.b b) n r.third v)
    (hf : ∀ i x, f i x = BitVec.ofNat 32 (v i.h.mods x.1 x.2.1 x.2.2).1) (hg : ∀ i x, g i x = (v i.h.mods x.1 x.2.1 x.2.2).2) :
    r.Gives f g := by
  intro s p d a b n i ws h
  rw [hexec]
  refine h.vector d n _ _ fun u => ?_
  simp only [hf, hg]
  rfl

theorem VecRow.givesI_of_vecI {r : VecRow} {f : Word → Word → Word → Word} (hcls : r.cls = 0)
    (hexec : ∀ s p d a b n, exec (r.op p d a b n) s = s.vecI r.maj r.fn p d a (r.b b) n r.third f) : r.GivesI f := by
  refine VecRow.gives_of_vec (v := fun _ x y z => ((f x y z).toNat, 0)) ?_ (fun _ x => ?_) fun _ _ => rfl
  · rw [hcls]
    exact hexec
  · rw [BitVec.ofNat_toNat, BitVec.setWidth_eq]

theorem VecRow.givesF_of_vecF {r : VecRow} {f : Mods → Nat → Nat → Nat → Nat × Flags}
    (hexec : ∀ s p d a b n, exec (r.op p d a b n) s = s.vecF r.maj r.fn r.cls p d a (r.b b) n r.third f) : r.GivesF f :=
  VecRow.gives_of_vec hexec (fun _ _ => rfl) fun _ _ => rfl

/-- Each row of the integer operations is `State.vecI` of its function; the minima, the maxima and the magnitudes test by `pick`. -/
theorem exec_of_integerRow : ∀ r ∈ integerRows, ∀ s p d a b n,
    exec (r.1.op p d a b n) s = s.vecI r.1.maj r.1.fn p d a (r.1.b b) n r.1.third r.2 := by
  simp only [integerRows, List.forall_mem_cons, List.not_mem_nil, false_imp_iff, implies_true, and_true]
  refine ⟨?iadd, ?isub, ?imul, ?imad, ?imulhI32, ?imulhN32, ?iaddsI32, ?isubsI32, ?iminI32, ?iminN32, ?imaxI32, ?imaxN32, ?iabsI32,
    ?idiffN32, ?andV, ?orV, ?xorV, ?andn, ?shl, ?shr, ?sar, ?rot, ?popc, ?clz, ?brev, ?bfeI32, ?bfeN32, ?bfi, ?prmt⟩
  all_goals intro s p d a b n
  case iminI32 | imaxI32 =>
    simp only [← pick_slt]
    rfl
  case iminN32 | imaxN32 | idiffN32 =>
    simp only [← pick_ult]
    rfl
  case iabsI32 =>
    simp only [← pick_neg_eq_natAbs]
    rfl
  all_goals rfl

/-- Settles O1, by the rows; all are of energy class 0. -/
theorem integerResults : Obligations.IntegerResults := by
  have hcls : ∀ r ∈ integerRows, r.1.cls = 0 := by decide
  exact fun r hr => VecRow.givesI_of_vecI (hcls r hr) (exec_of_integerRow r hr)

/-- Each row of the floating-point operations is `State.vecF` of its function. -/
theorem exec_of_floatRow : ∀ r ∈ floatRows, ∀ s p d a b n,
    exec (r.1.op p d a b n) s = s.vecF r.1.maj r.1.fn r.1.cls p d a (r.1.b b) n r.1.third r.2 := by
  simp only [floatRows, List.forall_mem_cons, List.not_mem_nil, false_imp_iff, implies_true, and_true]
  and_intros <;> exact fun _ _ _ _ _ _ => rfl

/-- Settles O2, by the rows. -/
theorem floatResults : Obligations.FloatResults := fun r hr => VecRow.givesF_of_vecF (exec_of_floatRow r hr)

theorem immGives_of_vecImm {mk : BitVec 4 → BitVec 6 → BitVec 6 → Instr} {maj fn : Nat} {himm : Bool} {f : Hints → Word → Word}
    (hexec : ∀ s p d a, exec (mk p d a) s = s.vecImm maj fn himm p d a f) : ImmGives mk maj fn himm f := by
  intro s p d a i ws h
  rw [hexec]
  exact h.vector' d 0 _ fun _ => rfl

/-- Settles O3: each word is `State.vecImm` of its function. -/
theorem immediateResults : Obligations.ImmediateResults := by
  refine ⟨fun i => ?iaddi, fun i => ⟨?shli, ?shri, ?sari, ?roti⟩, fun i => ⟨?andi, ?ori, ?xori⟩⟩
  all_goals exact immGives_of_vecImm fun _ _ _ _ => rfl

theorem laneGives_of_results {instr : Instr} {a : Attr} {d : BitVec 6} {n : BitVec 1} {f : Iss → Nat → Word × Bool}
    (hpast : ∀ i, a.past i = nextPc i.pc)
    (hexec : ∀ s, exec instr s = s.compute a (fun i s => s.results i d (nwOf n) (f i))) : LaneGives instr a d n f (fun _ => 0) := by
  intro s i ws h
  rw [hexec, ← hpast]
  exact h.vector' d n (f i) fun _ => rfl

theorem laneGives_of_flagged {instr : Instr} {a : Attr} {d : BitVec 6} {n : BitVec 1} {f : Iss → Nat → Word × Bool} {g : Iss → Flags}
    (hpast : ∀ i, a.past i = nextPc i.pc)
    (hexec : ∀ s, exec instr s = s.compute a (fun i s => (s.results i d (nwOf n) (f i)).raiseFlags i (g i))) :
    LaneGives instr a d n f g := by
  intro s i ws h
  rw [hexec, ← hpast]
  exact h.vector d n (f i) (g i) fun _ => rfl

/-- Settles O6: LOP3 and SEL raise no flags, CVT those of its conversions. -/
theorem selectedResults : Obligations.SelectedResults := by
  refine ⟨fun p d a b n => ?lop3, fun p d a b n k => ?sel, fun p d a c n r => ?cvt⟩
  case lop3 | sel => exact laneGives_of_results (fun _ => rfl) fun _ => rfl
  case cvt => exact laneGives_of_flagged (fun _ => rfl) fun _ => rfl

/-- Settles O7: a reduction is `State.gather`, which raises the flags of its function (none for I32); the other words raise none. -/
theorem laneResults : Obligations.LaneResults := by
  intro p d a b n sa
  refine ⟨?shflIdx, ?shflXor, ?shflUp, ?shflDown, ?ballot, ?matchLanes, ?reduxAddI32, ?reduxMinI32, ?reduxMaxI32, ?reduxAddF32, ?s2v⟩
  case reduxAddI32 | reduxMinI32 | reduxMaxI32 | reduxAddF32 => exact laneGives_of_flagged (fun _ => rfl) fun _ => rfl
  all_goals exact laneGives_of_results (fun _ => rfl) fun _ => rfl

/-! ## Register pairs: O4 -/

theorem pairGives_of_vec64 {mk : BitVec 4 → BitVec 6 → BitVec 6 → BitVec 6 → Instr} {fn : Nat} {f : BitVec 64 → BitVec 64 → BitVec 64}
    (hexec : ∀ s p d a b, exec (mk p d a b) s = s.vec64 fn p d a b f) : PairGives mk fn f := by
  intro s p d a b i ws h v t
  rw [hexec]
  have hpair := (regs_setReg (fun _ => d.toNat + 1) (fun l => (v l).extractLsb' 32 32) t).comp
    (regs_setReg (fun _ => d.toNat) (fun l => (v l).extractLsb' 0 32) t)
  exact h.lanes (fun l => ((v l).extractLsb' 0 32, t l)) hpair fun _ => rfl

theorem pairAttr_illegal {d a b : BitVec 6}
    (h : ¬(d.toNat + 2 ≤ 56 ∧ (a.toNat + 2 ≤ 56 ∨ a = 56) ∧ (b.toNat + 2 ≤ 56 ∨ b = 56))) (fn : Nat) (p : BitVec 4) :
    (pairAttr fn p d a b).legal = false := by
  rw [← Bool.not_eq_true]
  intro hlegal
  simp only [pairAttr, Bool.and_eq_true, pair64_iff, run, decide_eq_true_eq, and_assoc] at hlegal
  exact h hlegal

/-- A word of IADD64 or ISUB64 with NW = 1 holds no instruction. -/
theorem decode_pair_of_nw {w : Word} (hmaj : fld w 26 6 = 0x01) (hfn : fld w 0 3 = 6 ∨ fld w 0 3 = 7) (hnw : fld w 3 1 = 1) :
    ∃ e, decode w = .error e := by
  rw [Laws.Encoding.decode_01 w hmaj]
  rcases hfn with hfn | hfn <;> simp [decode01, hfn, hnw]

theorem isHintWord_of_major01 {w : Word} (hmaj : fld w 26 6 = 0x01) : isHintWord w = false := by
  rw [isHintWord, field_eq_toNat_fld, hmaj]
  rfl

/-- Settles O4: the two words are `State.vec64` of their functions; codes outside the pairs are not legal, which is judged first, and
with NW = 1 the word holds no instruction (`illegalWords`). -/
theorem pairResults : Obligations.PairResults := by
  refine ⟨pairGives_of_vec64 fun _ _ _ _ _ => rfl, pairGives_of_vec64 fun _ _ _ _ _ => rfl, fun i l => ⟨rfl, fun a ha => ?operand⟩,
    fun p d a b s i ws hcodes => ?codes, fun w s i ws hmaj hfn hnw hj => ?nw⟩
  case operand =>
    refine Iss.op64_of_ne ?_ i l
    rintro rfl
    exact absurd ha (by decide)
  case codes =>
    have hlegal := fun fn => pairAttr_illegal hcodes fn p
    exact ⟨fun hj => issue_of_illegal hj (hlegal 6), fun hj => issue_of_illegal hj (hlegal 7)⟩
  case nw =>
    obtain ⟨e, hdecode⟩ := decode_pair_of_nw hmaj hfn hnw
    exact illegalWords s w e i ws hdecode (isHintWord_of_major01 hmaj) hj

/-! ## Predicates: O5, O8 -/

theorem SetRow.gives_of_setP {r : SetRow} {f : Word → Word → Bool × Flags}
    (hexec : ∀ s p g k a b, exec (r.op p g k a b) s = s.setP r.maj r.fn r.cls p g k a b f) : r.Gives f := by
  intro s p g k a b i ws h
  rw [hexec]
  exact h.predicate g k _ _ fun _ => rfl

/-- Each row of the compares is `State.setP` of its condition. -/
theorem exec_of_compareRow : ∀ r ∈ compareRows, ∀ s p g k a b,
    exec (r.1.op p g k a b) s = s.setP r.1.maj r.1.fn r.1.cls p g k a b r.2 := by
  simp only [compareRows, List.forall_mem_cons, List.not_mem_nil, false_imp_iff, implies_true, and_true]
  and_intros <;> exact fun _ _ _ _ _ _ => rfl

/-- Settles O5, by the rows. -/
theorem compareResults : Obligations.CompareResults := fun r hr => SetRow.gives_of_setP (exec_of_compareRow r hr)

/-- Settles O8: each word is `State.predResults` of its test. -/
theorem lanePredicates : Obligations.LanePredicates := fun _ _ g k _ _ _ =>
  ⟨fun h => h.predicate' g k _ fun _ => rfl, fun h => h.predicate' g k _ fun _ => rfl, fun h => h.predicate' g k _ fun _ => rfl⟩

/-! ## Scalar results: O9 -/

theorem scalarGives_of_putS {instr : Instr} {a : Attr} {extra stall : Iss → State → Bool} {d : BitVec 5} {x : Iss → Word}
    (hpast : ∀ i, a.past i = nextPc i.pc)
    (hexec : ∀ s, exec instr s = s.issue a extra stall (straight (fun i s => s.putS i d (x i)))) :
    ScalarGives instr a extra stall d (fun _ i => x i) := by
  intro s i ws h
  rw [hexec, ← hpast]
  exact h.scalar d (x i) fun _ => rfl

/-- Each row of the scalar operations is `State.scal` of its function; the minima and the maxima test by `pick`. -/
theorem exec_of_scalarRow : ∀ r ∈ scalarRows, ∀ s d a b, exec (r.1 d a b) s = s.scal r.2.1 r.2.2.1 d a b r.2.2.2 := by
  simp only [scalarRows, List.forall_mem_cons, List.not_mem_nil, false_imp_iff, implies_true, and_true]
  refine ⟨?sadd, ?ssub, ?smul, ?sand, ?sor, ?sxor, ?sshl, ?sshr, ?sminI32, ?smaxI32, ?sminN32, ?smaxN32, ?ssar⟩
  all_goals intro s d a b
  case sminI32 | smaxI32 =>
    simp only [← pick_slt]
    rfl
  case sminN32 | smaxN32 =>
    simp only [← pick_ult]
    rfl
  all_goals rfl

/-- Settles O9: each word writes its result by `State.putS`. -/
theorem scalarResults : Obligations.ScalarResults := by
  refine ⟨fun r hr d a b => ?rows, fun d a => ⟨?spopc, ?sclz⟩, fun d a x => ⟨?saddi, ?smovi⟩, fun p d a => ?v2s⟩
  case rows => exact scalarGives_of_putS (fun _ => rfl) fun s => exec_of_scalarRow r hr s d a b
  all_goals exact scalarGives_of_putS (fun _ => rfl) fun _ => rfl

/-! ## Fragments: O10 -/

theorem fragGives_of_mma {mk : BitVec 4 → BitVec 6 → BitVec 6 → BitVec 6 → Instr} {fn w : Nat} {f : List (Nat × Nat) → Word → Word}
    (hexec : ∀ s p d a b, exec (mk p d a b) s = s.mma fn w p d a b f) : FragGives mk fn w f := by
  intro s p d a b i ws h
  rw [hexec]
  have hgroup := Regs.foldl (fun k => regs_setReg (fun _ => d.toNat + k) (fun l => (fragResult i w d a b f l k).1)
    fun l => (fragResult i w d a b f l k).2) (List.range 4)
  exact h.lanes (fun l => fragResult i w d a b f l 0) hgroup fun _ => rfl

/-- Settles O10: each word is `State.mma` of its product function. -/
theorem fragmentResults : Obligations.FragmentResults := by
  refine ⟨?f16, ?bf16, ?f8e4, ?f8e5, ?i8⟩
  all_goals exact fragGives_of_mma fun _ _ _ _ _ => rfl

end Sys2Proof.Claims
end

section
/-! 07 R164 to R174: bytes and words in memory, and what an operation at the home point leaves there. -/

open Sys2Proof Sys2Proof.Machine Sys2Proof.Claims

namespace Sys2Proof.Machine

/-! ## Little-endian bytes (00 R5; 03 R62) -/

@[simp] theorem length_leBytes (n x : Nat) : (leBytes n x).length = n := by
  induction n generalizing x with
  | zero => rfl
  | succ n ih => simp [leBytes, ih]

theorem leNat_lt (l : List Byte) : leNat l < 2 ^ (8 * l.length) := by
  induction l with
  | nil => simp [leNat]
  | cons b l ih =>
    have hb := b.isLt
    rw [leNat, List.length_cons, Nat.mul_succ, Nat.pow_add]
    omega

theorem leNat_leBytes (n x : Nat) : leNat (leBytes n x) = x % 2 ^ (8 * n) := by
  induction n generalizing x with
  | zero => simp [leBytes, leNat, Nat.mod_one]
  | succ n ih =>
    have hsplit : 2 ^ (8 * (n + 1)) = 256 * 2 ^ (8 * n) := by rw [Nat.mul_succ, Nat.pow_add, Nat.mul_comm]
    rw [leBytes, leNat, ih, hsplit, Nat.mod_mul, BitVec.toNat_ofNat]

theorem leBytes_leNat (l : List Byte) : leBytes l.length (leNat l) = l := by
  induction l with
  | nil => rfl
  | cons b l ih =>
    have hb := b.isLt
    have hrest : (b.toNat + 256 * leNat l) / 256 = leNat l := by omega
    have hfirst : BitVec.ofNat 8 (b.toNat + 256 * leNat l) = b :=
      BitVec.eq_of_toNat_eq (by rw [BitVec.toNat_ofNat]; omega)
    rw [List.length_cons, leNat, leBytes, hrest, hfirst, ih]

theorem leNat_append (l m : List Byte) : leNat (l ++ m) = leNat l + 2 ^ (8 * l.length) * leNat m := by
  induction l with
  | nil => simp [leNat]
  | cons b l ih =>
    have hshift : 2 ^ (8 * l.length) * 2 ^ 8 * leNat m = 2 ^ 8 * (2 ^ (8 * l.length) * leNat m) := by
      rw [Nat.mul_right_comm, Nat.mul_comm]
    rw [List.cons_append, leNat, ih, leNat, List.length_cons, Nat.mul_succ, Nat.pow_add, hshift]
    omega

/-- A word's bytes, taken up into a wider value, stand above the first. -/
theorem ofNat_leNat_cons (w : Nat) (b : Byte) (l : List Byte) :
    BitVec.ofNat (w + 8) (leNat (b :: l)) = BitVec.ofNat w (leNat l) ++ b := by
  have hb := b.isLt
  refine BitVec.eq_of_toNat_eq ?_
  rw [BitVec.toNat_append, ← Nat.shiftLeft_add_eq_or_of_lt hb, Nat.shiftLeft_eq, BitVec.toNat_ofNat, BitVec.toNat_ofNat, leNat,
    Nat.pow_add, Nat.mul_comm (2 ^ w), Nat.mod_mul]
  have hrest : (b.toNat + 256 * leNat l) / 2 ^ 8 = leNat l := by omega
  rw [hrest]
  omega

theorem ofNat_leNat_singleton (b : Byte) : BitVec.ofNat 8 (leNat [b]) = b := by
  simp [leNat]

/-- Sign extension of a natural number is that of its low bits. -/
theorem ofInt_sextNat (m n x : Nat) (hn : 0 < n) : BitVec.ofInt m (sextNat x n) = (BitVec.ofNat n x).signExtend m := by
  have hsign : (BitVec.ofNat n x).msb = natBit x (n - 1) := by
    rw [BitVec.msb_eq_getLsbD_last, BitVec.getLsbD_ofNat, natBit, decide_eq_true (by omega), Bool.true_and]
  rw [BitVec.signExtend, BitVec.toInt_eq_msb_cond, hsign, BitVec.toNat_ofNat, sextNat]

/-! ## Loaded values: O57 -/

/-- A run of bytes read as words of 32 bits, from the low one up. -/
theorem ofNat_leNat_word (a b c d : Byte) (l : List Byte) :
    BitVec.ofNat 32 (leNat (a :: b :: c :: d :: l)) = d ++ c ++ b ++ a := by
  have hlow : BitVec.ofNat 32 (leNat ([a, b, c, d] ++ l)) = BitVec.ofNat 32 (leNat [a, b, c, d]) := by
    rw [leNat_append]
    exact BitVec.eq_of_toNat_eq (by simp [Nat.add_mul_mod_self_left])
  rw [show a :: b :: c :: d :: l = [a, b, c, d] ++ l from rfl, hlow, ofNat_leNat_cons 24, ofNat_leNat_cons 16, ofNat_leNat_cons 8,
    ofNat_leNat_singleton]

/-- A value narrower than a register is extended from its own bits (07 R164). -/
theorem loadWords_of_narrow {w : Nat} (hpos : 0 < w) (hw : w < 4) (signed : Bool) (bytes : List Byte) :
    loadWords w signed bytes =
      [if signed then (BitVec.ofNat (8 * w) (leNat bytes)).signExtend 32 else (BitVec.ofNat (8 * w) (leNat bytes)).setWidth 32] := by
  rw [loadWords, if_pos hw]
  cases signed with
  | true => exact congrArg (· :: []) (ofInt_sextNat 32 (8 * w) _ (by omega))
  | false => exact congrArg (· :: []) (BitVec.eq_of_toNat_eq (by simp))

end Sys2Proof.Machine

namespace Sys2Proof.Claims

/-- Settles O57: a narrow value by its own bits; of a wider one each register is four bytes of the run. -/
theorem loadExtension : Obligations.LoadExtension := by
  refine ⟨fun a => ?byte, fun a b => ?half, fun a b c d => ?word, fun a b c d e f g h => ?pair⟩
  case byte =>
    have hbits : BitVec.ofNat (8 * 1) (leNat [a]) = a := ofNat_leNat_singleton a
    simp [loadWords_of_narrow, hbits]
  case half =>
    have hbits : BitVec.ofNat (8 * 2) (leNat [a, b]) = b ++ a :=
      (ofNat_leNat_cons 8 a [b]).trans (congrArg (· ++ a) (ofNat_leNat_singleton b))
    simp [loadWords_of_narrow, hbits]
  case word =>
    have hregs : loadWords 4 false [a, b, c, d] = [BitVec.ofNat 32 (leNat [a, b, c, d] / 1)] := rfl
    rw [hregs, Nat.div_one, ofNat_leNat_word]
  case pair =>
    have hhigh : leNat [a, b, c, d, e, f, g, h] / 2 ^ 32 = leNat [e, f, g, h] := by
      have hlow : leNat [a, b, c, d] < 2 ^ 32 := leNat_lt [a, b, c, d]
      have hparts : leNat [a, b, c, d, e, f, g, h] = leNat [a, b, c, d] + 2 ^ 32 * leNat [e, f, g, h] :=
        leNat_append [a, b, c, d] [e, f, g, h]
      omega
    have hregs : loadWords 8 false [a, b, c, d, e, f, g, h] =
        [BitVec.ofNat 32 (leNat [a, b, c, d, e, f, g, h] / 1), BitVec.ofNat 32 (leNat [a, b, c, d, e, f, g, h] / 2 ^ 32)] := rfl
    rw [hregs, hhigh, Nat.div_one, ofNat_leNat_word, ofNat_leNat_word]

end Sys2Proof.Claims
end

section
/-! 07 R172 to R174: the bookkeeping of caches, directories, DRAM and energy around an operation at the home point, and what the
operation itself does to memory and to its lane. -/

open Sys2Proof Sys2Proof.Machine Sys2Proof.Claims

namespace Sys2Proof.Machine

/-! ## What the bookkeeping of a memory access leaves alone -/

/-- Between `s` and `t` no byte of memory and no unit has changed, and no die has fenced another: caches, directories, DRAM's errors,
acknowledgements and energy may have. -/
structure Undisturbed (s t : State) : Prop where
  mem : t.mem = s.mem
  units : ∀ b u, t.unit? b u = s.unit? b u
  fenced : t.fenced = s.fenced
  devNum : t.devNum = s.devNum

theorem Undisturbed.refl (s : State) : Undisturbed s s := ⟨rfl, fun _ _ => rfl, rfl, rfl⟩

theorem Undisturbed.trans {s t u : State} (h : Undisturbed s t) (h' : Undisturbed t u) : Undisturbed s u :=
  ⟨h'.mem.trans h.mem, fun b v => (h'.units b v).trans (h.units b v), h'.fenced.trans h.fenced, h'.devNum.trans h.devNum⟩

theorem Undisturbed.after {s t u : State} (h' : Undisturbed t u) (h : Undisturbed s t) : Undisturbed s u := h.trans h'

theorem Undisturbed.ite {s t u : State} {c : Prop} [Decidable c] (ht : Undisturbed s t) (hu : Undisturbed s u) :
    Undisturbed s (if c then t else u) := by
  split
  · exact ht
  · exact hu

/-- Whether a store of a die reaches a home is decided by what is fenced. -/
theorem Undisturbed.cutStore {s t : State} (h : Undisturbed s t) (die : Nat) (home : Home) :
    t.cutStore die home = s.cutStore die home := by
  simp only [State.cutStore, State.peerOf, State.fencedBy, h.fenced, h.devNum]

theorem Undisturbed.rdNat {s t : State} (h : Undisturbed s t) (k n : Nat) : t.rdNat k n = s.rdNat k n := by
  simp only [State.rdNat, State.rdBytes, h.mem]

section

variable (s : State)

theorem undisturbed_modCore (c : Nat) (f : Core → Core) : Undisturbed s (s.modCore c f) := ⟨rfl, fun _ _ => rfl, rfl, rfl⟩
theorem undisturbed_modDie (d : Nat) (f : Die → Die) : Undisturbed s (s.modDie d f) := ⟨rfl, fun _ _ => rfl, rfl, rfl⟩
theorem undisturbed_setLlc (d line : Nat) (x : LlcLine) : Undisturbed s (s.setLlc d line x) := undisturbed_modDie s d _
theorem undisturbed_push (i : Instr) : Undisturbed s (s.push i) := ⟨rfl, fun _ _ => rfl, rfl, rfl⟩
theorem undisturbed_post (kind unit die regid loc : Nat) : Undisturbed s (s.post kind unit die regid loc) :=
  ⟨rfl, fun _ _ => rfl, rfl, rfl⟩
theorem undisturbed_poison (l : List Nat) : Undisturbed s { s with poison := l } := ⟨rfl, fun _ _ => rfl, rfl, rfl⟩
theorem undisturbed_acks (l : Table Ack) : Undisturbed s { s with acks := l } := ⟨rfl, fun _ _ => rfl, rfl, rfl⟩
theorem undisturbed_far (l : Table (Nat × Nat)) : Undisturbed s { s with far := l } := ⟨rfl, fun _ _ => rfl, rfl, rfl⟩
theorem undisturbed_fresh : Undisturbed s s.fresh.2 := ⟨rfl, fun _ _ => rfl, rfl, rfl⟩
theorem undisturbed_draw : Undisturbed s s.draw.2 := ⟨rfl, fun _ _ => rfl, rfl, rfl⟩
theorem undisturbed_l1Drop (core line : Nat) : Undisturbed s (s.l1Drop core line) := undisturbed_modCore s core _
theorem undisturbed_readsFrom (who line : Nat) (mask : BitVec 128) (src : Option Nat) : Undisturbed s (s.readsFrom who line mask src) :=
  undisturbed_acks s _

theorem undisturbed_addEnergy (blk cls n : Nat) : Undisturbed s (s.addEnergy blk cls n) := by
  have honly := onlyUnit_addEnergy s blk .front cls n
  have hfenced := congrArg State.fenced honly.fields
  have hdevNum := congrArg State.devNum honly.fields
  exact ⟨honly.mem, State.unit?_addEnergy s blk cls n, hfenced, hdevNum⟩

/-! ### DRAM and its errors (12 R274, R293 to R295) -/

theorem undisturbed_repair (die line : Nat) (pin : Option Nat) : Undisturbed s (s.repair die line pin) := by
  unfold State.repair
  dsimp only
  refine .ite (.refl s) (.ite (undisturbed_post s _ _ _ _ _) ?_)
  exact (undisturbed_post _ _ _ _ _ _).after ((undisturbed_modDie _ _ _).after (undisturbed_poison s _))

theorem undisturbed_correct (die line pin : Nat) (scrub : Bool) : Undisturbed s (s.correct die line pin scrub) := by
  unfold State.correct
  extract_lets pass l posted noted repaired rows
  have hnoted : Undisturbed s noted := (undisturbed_modDie _ _ _).after (undisturbed_post s _ _ _ _ _)
  have hrepaired : Undisturbed s repaired := .ite ((undisturbed_repair _ _ _ _).after hnoted) hnoted
  exact .ite ((undisturbed_repair _ _ _ _).after hrepaired) hrepaired

theorem undisturbed_demand (die line : Nat) : Undisturbed s (s.demand die line) := by
  unfold State.demand
  split
  · exact .refl s
  · dsimp only
    have hmet := undisturbed_modDie s die (fun d => { d with dram := d.dram.erase line })
    split
    · exact (undisturbed_correct _ _ _ _ _).after hmet
    · exact (undisturbed_repair _ _ _ _).after ((undisturbed_poison _ _).after hmet)

theorem undisturbed_llcParity (die line : Nat) : Undisturbed s (s.llcParity die line) :=
  .ite ((undisturbed_post _ _ _ _ _ _).after (undisturbed_modDie s _ _)) (.refl s)

theorem undisturbed_dramRead (blk : Nat) (h : Home) : Undisturbed s (s.dramRead blk h) :=
  .ite ((undisturbed_demand _ _ _).after ((undisturbed_addEnergy _ _ _ _).after (undisturbed_llcParity s _ _))) (.refl s)

/-! ### Slices, leases and copies (11 R254 to R260; 12 R271) -/

theorem undisturbed_llcFill (blk die line : Nat) (x : LlcLine) : Undisturbed s (s.llcFill blk die line x) := by
  unfold State.llcFill
  extract_lets y held mates
  refine .ite (undisturbed_setLlc s _ _ _) ?_
  split
  next n drawn hdraw =>
  extract_lets k dirty lost poisoned emptied
  have hdrawn : Undisturbed s drawn := by
    have h := undisturbed_draw s
    rwa [hdraw] at h
  have hpoisoned : Undisturbed s poisoned := .ite ((undisturbed_poison drawn _).after hdrawn) hdrawn
  have hemptied : Undisturbed s emptied := (undisturbed_modDie _ _ _).after hpoisoned
  exact (undisturbed_setLlc _ _ _ _).after (.ite ((undisturbed_addEnergy _ _ _ _).after hemptied) hemptied)

theorem undisturbed_lease (blk core : Nat) (h : Home) (fill : Bool) : Undisturbed s (s.lease blk core h fill) := by
  unfold State.lease
  extract_lets rts
  exact .ite (.refl s) (.ite (.ite (undisturbed_llcFill s _ _ _ _) (undisturbed_setLlc s _ _ _)) (undisturbed_far s _))

theorem undisturbed_dropFarCopy (die line : Nat) : Undisturbed s (s.dropFarCopy die line) := by
  unfold State.dropFarCopy
  split
  · exact .ite (.refl s) (undisturbed_modDie s _ _)
  · exact .refl s

/-! ### A write at its home (11 R255, R260) -/

theorem undisturbed_pushes (f : Nat → Instr) (l : List Nat) : Undisturbed s (l.foldl (fun s d => s.push (f d)) s) := by
  induction l generalizing s with
  | nil => exact .refl s
  | cons d l ih => exact (ih _).after (undisturbed_push s (f d))

theorem undisturbed_stampWrite (core blk ltime : Nat) (h : Home) (mask : BitVec 128) (places : List Nat) (fill : Bool) (who : Nat) :
    Undisturbed s (s.stampWrite core blk ltime h mask places fill who).2.2 := by
  have hfresh : Undisturbed s s.fresh.2 := undisturbed_fresh s
  unfold State.stampWrite
  split
  next id counted hcount =>
  rw [hcount] at hfresh
  extract_lets own _ _ here _ _ _ _ _ filled timed e entered ack sent toDies toDevs
  have hfilled : Undisturbed counted filled := .ite (undisturbed_llcFill _ _ _ _ _) (undisturbed_setLlc _ _ _ _)
  have htimed : Undisturbed counted timed :=
    .ite ((undisturbed_modDie _ _ _).after hfilled) (.ite (undisturbed_far _ _) (.refl _))
  have hentered : Undisturbed timed entered := .ite (undisturbed_modDie _ _ _) (.refl _)
  have hsent : Undisturbed timed sent := (undisturbed_acks _ _).after hentered
  have hpushed : Undisturbed sent toDevs := (undisturbed_pushes _ _ _).after (undisturbed_pushes _ _ _)
  exact (undisturbed_push _ _).after (((hfresh.trans htimed).trans hsent).trans hpushed)

theorem undisturbed_leaveDie (core id wts : Nat) (h : Home) : Undisturbed s (s.leaveDie core id wts h).2 := by
  unfold State.leaveDie
  split
  · exact .refl s
  · exact (undisturbed_acks _ _).after (undisturbed_dropFarCopy s _ _)

theorem undisturbed_cleanse (h : Home) : Undisturbed s (s.cleanse h) := .ite (undisturbed_modDie s _ _) (.refl s)

end

/-! ## The bytes that a write at the home point puts there -/

/-- A value of `k` bits, shifted within a wider one, is not cut off. -/
theorem toNat_ofNat_shifted {w x k off : Nat} (hx : x < 2 ^ k) (h : off + k ≤ w) :
    (BitVec.ofNat w (x * 2 ^ off)).toNat = x * 2 ^ off := by
  rw [BitVec.toNat_ofNat]
  refine Nat.mod_eq_of_lt ?_
  calc x * 2 ^ off < 2 ^ k * 2 ^ off := Nat.mul_lt_mul_of_pos_right hx (Nat.two_pow_pos off)
    _ = 2 ^ (off + k) := by rw [Nat.pow_add, Nat.mul_comm]
    _ ≤ 2 ^ w := Nat.pow_le_pow_right (by decide) h

theorem natBit_maskAt {off n : Nat} (h : off + n ≤ 128) (k : Nat) :
    natBit (maskAt off n).toNat k = true ↔ off ≤ k ∧ k < off + n := by
  have hmask : (maskAt off n).toNat = (2 ^ n - 1) * 2 ^ off :=
    toNat_ofNat_shifted (Nat.sub_lt (Nat.two_pow_pos n) Nat.one_pos) h
  rw [natBit, hmask, Nat.testBit_mul_two_pow, Nat.testBit_two_pow_sub_one, Bool.and_eq_true, decide_eq_true_eq, decide_eq_true_eq]
  omega

/-- A run of positions within a line, and those before and after it. -/
theorem range_eq_run_append {off n : Nat} (h : off + n ≤ 128) :
    List.range 128 = List.range' 0 off ++ (List.range' off n ++ List.range' (off + n) (128 - (off + n))) := by
  have hlength : 128 = off + (n + (128 - (off + n))) := by omega
  calc List.range 128 = List.range' 0 (off + (n + (128 - (off + n)))) := by rw [← hlength, List.range_eq_range']
    _ = List.range' 0 off ++ List.range' off (n + (128 - (off + n))) := by rw [← List.range'_append_1, Nat.zero_add]
    _ = _ := by rw [← List.range'_append_1]

/-- The bits before the run are clear, those of it set, those after it clear. -/
theorem bitList_maskAt {off n : Nat} (h : off + n ≤ 128) : bitList (maskAt off n).toNat 128 = List.range' off n := by
  have hbefore : (List.range' 0 off).filter (natBit (maskAt off n).toNat) = [] := List.filter_eq_nil_iff.mpr fun k hk => by
    rw [natBit_maskAt h]
    rw [List.mem_range'_1] at hk
    omega
  have hwithin : (List.range' off n).filter (natBit (maskAt off n).toNat) = List.range' off n :=
    List.filter_eq_self.mpr fun k hk => (natBit_maskAt h k).mpr (List.mem_range'_1.mp hk)
  have hafter : (List.range' (off + n) (128 - (off + n))).filter (natBit (maskAt off n).toNat) = [] :=
    List.filter_eq_nil_iff.mpr fun k hk => by
      rw [natBit_maskAt h]
      rw [List.mem_range'_1] at hk
      omega
  rw [bitList, range_eq_run_append h, List.filter_append, List.filter_append, hbefore, hwithin, hafter, List.nil_append,
    List.append_nil]

/-- Bytes written one after the other are a run of bytes written. -/
theorem foldl_put_range' (m : Table Byte) (base x n off : Nat) :
    (List.range' off n).foldl (fun m i => Memory.put m (base + i) (BitVec.ofNat 8 (x / 2 ^ (8 * i)))) m =
      Memory.write m (base + off) (leBytes n (x / 2 ^ (8 * off))) := by
  induction n generalizing m off with
  | zero => rfl
  | succ n ih =>
    have hnext : x / 2 ^ (8 * off) / 256 = x / 2 ^ (8 * (off + 1)) := by
      rw [Nat.div_div_eq_div_mul, Nat.mul_add, Nat.pow_add]
    rw [List.range'_succ, List.foldl_cons, ih, leBytes, Memory.write, hnext, Nat.add_assoc]

theorem writeMasked_maskAt (m : Table Byte) (base : Nat) {off : Nat} (l : List Byte) (h : off + l.length ≤ 128) :
    writeMasked m base (maskAt off l.length) (dataAt off l) = Memory.write m (base + off) l := by
  have hshifted : (dataAt off l).toNat = leNat l * 2 ^ (8 * off) := toNat_ofNat_shifted (leNat_lt l) (by omega)
  have hdata : (dataAt off l).toNat / 2 ^ (8 * off) = leNat l := by rw [hshifted, Nat.mul_div_cancel _ (Nat.two_pow_pos _)]
  rw [writeMasked, bitList_maskAt h, foldl_put_range', hdata, leBytes_leNat]

theorem Memory.read_eq_map (m : Table Byte) (k n : Nat) : Memory.read m k n = (List.range' k n).map (Memory.get m) := by
  induction n generalizing k with
  | zero => rfl
  | succ n ih => rw [Memory.read, ih, List.range'_succ, List.map_cons]

theorem Memory.read_write_same (m : Table Byte) (k : Nat) (l : List Byte) : Memory.read (Memory.write m k l) k l.length = l := by
  rw [Memory.read_eq_map]
  refine List.ext_getElem (by simp) fun n hn hl => ?_
  rw [List.getElem_map, List.getElem_range', Nat.one_mul, Memory.get_write, if_pos (by omega), Nat.add_sub_cancel_left]
  simp [hl]

/-! ## A write, and a read-modify-write, at the home point (07 R172, R173) -/

/-- Memory with the bytes of a line that a write's mask names. -/
def State.written (s : State) (h : Home) (mask : BitVec 128) (data : BitVec 1024) : State :=
  { s with mem := writeMasked s.mem (h.line * Config.lineBytes) mask data }

theorem Undisturbed.homeWrite {s t : State} (hst : Undisturbed s t) (h : Home) (mask : BitVec 128) (data : BitVec 1024) :
    Undisturbed (s.written h mask data) (t.homeWrite h mask data) := by
  have hcleansed : Undisturbed t (if mask = BitVec.allOnes 128 then t.cleanse h else t) := .ite (undisturbed_cleanse t h) (.refl t)
  obtain ⟨-, hunits, hfenced, hdevNum⟩ := hst.trans hcleansed
  exact ⟨congrArg (writeMasked · (h.line * Config.lineBytes) mask data) hst.mem, hunits, hfenced, hdevNum⟩

/-- A store that reaches its home puts its bytes in memory, and disturbs nothing else there. -/
theorem write_of_reached {s : State} {core : Nat} {h : Home} (hcut : s.cutStore (dieOf core) h = false) (blk : Nat)
    (mask : BitVec 128) (data : BitVec 1024) : Undisturbed (s.written h mask data) (s.write core blk h mask data).2 := by
  unfold State.write
  rw [if_neg (by simp [hcut])]
  have hstamped := undisturbed_stampWrite s core blk (s.writerTime core blk) h mask [core] true blk
  split
  next id wts stamped hstamp =>
  rw [hstamp] at hstamped
  have hleft := (undisturbed_leaveDie _ core id wts h).after (hstamped.homeWrite h mask data)
  split
  next time left hleave =>
  rw [hleave] at hleft
  extract_lets copied
  refine Undisturbed.after ?_ hleft
  show Undisturbed left copied
  dsimp only [copied]
  split
  · exact undisturbed_modCore _ _ _
  · exact .refl _

section

variable {s : State} {core : Nat} {h : Home} {off : Nat} (blk : Nat) (keep : Nat → UnitRef → Nat → Bool) {f : Word → Option Word}

theorem rmw_of_none (hpoison : s.isPoisoned (dieOf core) h = false)
    (hf : f (BitVec.ofNat 32 (s.rdNat (h.line * Config.lineBytes + off) 4)) = none) :
    ∃ t : State, s.rmw core blk keep h off f = (some (BitVec.ofNat 32 (s.rdNat (h.line * Config.lineBytes + off) 4)), t)
      ∧ Undisturbed s t := by
  unfold State.rmw
  rw [if_neg (by simp [hpoison])]
  dsimp only
  rw [hf]
  exact ⟨_, rfl, (undisturbed_l1Drop _ _ _).after ((undisturbed_readsFrom _ _ _ _ _).after (undisturbed_dramRead s _ _))⟩

/-- The word is written; then the reservations of its line end, but for those that are kept. -/
theorem rmw_of_some {x : Word} (hpoison : s.isPoisoned (dieOf core) h = false) (hcut : s.cutStore (dieOf core) h = false)
    (hoff : off + 4 ≤ 128) (hf : f (BitVec.ofNat 32 (s.rdNat (h.line * Config.lineBytes + off) 4)) = some x) :
    ∃ t : State, s.rmw core blk keep h off f =
        (some (BitVec.ofNat 32 (s.rdNat (h.line * Config.lineBytes + off) 4)), t.clearResv h.line true keep)
      ∧ t.mem = Memory.write s.mem (h.line * Config.lineBytes + off) (leBytes 4 x.toNat) ∧ ∀ b u, t.unit? b u = s.unit? b u := by
  unfold State.rmw
  rw [if_neg (by simp [hpoison])]
  dsimp only
  rw [hf]
  have hread := (undisturbed_l1Drop _ core h.line).after
    ((undisturbed_readsFrom _ blk h.line (maskAt off 4) none).after (undisturbed_dramRead s blk h))
  have hwrite := write_of_reached ((hread.cutStore (dieOf core) h).trans hcut) blk (maskAt off 4) (dataAt off (leBytes 4 x.toNat))
  refine ⟨_, rfl, hwrite.mem.trans ?_, fun b u => (hwrite.units b u).trans (hread.units b u)⟩
  have hbytes := writeMasked_maskAt s.mem (h.line * Config.lineBytes) (leBytes 4 x.toNat) (by simpa using hoff)
  rw [length_leBytes] at hbytes
  rw [← hbytes, ← hread.mem]
  rfl

end

/-- What a word written leaves to be read. -/
theorem rdNat_of_write {t : State} {m : Table Byte} {k : Nat} {x : Word} (ht : t.mem = Memory.write m k (leBytes 4 x.toNat)) :
    t.rdNat k 4 = x.toNat := by
  have hread := Memory.read_write_same m k (leBytes 4 x.toNat)
  rw [length_leBytes] at hread
  rw [State.rdNat, State.rdBytes, ht, hread, leNat_leBytes]
  exact Nat.mod_eq_of_lt x.isLt

theorem get_of_write {t : State} {m : Table Byte} {k : Nat} {x : Word} (ht : t.mem = Memory.write m k (leBytes 4 x.toNat)) {j : Nat}
    (hj : ¬(k ≤ j ∧ j < k + 4)) : Memory.get t.mem j = Memory.get m j := by
  rw [ht, Memory.get_write, length_leBytes, if_neg hj]

/-! ## Reservations (07 R174; 02 R30) -/

theorem Table.get?_map {α β : Type} (f : Nat → α → β) (t : Table α) (k : Nat) :
    Table.get? (t.map (fun e => (e.1, f e.1 e.2))) k = (Table.get? t k).map (f k) := by
  induction t with
  | nil => rfl
  | cons e t ih =>
    by_cases he : e.1 = k
    · simp [Table.get?, he]
    · simp [Table.get?, he, ih]

/-- A lane whose reservation of a line has ended, but for one that is kept. -/
def Lane.unreserve (line : Nat) (kept : Bool) (l : Lane) : Lane :=
  match l.resv with
  | some r => if r.line = line ∧ !kept then { l with resv := none } else l
  | none => l

/-- A block whose warps' reservations of a line have ended, but for the lanes that are kept. -/
def Block.unreserve (line : Nat) (keep : UnitRef → Nat → Bool) (b : Block) : Block :=
  let unreserved (n : Nat) (w : Warp) : Warp := { w with lanes := mapFrom 0 (fun l x => x.unreserve line (keep (.warp n) l)) w.lanes }
  { b with ctx := { b.ctx with warps := mapFrom 0 unreserved b.ctx.warps } }

theorem blocks_clearResv (s : State) (line : Nat) (home : Bool) (keep : Nat → UnitRef → Nat → Bool) :
    (s.clearResv line home keep).blocks = s.blocks.map (fun e => (e.1, e.2.unreserve line (keep e.1))) := rfl

theorem Lane.resv_unreserve {x : Lane} (line : Nat) (kept : Bool) (hx : x.resv = none) : (x.unreserve line kept).resv = none := by
  rw [Lane.unreserve, hx]
  exact hx

/-- A lane of a warp that holds no reservation holds none when a write has ended those of its line. -/
theorem resv_clearResv {s : State} {line blk n l : Nat} {home : Bool} {keep : Nat → UnitRef → Nat → Bool} {w v : Warp}
    (hw : s.unit? blk (.warp n) = some w) (hv : (s.clearResv line home keep).unit? blk (.warp n) = some v)
    (hnone : (w.lane l).resv = none) : (v.lane l).resv = none := by
  rw [State.unit?, State.block?] at hw hv
  rw [blocks_clearResv, Table.get?_map (fun b x => Block.unreserve line (keep b) x)] at hv
  cases hb : s.blocks.get? blk with
  | none => simp [hb] at hw
  | some b =>
    simp only [hb, Option.map_some, Block.unit?, Block.unreserve, getElem?_mapFrom, Nat.zero_add] at hw hv
    rw [hw] at hv
    obtain rfl := Option.some.inj hv
    simp only [Warp.lane, getElem?_mapFrom] at hnone ⊢
    cases hl : w.lanes[l]? with
    | none => rfl
    | some x => exact Lane.resv_unreserve _ _ (by rwa [hl] at hnone)

theorem State.unit?_bypassed (s : State) (b k : Nat) (v : UnitRef) :
    (s.modBlock b (fun x => { x with bypassed := true })).unit? k v = s.unit? k v := by
  simp only [State.unit?, State.block?_modBlock]
  by_cases hk : k = b
  · subst hk
    rw [if_pos rfl]
    cases s.block? k <;> rfl
  · rw [if_neg hk]

section

variable {s : State} {t : Site} {core : Nat} {h : Home} {off lane : Nat} {x : Word} {w : Warp}

/-- LR answers its word, leaves memory alone, and the lane that it names a reservation of the line. -/
theorem doLr_reserves (hpoison : s.isPoisoned (dieOf core) h = false) (hw : s.unit? t.blk t.unit = some w)
    (hl : lane < w.lanes.length) :
    ∃ u : State, s.doLr t core h off lane = (some (BitVec.ofNat 32 (s.rdNat (h.line * Config.lineBytes + off) 4)), u)
      ∧ u.mem = s.mem ∧ (u.unit? t.blk t.unit).bind (fun v => (v.lane lane).resv.map Resv.line) = some h.line := by
  have hread := (undisturbed_readsFrom _ t.blk h.line (maskAt off 4) none).after ((undisturbed_lease _ t.blk core h true).after
    ((undisturbed_dropFarCopy _ (dieOf core) h.line).after ((undisturbed_l1Drop _ core h.line).after (undisturbed_dramRead s t.blk h))))
  have hfresh := (undisturbed_fresh _).after hread
  have hunit := (hfresh.units t.blk t.unit).trans hw
  unfold State.doLr
  rw [if_neg (by simp [hpoison])]
  dsimp only
  rw [hread.rdNat]
  refine ⟨_, rfl, hread.mem, ?_⟩
  rw [State.unit?_at, State.unit?_bypassed, State.unit?_modUnit_of hunit, Option.bind_some, lane_modLane _ _ _ _ hl, if_pos rfl]
  rfl

theorem modLane_resv_none (hl : lane < w.lanes.length) :
    ((w.modLane lane (fun l => { l with resv := none })).lane lane).resv = none := by
  rw [lane_modLane _ _ _ _ hl, if_pos rfl]

/-- SC with the reservation writes its word and answers 0. -/
theorem doSc_of_held (hpoison : s.isPoisoned (dieOf core) h = false) (hcut : s.cutStore (dieOf core) h = false)
    (hoff : off + 4 ≤ 128) (hw : s.unit? t.blk t.unit = some w) (hl : lane < w.lanes.length)
    (hheld : (w.lane lane).resv.map Resv.line = some h.line) :
    ∃ u : State, s.doSc t core h off lane x = (some 0, u)
      ∧ u.mem = Memory.write s.mem (h.line * Config.lineBytes + off) (leBytes 4 x.toNat)
      ∧ ∀ v, u.unit? t.blk t.unit = some v → (v.lane lane).resv = none := by
  unfold State.doSc
  rw [if_neg (by simp [hpoison])]
  dsimp only
  rw [hw]
  dsimp only
  rw [if_pos (by simp [hheld])]
  obtain ⟨u, hrmw, hmem, hunits⟩ :=
    rmw_of_some (s := s.modUnit t.blk t.unit (fun w => w.modLane lane (fun l => { l with resv := none }))) t.blk
      (onlyLane t.blk t.unit lane) (f := fun _ => some x) hpoison hcut hoff rfl
  rw [hrmw]
  exact ⟨_, rfl, hmem, fun v hv => resv_clearResv ((hunits _ _).trans (State.unit?_modUnit_of hw _)) hv (modLane_resv_none hl)⟩

/-- SC without it writes nothing and answers 1. -/
theorem doSc_of_not_held (hpoison : s.isPoisoned (dieOf core) h = false) (hw : s.unit? t.blk t.unit = some w)
    (hl : lane < w.lanes.length) (hheld : (w.lane lane).resv.map Resv.line ≠ some h.line) :
    ∃ u : State, s.doSc t core h off lane x = (some 1, u) ∧ u.mem = s.mem
      ∧ ∀ v, u.unit? t.blk t.unit = some v → (v.lane lane).resv = none := by
  unfold State.doSc
  rw [if_neg (by simp [hpoison])]
  dsimp only
  rw [hw]
  dsimp only
  rw [if_neg (by simp [hheld])]
  refine ⟨_, rfl, rfl, fun v hv => ?_⟩
  rw [(undisturbed_l1Drop _ _ _).units, State.unit?_modUnit_of hw] at hv
  rw [← Option.some.inj hv]
  exact modLane_resv_none hl

end

end Sys2Proof.Machine

namespace Sys2Proof.Claims

/-- Settles O55, by whether the function gives a word. -/
theorem atomicUpdates : Obligations.AtomicUpdates := by
  intro s core blk keep h off f x hpoison hcut hoff k old t
  cases hf : f old with
  | none =>
    obtain ⟨u, hrmw, hkept⟩ := rmw_of_none blk keep hpoison hf
    have ht : t = (some old, u) := hrmw
    rw [ht]
    exact ⟨rfl, nofun, fun _ => hkept.mem⟩
  | some y =>
    obtain ⟨u, hrmw, hmem, -⟩ := rmw_of_some blk keep hpoison hcut hoff hf
    have ht : t = (some old, u.clearResv h.line true keep) := hrmw
    rw [ht]
    refine ⟨rfl, fun hx => ?_, nofun⟩
    obtain rfl := Option.some.inj hx
    exact ⟨rdNat_of_write hmem, fun j hj => get_of_write hmem hj⟩

/-- Settles O56: LR by the lane that it leaves; SC by whether its lane holds the reservation. -/
theorem reservations : Obligations.Reservations := by
  intro s t core h off lane x w hpoison hcut hoff hw hl k lr sc
  refine ⟨?lr, ?held, ?free, ?after⟩
  case lr =>
    obtain ⟨u, hlr, hmem, hresv⟩ := doLr_reserves hpoison hw hl
    have hlr' : lr = (some (BitVec.ofNat 32 (s.rdNat k 4)), u) := hlr
    rw [hlr']
    exact ⟨rfl, hmem, hresv⟩
  case held =>
    intro hheld
    obtain ⟨u, hsc, hmem, -⟩ := doSc_of_held (x := x) hpoison hcut hoff hw hl hheld
    have hsc' : sc = (some 0, u) := hsc
    rw [hsc']
    exact ⟨rfl, rdNat_of_write hmem, fun j hj => get_of_write hmem hj⟩
  case free =>
    intro hfree
    obtain ⟨u, hsc, hmem, -⟩ := doSc_of_not_held (off := off) (x := x) hpoison hw hl hfree
    have hsc' : sc = (some 1, u) := hsc
    rw [hsc']
    exact ⟨rfl, hmem⟩
  case after =>
    by_cases hheld : (w.lane lane).resv.map Resv.line = some h.line
    · obtain ⟨u, hsc, -, hnone⟩ := doSc_of_held (x := x) hpoison hcut hoff hw hl hheld
      have hsc' : sc = (some 0, u) := hsc
      rw [hsc']
      exact hnone
    · obtain ⟨u, hsc, -, hnone⟩ := doSc_of_not_held (off := off) (x := x) hpoison hw hl hheld
      have hsc' : sc = (some 1, u) := hsc
      rw [hsc']
      exact hnone

end Sys2Proof.Claims
end

section
/-! 07 R161 to R174: the words on translated memory, on the scratchpad, and of views, held by nothing, begin their accesses. -/

open Sys2Proof Sys2Proof.Machine Sys2Proof.Claims

namespace Sys2Proof.Machine

variable {s : State} {a : Attr} {i : Iss} {stall : Iss → State → Bool} {ws : List Word} {c : BitVec 6} {v : BitVec 7}

/-- A word whose coordinates fit with the rank of its view as the word finds it is carried out, where `exec` judges it by that rank. -/
theorem Ready.carries_of_rank {instr : Instr} {f : Iss → State → State}
    (h : Ready s a i (fun _ s => coordsFit c (s.rankOf v c)) stall ws) (hpast : a.past i = nextPc i.pc)
    (hexec : exec instr s = s.issue a (fun _ _ => coordsFit c (s.rankOf v c)) stall (straight f)) :
    ∃ t, exec instr s = .next t ∧ Does s t i f := by
  have hfit : Ready s a i (fun _ _ => coordsFit c (s.rankOf v c)) stall ws := { h with extra := h.extra }
  rw [hexec]
  exact hfit.carries hpast fun _ => rfl

end Sys2Proof.Machine

namespace Sys2Proof.Claims

/-! ## Words on translated memory: O16 -/

/-- A word that is `State.memory` begins its access. -/
theorem memoryGives_of_memory {instr : Instr} {a : State → Attr} {c : BitVec 6} {v : BitVec 7} {m : State → MemIss}
    {pol : Option Nat} (hpast : ∀ s i, (a s).past i = nextPc i.pc)
    (hexec : ∀ s, exec instr s = s.memory (a s) c (s.rankOf v c) (m s) pol) : MemoryGives instr a c v m pol :=
  fun s i _ h => h.carries_of_rank (hpast s i) (hexec s)

section

variable (p : BitVec 4) (d c : BitVec 6) (v : BitVec 7) (s : State)

theorem exec_loadRows : ∀ r ∈ loadRows, let (op, maj, fn, w, signed, taint, pol) := r
    exec (op p d c v) s = s.load maj fn w signed taint pol p d c v := by
  simp only [loadRows, List.forall_mem_cons, List.not_mem_nil, false_imp_iff, implies_true, and_true]
  and_intros <;> rfl

theorem exec_storeRows : ∀ r ∈ storeRows, let (op, maj, fn, w, n, pol) := r
    exec (op p d c v) s = s.store maj fn w n pol p d c v := by
  simp only [storeRows, List.forall_mem_cons, List.not_mem_nil, false_imp_iff, implies_true, and_true]
  and_intros <;> rfl

theorem exec_atomRows : ∀ r ∈ atomRows, let (op, maj, fn, n, o) := r
    exec (op p d c v) s = s.atom maj fn n o p d c v := by
  simp only [atomRows, List.forall_mem_cons, List.not_mem_nil, false_imp_iff, implies_true, and_true]
  and_intros <;> rfl

theorem exec_redRows : ∀ r ∈ redRows, let (op, fn, o) := r
    exec (op p d c v) s = s.red fn o p d c v := by
  simp only [redRows, List.forall_mem_cons, List.not_mem_nil, false_imp_iff, implies_true, and_true]
  and_intros <;> rfl

theorem exec_maintRows : ∀ r ∈ [(Instr.cwb, 2), (Instr.cinv, 3), (Instr.cwbi, 4)], exec (r.1 p c v) s = s.maint r.2 p c v := by
  simp only [List.forall_mem_cons, List.not_mem_nil, false_imp_iff, implies_true, and_true]
  and_intros <;> rfl

theorem exec_prefRows : ∀ r ∈ [(Instr.pref, 0, false), (Instr.prefLlc, 1, true)], exec (r.1 p c v) s = s.pref r.2.1 r.2.2 p c v := by
  simp only [List.forall_mem_cons, List.not_mem_nil, false_imp_iff, implies_true, and_true]
  and_intros <;> rfl

theorem exec_ldsRows : ∀ r ∈ ldsRows, let (op, fn, w, dir) := r
    exec (op p d c v) s = s.lds fn w dir p d c v := by
  simp only [ldsRows, List.forall_mem_cons, List.not_mem_nil, false_imp_iff, implies_true, and_true]
  and_intros <;> rfl

theorem exec_stsRows : ∀ r ∈ stsRows, let (op, fn, w, n, dir) := r
    exec (op p d c v) s = s.sts fn w n dir p d c v := by
  simp only [stsRows, List.forall_mem_cons, List.not_mem_nil, false_imp_iff, implies_true, and_true]
  and_intros <;> rfl

theorem exec_atomsRows : ∀ r ∈ atomsRows, let (op, fn, n, o) := r
    exec (op p d c v) s = s.atoms fn n o p d c v := by
  simp only [atomsRows, List.forall_mem_cons, List.not_mem_nil, false_imp_iff, implies_true, and_true]
  and_intros <;> rfl

end

/-- Settles O16: each row is the shared operation of its kind, which is `State.memory` of the row's operands. -/
theorem memoryWords : Obligations.MemoryWords := by
  intro p d c v
  refine ⟨?load, ?store, ?atom, ?red, ?maint⟩
  case load => exact fun r hr => memoryGives_of_memory (fun _ _ => rfl) fun s => exec_loadRows p d c v s r hr
  case store => exact fun r hr => memoryGives_of_memory (fun _ _ => rfl) fun s => exec_storeRows p d c v s r hr
  case atom => exact fun r hr => memoryGives_of_memory (fun _ _ => rfl) fun s => exec_atomRows p d c v s r hr
  case red => exact fun r hr => memoryGives_of_memory (fun _ _ => rfl) fun s => exec_redRows p d c v s r hr
  case maint => exact fun r hr => memoryGives_of_memory (fun _ _ => rfl) fun s => exec_maintRows p c v s r hr

/-! ## Words on the scratchpad: O17 -/

/-- A word that is `State.scratch` begins its access. -/
theorem scratchGives_of_scratch {instr : Instr} {a : State → Attr} {c : BitVec 6} {v : BitVec 7} {m : State → MemIss}
    (hpast : ∀ s i, (a s).past i = nextPc i.pc) (hexec : ∀ s, exec instr s = s.scratch (a s) c (s.rankOf v c) (m s)) :
    ScratchGives instr a c v m :=
  fun s i _ h => h.carries_of_rank (hpast s i) (hexec s)

/-- Settles O17: each row is the shared operation of its kind, which is `State.scratch` of the row's operands. -/
theorem scratchpadWords : Obligations.ScratchpadWords := by
  intro p d c v
  refine ⟨?lds, ?sts, ?atoms⟩
  case lds => exact fun r hr => scratchGives_of_scratch (fun _ _ => rfl) fun s => exec_ldsRows p d c v s r hr
  case sts => exact fun r hr => scratchGives_of_scratch (fun _ _ => rfl) fun s => exec_stsRows p d c v s r hr
  case atoms => exact fun r hr => scratchGives_of_scratch (fun _ _ => rfl) fun s => exec_atomsRows p d c v s r hr

/-! ## Prefetches and views: O18, O20 -/

/-- Settles O18: both words are `State.pref`, judged by the rank of the view that they find. -/
theorem prefetchWords : Obligations.PrefetchWords := by
  intro p c v r hr s i ws h
  exact h.carries_of_rank rfl (exec_prefRows p c v s r hr)

/-- Settles O20: each word is issued with its effect as its body. -/
theorem viewWords : Obligations.ViewWords := fun _ _ _ _ _ =>
  ⟨carries_of_straight (fun _ => rfl) fun _ => rfl, carries_of_straight (fun _ => rfl) fun _ => rfl,
    carries_of_straight (fun _ => rfl) fun _ => rfl⟩

end Sys2Proof.Claims
end

section
/-! 07 R176 to R178; 05 R125, R133: GBEGIN finds its group, and a word with no active lane is passed. -/

open Sys2Proof Sys2Proof.Machine Sys2Proof.Claims

namespace Sys2Proof.Machine

variable {s u : State} {a : Attr} {i : Iss} {ws : List Word}

/-! ## A word with no active lane is passed (04 R88; 05 R133) -/

/-- A word that no lane executes is skipped: only the words ahead are looked at. -/
theorem issue_of_inactive {extra stall : Iss → State → Bool} (body : Iss → State → State × Word) (hissuer : s.issuer a.p = some i)
    (hact : i.act = 0) (hcheck : i.pairNo = none) (hlead : i.trailing = false) (hfresh : i.reissues = false)
    (hahead : s.ahead i = (.words ws, s)) :
    s.issue a extra stall body = .next (s.skipWord i (a.past i) (i.chainWith a ws).1) := by
  have hlag : i.lagStall a = false := by
    unfold Iss.lagStall
    rw [hcheck]
    split
    · next hnone => exact absurd hnone (by simp)
    · rfl
  have hjudge : s.judge i a extra stall = (.skip (i.chainWith a ws).1, s) := by
    unfold State.judge
    rw [hahead]
    dsimp only
    rw [if_neg (by simp [hlag, hfresh]), if_pos hact]
  unfold State.issue
  rw [hissuer]
  simp only [hjudge]
  revert hlead
  cases hu : i.u <;> simp [Iss.trailing, hu]

/-- The unit past a word that has done nothing. -/
def Iss.skipped (i : Iss) (s : State) (past : Nat) (done : Word) : Warp :=
  ((i.started s past).markPast (i.path &&& ~~~0) past).completeAt done (prevPc past)

theorem alike_skipped {α : Type} {f : Lane → α} (hf : Loose f) (s : State) (past : Nat) (done : Word) :
    i.w.alike f (i.skipped s past done) := by
  have hstarted : i.w.alike f (i.started s past) :=
    Warp.alike_of_lanes (v := i.w.modLanes i.path (fun _ l => { l with pc := past }))
      (Warp.alike_modLanes _ _ _ _ fun _ x => hf.wait x x.wait _) rfl
  exact Warp.alike_trans hstarted (Warp.alike_trans (alike_markPast hf _ _ _) (alike_completeAt hf _ _ _))

theorem lane_skipped {past l : Nat} (hend : i.noLoopEnd past) (hl : l < 32) (hlen : l < i.w.lanes.length)
    (hin : inMask i.path l = true) (hwait : (i.w.lane l).wait = .none) (s : State) (done : Word) :
    ((i.skipped s past done).lane l).pc = past ∧ ((i.skipped s past done).lane l).wait = .none := by
  have hstarted : (i.started s past).lane l = { i.w.lane l with pc := past } := Warp.lane_modLanes_in hin hlen
  have hmarked : (((i.started s past).markPast (i.path &&& ~~~0) past).lane l).pc = past
      ∧ (((i.started s past).markPast (i.path &&& ~~~0) past).lane l).wait = .none := by
    rw [Warp.markPast, Warp.lane_modLanes, hstarted]
    split <;> exact ⟨rfl, hwait⟩
  rw [Iss.skipped, lane_completeAt (w := (i.started s past).markPast _ past) (fun h h' => hend (.inl ⟨h, h'⟩))
    (fun h h' => hend (.inr ⟨h, h'⟩)) hl (fun k hk => nomatch hmarked.2.symm.trans hk)]
  exact hmarked

theorem skipped_past (hcheck : i.pairNo = none) (hunit : s.unit? i.blk i.u = some i.w) (past : Nat) :
    Past s (((s.startWord i i.path past).countWord i).endWord i 0 past) i i.w past where
  unit := by
    have hcounted := (unit?_countWord (i := i) (s.startWord i i.path past) i.blk i.u).trans (startWord_unchecked hcheck hunit past)
    have hlanes := alike_skipped (i := i) loose_unissued s past
    exact ⟨i.skipped s past _, State.unit?_modUnit_of hcounted _, unissued_completeAt _ _ _, (hlanes _).1, (hlanes _).2,
      fun hend l hl hlen hin hwait => lane_skipped hend hl hlen hin hwait s _⟩
  only := (onlyUnit_modUnit _ _ _ _).after ((onlyUnit_countWord _ _ _).after (onlyUnit_startWord hcheck s _ _))

/-- Every lane of the path goes past the word, and nothing else happens but that a word which is no member closes the chain. -/
theorem skipWord_past (hcheck : i.pairNo = none) (hunit : s.unit? i.blk i.u = some i.w) (past : Nat) (member : Bool) :
    Past s (s.skipWord i past member) i i.w past := by
  unfold State.skipWord
  dsimp only
  rw [logStream_unchecked hcheck]
  cases member with
  | true => exact skipped_past hcheck hunit past
  | false =>
    let unchained : Iss := { i with w := { i.w with chain := none } }
    have hclosed := State.unit?_modUnit_of hunit (fun w => { w with chain := none })
    have hskipped : Past _ _ unchained unchained.w past := skipped_past (i := unchained) hcheck hclosed past
    exact ⟨hskipped.unit, hskipped.only.after (onlyUnit_modUnit _ _ _ _)⟩

/-! ## GBEGIN: its group and what it makes of it (07 R176, R177) -/

/-- The members of a group that is well formed, as far as its words tell; none of another. -/
def Grp.members : Grp → Members
  | .ok l _ => if groupOk l then l else []
  | _ => []

section

variable {p : BitVec 4} {x : BitVec 5} {e : BitVec 4} {grp : Grp} (hissuer : s.issuer (some p) = some i) (hact : i.act ≠ 0)
  (hmin : 2 ≤ e.toNat) (hmax : e.toNat ≤ 8) (hlimit : x.toNat ≤ 3)
  (hfetch : s.fetchGroup i.core i.b.regid i.r 64 e.toNat (nextPc i.pc) [] [] = (grp, u)) (hheld : (grp == .hold) = false)

include hissuer hact hmin hmax hlimit hfetch hheld

/-- A GBEGIN that an active lane executes, and whose words have been fetched, begins its group when the sink table has room. -/
theorem exec_gbegin :
    let gend := (s.groupEnd i.core i.b.regid i.r 64 e.toNat (nextPc i.pc)).2.1
    let a := groupAttr p true grp.members (some (nextPc gend))
    exec (.gbegin p x e) s = u.issue a always
      (fun i s => (i.b.commitDue && i.w.hints.isEmpty) || decide (Config.sinkEntries ≤ s.sinkLines i.core))
      (straight fun i s => if i.trailing then s else s.beginGroup i a grp gend x.toNat) := by
  have hcount : (decide (2 ≤ e.toNat) && decide (e.toNat ≤ 8)) = true := by simp [hmin, hmax]
  have hlegal : (decide (2 ≤ e.toNat) && decide (e.toNat ≤ 8) && decide (x.toNat ≤ 3)) = true := by simp [hmin, hmax, hlimit]
  show execGbegin p x e s = _
  unfold execGbegin
  rw [hissuer]
  dsimp only
  rw [if_neg (by rw [hcount]; simpa using hact), hfetch]
  simp only [hheld, hlegal, Bool.or_false]
  rfl

theorem gbegin_does :
    let gend := (s.groupEnd i.core i.b.regid i.r 64 e.toNat (nextPc i.pc)).2.1
    let a := groupAttr p true grp.members (some (nextPc gend))
    Ready u a i always (fun i s => (i.b.commitDue && i.w.hints.isEmpty) || decide (Config.sinkEntries ≤ s.sinkLines i.core)) ws →
      ∃ t, exec (.gbegin p x e) s = .next t ∧ Does u t i (fun i v => v.beginGroup i a grp gend x.toNat) (nextPc gend) := by
  intro gend a hready
  rw [exec_gbegin hissuer hact hmin hmax hlimit hfetch hheld]
  obtain ⟨t, ht, hdoes⟩ := hready.does (straight fun i s => if i.trailing then s else s.beginGroup i a grp gend x.toNat)
  exact ⟨t, ht, hdoes.congr fun v => if_neg (by simp [hready.leading])⟩

end

/-- A GBEGIN that no lane executes is a word past the GEND that it finds (07 R176). -/
theorem exec_gbegin_of_inactive {p : BitVec 4} {e : BitVec 4} {w : Word} {gend : Nat} (x : BitVec 5)
    (hissuer : s.issuer (some p) = some i) (hact : i.act = 0) (hmin : 2 ≤ e.toNat) (hmax : e.toNat ≤ 8)
    (hend : s.groupEnd i.core i.b.regid i.r 64 e.toNat (nextPc i.pc) = (.word w, gend, u)) :
    exec (.gbegin p x e) s = u.issue (groupAttr p true [] (some (nextPc gend))) always never (straight fun _ s => s) := by
  show execGbegin p x e s = _
  unfold execGbegin
  rw [hissuer]
  dsimp only
  rw [if_pos (by simp [hact]), if_pos hact, State.skipGroup, if_pos ⟨hmin, hmax⟩, hend]

end Sys2Proof.Machine

namespace Sys2Proof.Claims

/-- Settles O21: an active GBEGIN by the form of its group; one with no active lane is a word that is skipped, past its GEND. -/
theorem sinkGroups : Obligations.SinkGroups := by
  refine ⟨?formed, ?illFormed, ?inactive, fun _ => carries_of_straight (fun _ => rfl) fun _ => rfl⟩
  case formed =>
    intro s u p x e i l n ws hissuer hact hmin hmax hlimit hfetch hok gend a hready
    have hmembers : (Grp.ok l n).members = l := if_pos hok
    have hgroup := gbegin_does (ws := ws) hissuer hact hmin hmax hlimit hfetch rfl
    rw [hmembers] at hgroup
    exact hgroup hready
  case illFormed =>
    intro s u p x e i ws hissuer hact hmin hmax hlimit hfetch gend hends hready
    obtain ⟨t, ht, hdoes⟩ := gbegin_does hissuer hact hmin hmax hlimit hfetch rfl hready
    refine ⟨t, ht, hdoes.congr fun v => ?_⟩
    unfold State.beginGroup
    rw [hends]
    rfl
  case inactive =>
    intro s u p x e i w gend ws hissuer hact hmin hmax hcheck hlead hfresh hend hahead hissuer'
    have halone : i.pairNo = none := by simp [Iss.pairNo, hcheck]
    rw [exec_gbegin_of_inactive x hissuer hact hmin hmax hend]
    exact ⟨_, issue_of_inactive _ hissuer' hact halone hlead hfresh hahead,
      skipWord_past halone (State.issuer_some hissuer').2.2 (nextPc gend) _⟩

end Sys2Proof.Claims
end

section
/-! 07 R165, R170, R173, R178 to R180; 12 R270; 14 R330: what an event does to the access that it names, branch by branch. -/

open Sys2Proof Sys2Proof.Machine Sys2Proof.Claims

namespace Sys2Proof.Machine

/-! ## Responses and completions of a logged access -/

section

variable {s : State} {id : Nat} {t : Site} {x : LaneAcc} {b : Block} (hsite : s.site? (id / 32) = some t)
  (hlane : t.a.lane? (id % 32) = some x) (hblock : s.block? t.blk = some b) (hpast : x.past = true)

include hsite hlane hblock hpast

theorem exec_loadResponse_of_value {v : List Word} (hv : x.value = some v) :
    let u := (s.raiseLtime b.core x.time).putResult t x.lane t.a.dests v x.taint
    exec (.loadResponse id) s = .next ((if t.a.op.spaces == [1] then u else u.commitSoon t.blk).laneDone t x.lane) := by
  show execLoadResponse id s = _
  simp only [execLoadResponse, hsite, hlane, hblock, hpast, hv, Bool.not_true, Bool.false_eq_true, if_false]

variable (hnone : x.value = none)

include hnone

theorem exec_loadResponse_of_load {w : Nat} {signed : Bool} (hop : t.a.op = .load w signed)
    (hup : s.respWaits t.blk b.core t.a.op x = false) :
    exec (.loadResponse id) s = .next (s.bindLoad t b.core w signed x) := by
  show execLoadResponse id s = _
  rw [hop] at hup
  simp only [execLoadResponse, hsite, hlane, hblock, hpast, hnone, hop, hup, Bool.not_true, Bool.false_eq_true, if_false]

theorem exec_loadResponse_of_store {w : Nat} (hop : t.a.op = .store w) :
    exec (.loadResponse id) s = .next (s.bindStore t true
      (fun y s => s.doStore t b.core (min t.a.width (recEs t.a.record)) t.a.pol y) x) := by
  show execLoadResponse id s = _
  simp only [execLoadResponse, hsite, hlane, hblock, hpast, hnone, hop, Bool.not_true, Bool.false_eq_true, if_false]

theorem exec_loadResponse_of_maint {fn : Nat} (hop : t.a.op = .maint fn) (hup : s.respWaits t.blk b.core t.a.op x = false) :
    exec (.loadResponse id) s = .next (s.bindStore t false (fun y s => s.doMaint t b.core fn y) x) := by
  show execLoadResponse id s = _
  rw [hop] at hup
  simp only [execLoadResponse, hsite, hlane, hblock, hpast, hnone, hop, hup, Bool.not_true, Bool.false_eq_true, if_false]

theorem exec_atomicCompletion_of_line {h : Home} (hhome : x.homeOf = some h)
    (hfirst : s.behind t (some h.line) (t.a.mates h.line) = false) (hup : s.cutHome (dieOf b.core) h 3 (s.partOf t.blk) = false) :
    let y := (t.a.mates h.line).headD x
    let u := if y.lane = x.lane then s else s.push (.atomicCompletion id)
    let r := (if h.hdev = u.devNum then u else u.sendTo t.blk (dieOf b.core) h.hdev 3).doAtomic t b.core t.a.op y
    exec (.atomicCompletion id) s = .next (r.2.atomicDone t t.a.op y r.1 (h.hdie != dieOf b.core || h.hdev != r.2.devNum)
      (if t.a.op == .sc && r.1 == some 1 then 0 else r.2.homeTime b.core h)) := by
  show execAtomicCompletion id s = _
  simp only [execAtomicCompletion, hsite, hlane, hblock, hpast, hnone, hhome, hfirst, hup, Bool.not_true, Bool.false_eq_true,
    Option.isSome_none, or_self, if_false]

theorem exec_atomicCompletion_of_no_line (hhome : x.homeOf = none) :
    exec (.atomicCompletion id) s = .next (s.atomicDone t t.a.op x (some 0) false 0) := by
  show execAtomicCompletion id s = _
  simp only [execAtomicCompletion, hsite, hlane, hblock, hpast, hnone, hhome, Bool.not_true, Bool.false_eq_true,
    Option.isSome_none, or_self, if_false]

end

theorem exec_pageWalkDone {s : State} {id : Nat} {t : Site} (page : Nat) (hsite : s.site? id = some t) :
    exec (.pageWalkDone id page) s = .next ((s.reissue t).tryLanes t (fun x => x.elems.isEmpty || x.page == page) true) := by
  show execPageWalkDone id page s = _
  simp only [execPageWalkDone, hsite]

/-! ## Sunk groups -/

/-- A sunk group whose slice no longer has its line, or whose block has since buffered a store to it: it is to choose its level afresh
(07 R179). -/
def State.sunkMoved (s : State) (k : Sunk) (b : Block) (h : Home) : Bool :=
  (b.buf.get? h.line).isSome || (k.level == 1 && !s.sliceServes (dieOf b.core) h)

section

variable {s : State} {id : Nat} {t : Site} {x : LaneAcc} {b : Block} {k : Sunk} {r : Region} {h : Home} {leaf : Leaf}
  (hsunk : s.sunk.get? id = some k) (hresult : k.result = none) (hfirst : s.sunkBefore k = false)
  (hsite : s.site? k.entry = some t) (hlane : t.a.lane? k.lane = some x) (hblock : s.block? t.blk = some b)
  (hregion : s.region? b.regid = some r) (hhome : x.homeOf = some h) (hleaf : x.leaf = some leaf)

include hsunk hresult hfirst hsite hlane hblock hregion hhome hleaf

/-- A group that no other comes before is moved, waits for a link or for room, or runs. -/
theorem exec_umberGroupExecute :
    exec (.umberGroupExecute id) s =
      if s.sunkMoved k b h then .next (s.resink k t b r h)
      else if k.level = 3 ∧ s.cutHome (dieOf b.core) h 3 (s.partOf t.blk) then .next (s.push (.umberGroupExecute id))
      else if !k.accepted then
        .next ((if s.umberRoom k h then { s with sunk := s.sunk.put id { k with accepted := true } } else s).push
          (.umberGroupExecute id))
      else .next ((if k.level = 3 then s.sendTo t.blk (dieOf b.core) h.hdev 3 else s).runSunk id k t b r x h leaf) := by
  show execUmberGroupExecute id s = _
  simp only [execUmberGroupExecute, hsunk, hresult, hfirst, hsite, hlane, hblock, hregion, hhome, hleaf, Option.isSome_none,
    Bool.false_eq_true, if_false, State.sunkMoved]

end

section

variable {s : State} {id : Nat} {t : Site} {x : LaneAcc} {k : Sunk} {regs : Table Word} {h : Home}
  (hsunk : s.sunk.get? id = some k) (hresult : k.result = some regs) (hsite : s.site? k.entry = some t)
  (hlane : t.a.lane? k.lane = some x) (hhome : x.homeOf = some h)

include hsunk hresult hsite hlane hhome

/-- The results of a group come back, unless a demoted store of it finds no room in the buffer. -/
theorem exec_sinkGroupResponse :
    let u := { s with sunk := s.sunk.erase id }
    exec (.sinkGroupResponse id) s = .next (if !k.parts.isEmpty && u.roomStall t.blk h.line then
      (u.holdBack t [x]).push (.pageWalkDone t.id x.page) else u.sunkReturn k t x h regs) := by
  show execSinkGroupResponse id s = _
  simp only [execSinkGroupResponse, hsunk, hresult, hsite, hlane, hhome]

end

end Sys2Proof.Machine

namespace Sys2Proof.Claims

/-- Settles O30: an event's own branches, each under the conditions that choose it. -/
theorem accessEvents : Obligations.AccessEvents := by
  intro s id t x b
  refine ⟨fun hsite hlane hblock => ⟨fun hpast => ⟨?value, ?load, ?store, ?maint⟩, fun hpast hnone => ⟨?line, ?noLine⟩⟩,
    ?walk, ?run, ?back⟩
  case value => exact fun v hv => exec_loadResponse_of_value hsite hlane hblock hpast hv
  case load => exact fun w signed hnone hop hup => exec_loadResponse_of_load hsite hlane hblock hpast hnone hop hup
  case store => exact fun w hnone hop => exec_loadResponse_of_store hsite hlane hblock hpast hnone hop
  case maint => exact fun fn hnone hop hup => exec_loadResponse_of_maint hsite hlane hblock hpast hnone hop hup
  case line => exact fun h hhome hfirst hup => exec_atomicCompletion_of_line hsite hlane hblock hpast hnone hhome hfirst hup
  case noLine => exact fun hhome => exec_atomicCompletion_of_no_line hsite hlane hblock hpast hnone hhome
  case walk => exact fun page hsite => exec_pageWalkDone page hsite
  case run =>
    intro k r h leaf hsunk hresult hfirst hsite hlane hblock hregion hhome hleaf moved
    have hrun := exec_umberGroupExecute hsunk hresult hfirst hsite hlane hblock hregion hhome hleaf
    refine ⟨fun (hmoved : s.sunkMoved k b h = true) => hrun.trans (if_pos hmoved),
      fun (hstays : s.sunkMoved k b h = false) hlink => ?_⟩
    have hup : ¬(k.level = 3 ∧ s.cutHome (dieOf b.core) h 3 (s.partOf t.blk) = true) := fun ⟨hlevel, hcut⟩ =>
      Bool.false_ne_true ((hlink hlevel).symm.trans hcut)
    rw [if_neg (Bool.eq_false_iff.mp hstays), if_neg hup] at hrun
    exact ⟨fun haccepted => hrun.trans (if_neg (by simp [haccepted])), fun haccepted => hrun.trans (if_pos (by simp [haccepted]))⟩
  case back =>
    intro k regs h hsunk hresult hsite hlane hhome u
    have hback := exec_sinkGroupResponse hsunk hresult hsite hlane hhome
    refine ⟨fun hroom => hback.trans (congrArg Host.Outcome.next (if_neg fun hfull => ?_)),
      fun hparts hfull => hback.trans (congrArg Host.Outcome.next (if_pos ?_))⟩
    · obtain ⟨hparts, hfull⟩ := (Bool.and_eq_true _ _).mp hfull
      rcases hroom with hempty | hroom
      · simp [hempty] at hparts
      · exact Bool.false_ne_true (hroom.symm.trans hfull)
    · exact (Bool.and_eq_true _ _).mpr ⟨by simp [hparts], hfull⟩

end Sys2Proof.Claims
end

section
/-! 08 R185 to R197; 21 R380: engine commands and owner bits, held by nothing, carry out their effects; and a far completion that comes
while its command's step is still on the agenda. -/

open Sys2Proof Sys2Proof.Machine Sys2Proof.Claims

namespace Sys2Proof.Machine

/-! ## Owner bits -/

theorem OnlyUnit.engTile {s u : State} {blk : Nat} {v : UnitRef} (h : OnlyUnit s u blk v) (c n : Nat) :
    (u.core c).engTile n = (s.core c).engTile n :=
  congrArg (fun tiles : BitVec 128 => natBit tiles.toNat n) (h.core c).1

/-! ## Steps on the agenda -/

theorem State.pushOnce_of_contains {s : State} {i : Instr} (h : s.agenda.contains i = true) : s.pushOnce i = s := if_pos h

/-- Putting a step on the agenda makes the agenda longer. -/
theorem State.ne_push (s : State) (i : Instr) : s ≠ s.push i := fun h =>
  List.cons_ne_nil i [] (List.self_eq_append_right.mp (congrArg State.agenda h))

/-! ## Completions from a far home (21 R380) -/

/-- A completion that no link holds back is counted; the command's step goes on the agenda unless it is there. -/
theorem exec_fabricCompletionReceive {s : State} {cmd unit dev n : Nat} {c : Cmd} (hcmd : s.cmds.get? cmd = some c)
    (hfar : c.far.get? (unit * 64 + dev) = some n) (hup : s.cutOff (dieOf c.core) dev 0 = false) :
    exec (.fabricCompletionReceive cmd unit dev) s = .next ((s.modCmd cmd (fun c' => { c' with
      far := if n ≤ 1 then c.far.erase (unit * 64 + dev) else c.far.put (unit * 64 + dev) (n - 1) })).pushOnce
        (.engineUnit cmd)) := by
  show execFabricCompletionReceive cmd unit dev s = _
  simp only [execFabricCompletionReceive, hcmd, hfar, hup, Bool.false_eq_true, if_false]

/-- A copy that has sent two packets of its unit 0 to device 5, and awaits both completions. -/
def farCopy : Cmd :=
  { id := 0, op := .cpy, engine := .copy 0 0, dest := { block := 0, unit := 16, reg := 0 }, core := 0, regid := 0, poff := 0, params := 0,
    resume := 0, prog := 1, total := 2, state := .running, far := [(5, 2)] }

/-- The link to device 5 is up, and the copy's next step is on the agenda. -/
def stepPending : State :=
  { cmds := [(0, farCopy)], links := [(0, { formed := [0], members := [0], peer := 5 })], agenda := [.engineUnit 0] }

theorem stepPending_linked : stepPending.cutOff (dieOf farCopy.core) 5 0 = false := by decide

end Sys2Proof.Machine

namespace Sys2Proof.Claims

/-! ## Engine commands: O22 -/

/-- An instruction that is `State.engine` of its operands captures its command. -/
theorem engineGives_of_engine {mk : BitVec 4 → BitVec 5 → BitVec 5 → BitVec 5 → BitVec 1 → Instr} {maj fn : Nat} {op : CmdOp}
    (hexec : ∀ p t sa x r s, exec (mk p t sa x r) s = s.engine maj fn op p t sa x r) : EngineGives mk maj fn op :=
  fun p t sa x r => carries_of_straight (fun _ => rfl) (hexec p t sa x r)

/-- Settles O22: each word is `State.engine` of its command; MMLD's has no resume offset. -/
theorem engineCommands : Obligations.EngineCommands := by
  refine ⟨?cpy, ?cpyaF32, ?cpyaF16, ?cpyg, ?csld, ?mmrun, ?mmdrain, ?rede, fun _ _ _ => ?mmld⟩
  case mmld => exact carries_of_straight (fun _ => rfl) fun _ => rfl
  all_goals exact engineGives_of_engine fun _ _ _ _ _ _ => rfl

/-! ## Owner bits: O23 -/

/-- A scalar word whose result depends on what lies outside its unit, and is the same in every state that issuing may lead to. -/
theorem scalarGives_of_outside {instr : Instr} {a : Attr} {extra stall : Iss → State → Bool} {d : BitVec 5} {x : State → Iss → Word}
    (hpast : ∀ i, a.past i = nextPc i.pc)
    (hexec : ∀ s, exec instr s = s.issue a extra stall (straight (fun i u => u.putS i d (x u i))))
    (hsame : ∀ s u i, OnlyUnit s u i.blk i.u → x u i = x s i) : ScalarGives instr a extra stall d x := by
  intro s i ws h
  rw [hexec, ← hpast]
  exact h.scalarOf d (fun s => x s i) fun u honly _ => congrArg (u.putS i d) (hsame s u i honly)

/-- Settles O23: OWN.E and OWN.T are issued with their effects as their bodies; issuing moves no owner bit, so OWNQ reads those of the
state in which it issues. -/
theorem ownerWords : Obligations.OwnerWords := by
  intro p t sa x set
  refine ⟨carries_of_straight (fun _ => rfl) fun _ => rfl, carries_of_straight (fun _ => rfl) fun _ => rfl,
    scalarGives_of_outside (fun _ => rfl) (fun _ => rfl) fun s u i honly => ?ownq⟩
  case ownq => simp only [honly.engTile]

/-! ## Engine events: O34 -/

/-- Refutes O34, by a far completion that comes while its command's step is on the agenda, where the statement has it put there again:
in `stepPending` the first of two completions is counted, and the agenda stays as it is. -/
theorem not_engineEvents : ¬ Obligations.EngineEvents := by
  rintro ⟨-, -, -, -, hcompletion⟩
  have hstated := hcompletion stepPending 0 0 5 2 farCopy rfl rfl stepPending_linked
  rw [exec_fabricCompletionReceive (s := stepPending) (c := farCopy) rfl rfl stepPending_linked,
    State.pushOnce_of_contains (by decide)] at hstated
  exact State.ne_push _ _ (Host.Outcome.next.inj hstated)

end Sys2Proof.Claims
end

section
/-! 09 R213 to R228, R233; 02 R46 to R52; 14 R337: the words on ladders, launches, the decision queue, special registers and parked
lanes, and ENRD, each a short use of the rule for a ready word; and the ladder unit's own events. -/

open Sys2Proof Sys2Proof.Machine Sys2Proof.Claims

namespace Sys2Proof.Machine

variable {s u : State} {a : Attr} {i : Iss} {extra stall : Iss → State → Bool} {ws : List Word}

/-! ## A fill that finds DRAM's errors leaves every ladder as it is (09 R219; 12 R274, R293 to R295) -/

section

variable (s : State)

@[simp] theorem State.repair_ladders (die line : Nat) (pin : Option Nat) : (s.repair die line pin).ladders = s.ladders := by
  simp [State.repair, apply_ite State.ladders]

@[simp] theorem State.correct_ladders (die line pin : Nat) (scrub : Bool) : (s.correct die line pin scrub).ladders = s.ladders := by
  simp [State.correct, apply_ite State.ladders]

@[simp] theorem State.demand_ladders (die line : Nat) : (s.demand die line).ladders = s.ladders := by
  unfold State.demand
  split
  · rfl
  · dsimp only
    split <;> simp

@[simp] theorem State.llcParity_ladders (die line : Nat) : (s.llcParity die line).ladders = s.ladders := by
  unfold State.llcParity
  split <;> rfl

@[simp] theorem State.demandAt_ladders (h : Home) : (s.demandAt h).ladders = s.ladders := by
  unfold State.demandAt
  split <;> simp

/-- Whether LINFO reads a descriptor is the same before and after the fill of its line. -/
theorem State.readsDesc_demandAt_if (c : Prop) [Decidable c] (h : Home) (key : Nat) :
    (if c then s.demandAt h else s).readsDesc key = s.readsDesc key := by
  split
  · simp only [State.readsDesc, State.ladderAt, State.demandAt_ladders]
  · rfl

end

/-! ## Special registers (02 R47 to R52) -/

theorem OnlyUnit.cycles {b : Nat} {v : UnitRef} (h : OnlyUnit s u b v) (c : Nat) : u.cycles c = s.cycles c := by
  obtain ⟨hnow, -, -, hdies⟩ := h.rest
  obtain ⟨-, hreset⟩ := h.core c
  simp only [State.cycles, State.dieCycles, State.die, hnow, hdies, hreset]

/-- Beside the unit itself a special register reads the device's number, the core's cycles and its logical time alone. -/
theorem OnlyUnit.special {b : Nat} {v : UnitRef} (h : OnlyUnit s u b v) (htime : ∀ c, (u.core c).ltime = (s.core c).ltime)
    (i : Iss) (n : Nat) : u.special i n = s.special i n := by
  obtain ⟨-, hdevice, -, -⟩ := h.rest
  simp only [State.special, hdevice, htime, h.cycles]

/-! ## Updates of a unit outside its lanes -/

/-- An update of a unit outside its lanes and loop levels, that sees nothing of what every issue changes. -/
structure OutsideLanes (g : Warp → Warp) : Prop where
  lanes : ∀ w, (g w).lanes = w.lanes
  lc0 : ∀ w, (g w).lc0 = w.lc0
  lc1 : ∀ w, (g w).lc1 = w.lc1
  unissued : ∀ w v : Warp, w.unissued = v.unissued → (g w).unissued = (g v).unissued

def Warp.withClkLatch (x : Word) (w : Warp) : Warp := { w with clkLatch := x }

def Warp.withFflags (x : Flags) (w : Warp) : Warp := { w with fflags := x }

theorem outsideLanes_withClkLatch (x : Word) : OutsideLanes (Warp.withClkLatch x) :=
  ⟨fun _ => rfl, fun _ => rfl, fun _ => rfl, fun _ _ hsame => congrArg (Warp.withClkLatch x) hsame⟩

theorem outsideLanes_withFflags (x : Flags) : OutsideLanes (Warp.withFflags x) :=
  ⟨fun _ => rfl, fun _ => rfl, fun _ => rfl, fun _ _ hsame => congrArg (Warp.withFflags x) hsame⟩

theorem outsideLanes_sWrite (m : Word) (n : Nat) (x : Word) : OutsideLanes (fun w => w.sWrite m n x) :=
  ⟨fun w => (lanes_sPut w _ x).1, fun w => (lanes_sPut w _ x).2.1, fun w => (lanes_sPut w _ x).2.2,
    fun _ _ hsame => unissued_sWrite hsame m n x⟩

theorem OutsideLanes.comp {f g : Warp → Warp} (hg : OutsideLanes g) (hf : OutsideLanes f) : OutsideLanes (fun w => g (f w)) :=
  ⟨fun w => (hg.lanes _).trans (hf.lanes w), fun w => (hg.lc0 _).trans (hf.lc0 w), fun w => (hg.lc1 _).trans (hf.lc1 w),
    fun _ _ hsame => hg.unissued _ _ (hf.unissued _ _ hsame)⟩

theorem Ready.outside (h : Ready s a i extra stall ws) {g : Warp → Warp} (hg : OutsideLanes g) {body : Iss → State → State}
    (hbody : Acts i (straight body) g 0) :
    ∃ t, s.issue a extra stall (straight body) = .next t ∧ Past s t i (g i.w) (a.past i) :=
  h.unitOnly hg.lanes hg.lc0 hg.lc1 hg.unissued hbody

theorem acts_putS (i : Iss) (d : BitVec 5) (x : Word) :
    Acts i (straight (fun i u => u.putS i d x)) (fun w => w.sWrite i.act d.toNat x) 0 :=
  (acts_modUnit i _).congr fun _ => by simp only [straight, State.putS]

/-- A scalar result, then a further update of the unit. -/
theorem Ready.scalarThen (h : Ready s a i extra stall ws) (d : BitVec 5) (x : Word) {g : Warp → Warp} (hg : OutsideLanes g)
    {body : Iss → State → State}
    (hbody : ∀ u, OnlyUnit s u i.blk i.u → body i u = (u.putS i d x).modUnit i.blk i.u g) :
    ∃ t, s.issue a extra stall (straight body) = .next t ∧ Past s t i (g (i.withScalar d x)) (a.past i) := by
  rw [h.congr (body' := straight fun i u => (u.putS i d x).modUnit i.blk i.u g) fun u honly _ => congrArg (·, 0) (hbody u honly)]
  exact h.outside (hg.comp (outsideLanes_sWrite i.act d.toNat x)) (acts_twice (acts_putS i d x) (acts_modUnit i g))

/-- A result in two scalar registers. -/
theorem Ready.scalarPair (h : Ready s a i extra stall ws) (d e : BitVec 5) (x y : Word) {body : Iss → State → State}
    (hbody : ∀ u, body i u = (u.putS i d x).putS i e y) :
    ∃ t, s.issue a extra stall (straight body) = .next t
      ∧ Past s t i ((i.withScalar d x).sWrite i.act e.toNat y) (a.past i) :=
  h.scalarThen d x (outsideLanes_sWrite i.act e.toNat y) fun u _ => hbody u

/-! ## A register of one lane -/

theorem Warp.lane_modLane_eq (w : Warp) (k l : Nat) (f : Lane → Lane) :
    (w.modLane k f).lane l = if l = k ∧ l < w.lanes.length then f (w.lane l) else w.lane l := by
  by_cases hl : l < w.lanes.length
  · simp only [lane_modLane w k l f hl, hl, and_true]
  · simp [Warp.modLane, Warp.lane, listMod_get?, hl]

/-- A field that a change leaves, one lane's change leaves in each lane. -/
theorem Warp.modLane_keeps {α : Type} {p : Lane → α} {f : Lane → Lane} (hf : ∀ x, p (f x) = p x) (w : Warp) (k l : Nat) :
    p ((w.modLane k f).lane l) = p (w.lane l) := by
  rw [Warp.lane_modLane_eq]
  split
  · exact hf _
  · rfl

theorem Warp.same.modLane {w v : Warp} (h : w.same v) (k : Nat) {g : Nat → Lane → Lane} (hg : Regs g) :
    (w.modLane k (g k)).same (v.modLane k (g k)) := by
  obtain ⟨hunit, hlength, hlanes⟩ := h
  refine ⟨hunit, ?_, fun l => ?_⟩
  · rw [length_modLane, length_modLane, hlength]
  · rw [Warp.lane_modLane_eq, Warp.lane_modLane_eq, hlength]
    split
    · rw [hg.unissued, hg.unissued, hlanes]
    · exact hlanes l

/-- A change of the registers of one lane. -/
theorem Ready.oneLane (h : Ready s a i extra stall ws) (k : Nat) {g : Nat → Lane → Lane} (hg : Regs g) {body : Iss → State → State}
    (hbody : ∀ u, body i u = u.modUnit i.blk i.u (fun w => w.modLane k (g k))) :
    ∃ t, s.issue a extra stall (straight body) = .next t ∧ Past s t i (i.w.modLane k (g k)) (a.past i) := by
  have hstill : Still (fun w => w.modLane k (g k)) :=
    ⟨fun w => Warp.modLane_keeps (hg.pc k) w k, fun w => Warp.modLane_keeps (hg.wait k) w k, fun _ => rfl, fun _ => rfl⟩
  exact h.past ((acts_modUnit i _).congr fun u => congrArg (·, 0) (hbody u)) hstill fun _ hsame => hsame.modLane k hg

/-! ## Words on parked lanes (09 R227) -/

/-- A step leaves one next state: what holds of some next state holds of it. -/
theorem holds_of_next {o : Host.Outcome State Fault Refusal} {t : State} {P : State → Prop} (ht : o = .next t)
    (h : ∃ u, o = .next u ∧ P u) : P t := by
  obtain ⟨u, hu, hP⟩ := h
  rwa [Host.Outcome.next.inj (ht.symm.trans hu)]

section

variable {sa x : BitVec 5} (h : Ready s a i (fun i _ => i.inHandler && !i.front && decide (i.xReg x < 56)) never ws)
  (f : Iss → State → State)

include h

/-- What the word does to a parked lane is what its own effect does, issued alone. -/
theorem xl_of_parked {P : State → Prop} (hparked : (i.w.lane (i.xLane sa)).status = .parked)
    (hf : ∃ t, s.issue a (fun i _ => i.inHandler && !i.front && decide (i.xReg x < 56)) never (straight f) = .next t ∧ P t) :
    ∃ t, s.xl a sa x f = .next t ∧ P t := by
  have hxl : s.xl a sa x f = s.issue a (fun i _ => i.inHandler && !i.front && decide (i.xReg x < 56)) never (straight f) :=
    h.congr fun _ _ _ => congrArg (·, 0) (if_neg (by simp [hparked]))
  rwa [hxl]

theorem xl_of_not_parked (hparked : (i.w.lane (i.xLane sa)).status ≠ .parked) :
    ∃ t, s.xl a sa x f = .next t ∧ Does s t i (fun i v => v.faultAct i Cause.PROT) (a.past i) := by
  obtain ⟨t, hrun, hdoes⟩ := h.does _
  exact ⟨t, hrun, hdoes.congr fun _ => if_pos (by simp [h.leading, hparked])⟩

end

/-! ## Words that wait -/

theorem Ready.judge_of_stall (h : Ready s a i extra never ws) {stall : Iss → State → Bool} (hstall : stall i s = true) :
    s.judge i a extra stall = (.stall, s) := by
  have hend : (if a.noEnd then i.badEnd else none) = none := by
    split
    · next hno => exact h.loopEnd hno
    · rfl
  unfold State.judge
  rw [h.ahead]
  dsimp only
  rw [if_neg (by simp [h.lag, h.reissues]), if_neg h.active]
  simp [h.legal, h.first, h.token, h.extra, hend, h.latch, h.flaw, hstall]

/-- A word that its own further condition alone holds, waits. -/
theorem Ready.waits (h : Ready s a i extra never ws) {stall : Iss → State → Bool} (hstall : stall i s = true)
    (body : Iss → State → State × Word) : s.issue a extra stall body = .next (s.noteStall i a) := by
  have hlead := h.leading
  rw [State.issue, h.issuer]
  simp only [h.judge_of_stall hstall]
  cases hu : i.u with
  | trail n => simp [Iss.trailing, hu] at hlead
  | warp n => rfl
  | front => rfl

end Sys2Proof.Machine

namespace Sys2Proof.Claims

/-! ## Ladder words: O24 -/

/-- Settles O24: each word is issued with its effect as its body, but that LINFO's asks again whether it reads the descriptor once the
line is filled, and that LESC's and LRET's ask first whether the warp is a trailing one, which a ready word's is not. -/
theorem ladderWords : Obligations.LadderWords := by
  intro p t sa x e ids regs frame
  refine ⟨carries_of_straight (fun _ => rfl) fun _ => rfl, carries_of_straight (fun _ => rfl) fun _ => rfl, ?linfo, ?lesc, ?lret, ?lfrm⟩
  case linfo =>
    refine carries_of_issue (fun _ => rfl) (fun _ => rfl) fun i u _ => ?_
    dsimp only [straight]
    rcases u.ladderView i (i.viewNo sa) with ⟨⟨leaf, va⟩ | q | _, v⟩
    · simp only [State.readsDesc_demandAt_if]
    · rfl
    · rfl
  case lesc | lret =>
    refine carries_of_issue (fun _ => rfl) (fun _ => rfl) fun i u hlead => ?_
    exact if_neg (Bool.eq_false_iff.mp hlead)
  case lfrm => exact fun s i ws h => h.carries rfl fun _ => rfl

/-! ## Launch words: O25 -/

/-- Settles O25: each word is issued with its effect as its body. -/
theorem launchWords : Obligations.LaunchWords := fun _ _ _ _ _ _ =>
  ⟨carries_of_straight (fun _ => rfl) fun _ => rfl, carries_of_straight (fun _ => rfl) fun _ => rfl,
    carries_of_straight (fun _ => rfl) fun _ => rfl, carries_of_straight (fun _ => rfl) fun _ => rfl,
    carries_of_straight (fun _ => rfl) fun _ => rfl⟩

/-! ## Special registers: O26 -/

/-- Settles O26: issuing changes nothing that SRD reads outside its unit, as SRD names no scalar source; the clock latch and %fflags lie
outside the lanes. -/
theorem specialRegisterWords : Obligations.SpecialRegisterWords := by
  intro p t r x a
  refine ⟨fun hr s i ws h => ?srd, fun s i ws h => ?clock, fun s i ws h => ?swr⟩
  case srd =>
    refine h.scalarOf t (fun s => s.special i r.toNat) fun u honly htime => ?_
    dsimp only
    rw [if_neg hr, honly.special (htime rfl)]
  case clock =>
    refine h.scalarThen t _ (outsideLanes_withClkLatch (BitVec.ofNat 32 (s.cycles i.core / 2 ^ 32))) fun u honly => ?_
    rw [← honly.cycles]
    exact if_pos rfl
  case swr =>
    by_cases hfront : i.front = true
    · have hidle : exec (.swr p r x) s = s.issue _ always _ (straight fun _ u => u) :=
        h.congr fun _ _ _ => congrArg (·, 0) (if_pos hfront)
      rw [hidle, if_pos hfront]
      exact h.past_of_idle
    · rw [if_neg hfront]
      exact h.outside (outsideLanes_withFflags ((i.s x).setWidth 5))
        ((acts_modUnit i _).congr fun _ => congrArg (·, 0) (if_neg hfront))

/-! ## Trap words: O27 -/

/-- Settles O27: XLR and XLW are `State.xl` of their effects, which asks whether the lane is parked; every other word is issued with its
effect as its body. -/
theorem trapWords : Obligations.TrapWords := by
  intro p t sa x f
  refine ⟨carries_of_issue (fun _ => rfl) (fun _ => rfl) fun _ _ _ => rfl, ?xlr, ?xlw,
    carries_of_straight (fun _ => rfl) fun _ => rfl, carries_of_straight (fun _ => rfl) fun _ => rfl,
    scalarGives_of_putS (fun _ => rfl) fun _ => rfl⟩
  case xlr =>
    intro s i ws h l
    obtain ⟨u, hrun⟩ : ∃ u, exec (.xlr p t sa x) s = .next u := ⟨_, h.issue _⟩
    refine ⟨u, hrun, fun hparked hsound => ?_, fun hparked hbad => ?_, fun hparked => ?_⟩
    · exact holds_of_next hrun (xl_of_parked h _ hparked (h.scalar t _ fun _ => if_neg (Bool.eq_false_iff.mp hsound)))
    · exact holds_of_next hrun (xl_of_parked h _ hparked
        (h.carries rfl (f := fun i v => v.consume i.blk Cause.UNCORRECTABLE 3) fun _ => if_pos hbad))
    · exact holds_of_next hrun (xl_of_not_parked h _ hparked)
  case xlw =>
    intro s i ws h k
    obtain ⟨u, hrun⟩ : ∃ u, exec (.xlw p t sa x) s = .next u := ⟨_, h.issue _⟩
    have hreg := regs_setReg (fun _ => (i.s x).toNat % 64) (fun _ => i.s t) fun _ => false
    refine ⟨u, hrun, fun hparked => ?_, fun hparked => ?_⟩
    · exact holds_of_next hrun (xl_of_parked h _ hparked (h.oneLane k hreg fun _ => rfl))
    · exact holds_of_next hrun (xl_of_not_parked h _ hparked)

/-! ## Energy: O59 -/

/-- Settles O59: the sum goes to two scalar registers; where energy is still to come, that alone holds the word. -/
theorem energyReads : Obligations.EnergyReads := fun _ _ t _ _ =>
  ⟨fun h => h.scalarPair t (t + 1) _ _ fun _ => rfl, fun h henergy => h.waits (by simp [henergy]) _⟩

/-! ## Ladder events: O37 -/

/-- Settles O37: each event follows the branch of its definition that the hypotheses choose. -/
theorem ladderEvents : Obligations.LadderEvents := by
  refine ⟨fun _ _ _ => rfl, ?launch, ?timeout⟩
  case launch =>
    intro s ladder rung core tile0 wslot0 l r hl hr hready hroom hfree s1 s2 s3
    show execLadderWarpLaunch ladder rung core tile0 wslot0 s = _
    simp only [execLadderWarpLaunch, hl, hr]
    exact if_neg (by simp only [hready, hroom, hfree, Bool.not_true, Bool.or_self, Bool.false_eq_true, not_false_iff])
  case timeout =>
    intro s blk lane stamp w hw hwait hstamp m
    show execLadderFrameTimeout blk lane stamp s = _
    simp only [execLadderFrameTimeout, hw]
    exact if_neg (by simp only [hwait, hstamp, ne_eq, not_true_eq_false, or_self, not_false_iff])

end Sys2Proof.Claims
end

section
/-! 11 R254, R255, R260; 07 R174; 12 R298: acknowledgements, invalidations, the tick of a die's cores, and the end of a reservation. -/

open Sys2Proof Sys2Proof.Machine

namespace Sys2Proof.Machine

/-! ## Updates of a row of cores (11 R254) -/

section

variable (f : Core → Core) (base : Nat)

/-- Every core of the row is updated once, and no other. -/
theorem State.core_foldl_modCore (s : State) (n c : Nat) :
    ((List.range n).foldl (fun (s : State) k => s.modCore (base + k) f) s).core c =
      if base ≤ c ∧ c < base + n then f (s.core c) else s.core c := by
  induction n with
  | zero => exact (if_neg (by omega)).symm
  | succ n ih =>
    rw [List.range_succ, List.foldl_append]
    refine (State.core_modCore _ (base + n) c f).trans ?_
    by_cases hlast : c = base + n
    · subst hlast
      rw [if_pos rfl, ih, if_neg (by omega), if_pos (by omega)]
    · rw [if_neg hlast, ih]
      exact ite_congr (propext (by omega)) (fun _ => rfl) fun _ => rfl

/-- Updates of cores leave the rest of the state. -/
theorem State.rest_foldl_modCore (l : List Nat) (s : State) :
    { l.foldl (fun (s : State) k => s.modCore (base + k) f) s with cores := s.cores } = s := by
  suffices h : ∀ cores, { l.foldl (fun (s : State) k => s.modCore (base + k) f) s with cores := cores } = { s with cores := cores } from
    h s.cores
  intro cores
  induction l generalizing s with
  | nil => rfl
  | cons k l ih => exact ih (s.modCore (base + k) f)

end

/-- The cores of a die are numbered in a row. -/
theorem div_coresPerDie_eq_iff (c die : Nat) :
    c / Config.coresPerDie = die ↔ die * Config.coresPerDie ≤ c ∧ c < die * Config.coresPerDie + Config.coresPerDie := by
  simp only [Config.coresPerDie]
  omega

/-! ## A sharer that a write waits for (11 R260; 12 R298) -/

section

variable {s : State} {die line id : Nat} {a : Ack} (hack : s.acks.get? id = some a) (hsharer : s.fencedBy a.die die = false)

include hack hsharer

/-- A die that its home has not lost, and that has not lost its home, gives up its remote copy. -/
theorem exec_directoryInvalidate_of_die (hdie : die < 4) (hhome : s.fencedBy die a.die = false) :
    exec (.directoryInvalidate die line id) s = .next ((s.dropFarCopy die line).sharerGone die line id) := by
  show execDirectoryInvalidate die line id s = _
  simp only [execDirectoryInvalidate, hack, hsharer, hhome, if_pos hdie, Bool.false_eq_true, if_false]

/-- A device that its home reaches has given the line up. -/
theorem exec_directoryInvalidate_of_device (hdev : 4 ≤ die) (hup : s.cutOff a.die (die - 4) 0 = false) :
    exec (.directoryInvalidate die line id) s = .next (s.sharerGone die line id) := by
  show execDirectoryInvalidate die line id s = _
  simp only [execDirectoryInvalidate, hack, hsharer, hup, if_neg (Nat.not_lt.mpr hdev), Bool.false_eq_true, if_false]

end

end Sys2Proof.Machine

namespace Sys2Proof.Claims

/-- Settles O31: an acknowledgement reaches its core as no cut keeps it off; the tick is a fold over the row of the die's cores. -/
theorem coherenceEvents : Obligations.CoherenceEvents := by
  refine ⟨?acknowledged, ?invalidated, ?tick, fun _ _ _ _ _ => rfl⟩
  case acknowledged =>
    intro s id a hack hup u v x
    show execStoreAcknowledge id s = _
    simp only [execStoreAcknowledge, hack]
    refine if_neg fun hcut => ?_
    obtain ⟨hcore, hcut⟩ := (Bool.and_eq_true _ _).mp hcut
    exact Bool.false_ne_true ((hup (of_decide_eq_true hcore)).symm.trans hcut)
  case invalidated =>
    intro s die line id a hack hsharer
    exact ⟨fun hdie hhome => exec_directoryInvalidate_of_die hack hsharer hdie hhome,
      fun hdev hup => exec_directoryInvalidate_of_device hack hsharer hdev hup⟩
  case tick =>
    intro s die
    refine ⟨_, rfl, State.rest_foldl_modCore _ _ _ s, fun c => ?_⟩
    exact (State.core_foldl_modCore _ _ s _ c).trans
      (ite_congr (propext (div_coresPerDie_eq_iff c die).symm) (fun _ => rfl) fun _ => rfl)

end Sys2Proof.Claims
end

section
/-! 11 R252, R253; 15 R355, R356: accesses of system cores, PCIe agents and queue pairs, branch by branch. -/

open Sys2Proof Sys2Proof.Machine

namespace Sys2Proof.Machine

/-! ## System cores (11 R253) -/

section

variable {s : State} {core : Nat} (hruns : s.boot.runs 8 = true) (hgoes : s.coreStopped core = false)

include hruns hgoes

section

variable (hidle : s.sysQueue.getD [] core = []) {op : CoreOp} (hop : op ≠ .again) (hrange : badRange op.range.1 op.range.2 = false)

include hidle hop hrange

/-- What a core with nothing waiting asks for is done at once, but that a release waits for open writes. -/
theorem exec_systemCoreMemoryAccess_of_idle :
    exec (.systemCoreMemoryAccess core op) s = .next (if op.releases && s.outsideOpen then
      { s with sysQueue := s.sysQueue.put core [op] }.push (.systemCoreMemoryAccess core .again) else s.sysDo core op) := by
  show execSystemCoreMemoryAccess core op s = _
  simp only [execSystemCoreMemoryAccess, hruns, hgoes, hidle, hrange, if_neg hop, List.isEmpty_nil, Bool.not_true, Bool.false_eq_true,
    if_false, apply_ite Host.Outcome.next]

theorem exec_systemCoreMemoryAccess_of_open (hheld : (op.releases && s.outsideOpen) = true) :
    exec (.systemCoreMemoryAccess core op) s = .next
      ({ s with sysQueue := s.sysQueue.put core [op] }.push (.systemCoreMemoryAccess core .again)) :=
  (exec_systemCoreMemoryAccess_of_idle hruns hgoes hidle hop hrange).trans (congrArg _ (if_pos hheld))

theorem exec_systemCoreMemoryAccess_of_free (hfree : (op.releases && s.outsideOpen) = false) :
    exec (.systemCoreMemoryAccess core op) s = .next (s.sysDo core op) :=
  (exec_systemCoreMemoryAccess_of_idle hruns hgoes hidle hop hrange).trans (congrArg _ (if_neg (Bool.eq_false_iff.mp hfree)))

end

section

variable {head : CoreOp} {rest : List CoreOp} (hqueue : s.sysQueue.getD [] core = head :: rest)

include hqueue

theorem exec_systemCoreMemoryAccess_of_waiting {op : CoreOp} (hop : op ≠ .again) :
    exec (.systemCoreMemoryAccess core op) s = .next { s with sysQueue := s.sysQueue.put core (head :: rest ++ [op]) } := by
  show execSystemCoreMemoryAccess core op s = _
  simp only [execSystemCoreMemoryAccess, hruns, hgoes, hqueue, if_neg hop, List.isEmpty_cons, Bool.not_true, Bool.not_false,
    Bool.false_eq_true, if_false, if_true]

omit hgoes in
theorem exec_again_of_held (hheld : (head.releases && s.outsideOpen) = true) :
    exec (.systemCoreMemoryAccess core .again) s = .next (s.push (.systemCoreMemoryAccess core .again)) := by
  show execSystemCoreMemoryAccess core .again s = _
  simp only [execSystemCoreMemoryAccess, State.sysNext, hruns, hqueue, hheld, Bool.or_true, Bool.not_true, Bool.false_eq_true, if_false,
    if_true]

theorem exec_again_of_free (hfree : (head.releases && s.outsideOpen) = false) (hrange : badRange head.range.1 head.range.2 = false) :
    let u := { s with sysQueue := s.sysQueue.putD [] core rest }.sysDo core head
    exec (.systemCoreMemoryAccess core .again) s = .next
      (if rest.isEmpty then u else u.push (.systemCoreMemoryAccess core .again)) := by
  show execSystemCoreMemoryAccess core .again s = _
  simp only [execSystemCoreMemoryAccess, State.sysNext, hruns, hgoes, hqueue, hfree, hrange, Bool.or_false, Bool.not_true,
    Bool.false_eq_true, if_false, if_true]

end

end

/-! ## PCIe (11 R252) -/

theorem exec_pcieDmaAccess_read {s : State} {pa n : Nat} (hrange : badRange pa n = false) :
    let x := (s.outsideReads (memKey s.devNum pa) n).readAt State.homeOfLine (memKey s.devNum pa) n
    exec (.pcieDmaAccess (.read pa n)) s = .next { x.2 with pcieRead := x.1.getD [] } :=
  if_neg (Bool.eq_false_iff.mp hrange)

section

variable {s : State} {pa : Nat} {data : List Byte} (hrange : badRange pa data.length = false)

include hrange

theorem exec_pcieDmaAccess_write_of_line (hline : (linePieces pa data).length ≤ 1) :
    exec (.pcieDmaAccess (.write pa data)) s = .next (s.writeAt State.homeOfLine (memKey s.devNum pa) data) := by
  show execPcieDmaAccess (.write pa data) s = _
  simp only [execPcieDmaAccess, hrange, Bool.false_eq_true, if_false]
  split
  · next hpieces => simp [hpieces] at hline
  · rfl

/-- A write of several lines is left to one write for each. -/
theorem exec_pcieDmaAccess_write_of_lines (hlines : 2 ≤ (linePieces pa data).length) :
    exec (.pcieDmaAccess (.write pa data)) s = .next
      ((linePieces pa data).foldl (fun (s : State) e => s.push (.pcieDmaAccess (.write e.1 e.2))) s) := by
  show execPcieDmaAccess (.write pa data) s = _
  simp only [execPcieDmaAccess, hrange, Bool.false_eq_true, if_false]
  split
  · rfl
  · next hfew =>
    match hpieces : linePieces pa data with
    | [] | [_] => simp [hpieces] at hlines
    | p :: q :: rest => exact (hfew p q rest hpieces).elim

end

/-! ## Queue pairs (15 R355, R356) -/

/-- A message with something to write comes to its completion once its writes are issued; one line of a message has none of its own. -/
theorem exec_rdmaWrite_of_bytes (s : State) (dst : RdmaTarget) {data : List Byte} (hdata : data ≠ []) :
    exec (.rdmaWrite dst data) s = .next (s.rdma dst { r := false, w := true } data (fun u l =>
      some (if dst.piece then u.rdmaMessage dst l else (u.rdmaMessage dst l).push (.rdmaWrite dst [])))) :=
  congrArg Host.Outcome.next (if_neg (mt List.isEmpty_iff.mp hdata))

section

variable {s : State} {dst : RdmaTarget} {q : QueuePair} (hqp : s.qps.get? dst.qp = some q) (hsound : q.error = false)
  (hframe : dst.ipv4 = false)

include hqp hsound hframe

/-- A queue pair with no write open delivers what it releases. -/
theorem State.rdmaDeliver_of_seen (hseen : s.outsideOpen = false) (hdone : s.rdmaOpen dst.qp = false) (again : Instr)
    (f : QueuePair → QueuePair) : s.rdmaDeliver dst again f = s.modQp dst.qp f := by
  simp only [State.rdmaDeliver, hqp, hsound, hframe, hseen, hdone, Bool.or_self, Bool.false_eq_true, if_false]

theorem State.rdma_of_not_covers {need : Need} {data : List Byte} {f : State → List (Leaf × Nat × List Byte) → Option State}
    (hkey : q.covers dst data.length = false) : s.rdma dst need data f = s.modQp dst.qp (fun q => { q with error := true }) := by
  simp only [State.rdma, hqp, hsound, hframe, hkey, Bool.or_self, Bool.not_false, Bool.false_eq_true, if_false, if_true]

variable {need : Need} {data : List Byte} {l : List (Leaf × Nat × List Byte)} {u : State} (hkey : q.covers dst data.length = true)
  (hlines : s.rdmaLines q.part need (linePieces dst.va data) = (some l, u))

include hkey hlines

/-- An operation that its key covers, and whose lines are all translated, acts on them. -/
theorem State.rdma_of_lines {f : State → List (Leaf × Nat × List Byte) → Option State} {v : State} (hacts : f u l = some v) :
    s.rdma dst need data f = v := by
  simp only [State.rdma, hqp, hsound, hframe, hkey, hlines, hacts, Bool.or_self, Bool.not_true, Bool.false_eq_true, if_false,
    Option.getD_some]

end

section

variable {s : State} {dst : RdmaTarget} {q : QueuePair} (hqp : s.qps.get? dst.qp = some q) (hsound : q.error = false)
  (hframe : dst.ipv4 = false) {l : List (Leaf × Nat × List Byte)} {u v : State} {x : List Byte}

include hqp hsound hframe

theorem exec_rdmaRead_of_fetch {n : Nat} (hkey : q.covers dst n = true)
    (hlines : s.rdmaLines q.part { r := true, w := false } (linePieces dst.va (List.replicate n 0)) = (some l, u))
    (hfetch : u.rdmaFetch l = (some x, v)) :
    exec (.rdmaRead dst n) s = .next (v.modQp dst.qp (fun q => { q with reply := x })) :=
  congrArg Host.Outcome.next (State.rdma_of_lines hqp hsound hframe (by rwa [List.length_replicate]) hlines (by simp only [hfetch]))

/-- An atomic that finds its bytes sound stores what its update answers, if anything, and replies with the old bytes. -/
theorem State.rdmaAtomic_of_fetch (hkey : q.covers dst 8 = true) (halign : dst.va % 8 = 0)
    (hlines : s.rdmaLines q.part { r := true, w := true } (linePieces dst.va (List.replicate 8 0)) = (some l, u))
    (hfetch : u.rdmaFetch l = (some x, v)) (f : Nat → Option Nat) :
    s.rdmaAtomic dst f = ((f (leNat x)).elim v fun y =>
      v.rdmaStore (l.map (fun e => (e.1, e.2.1, leBytes 8 y)))).modQp dst.qp (fun q => { q with reply := x }) := by
  refine State.rdma_of_lines hqp hsound hframe (by rwa [List.length_replicate]) hlines ?_
  simp only [halign, hfetch, ne_eq, not_true_eq_false, if_false]
  cases f (leNat x) <;> rfl

end

end Sys2Proof.Machine

namespace Sys2Proof.Claims

/-- Settles O41: each agent's operation follows the branch of its definition that the hypotheses choose. -/
theorem outsideEvents : Obligations.OutsideEvents := by
  intro s
  refine ⟨?idle, ?waiting, fun pa n hrange => exec_pcieDmaAccess_read hrange, ?pcieWrite, ?deliver, ?write, ?read, ?atomic, ?uncovered,
    fun _ => rfl⟩
  case idle =>
    intro core hruns hgoes hidle
    refine ⟨fun o aq rl hrange hrel => ?access, fun pa n aq hrange => ?lr, fun pa n x rl hrange hrel => ?sc,
      fun a b c d hrel => ?fence, fun op hrange hrel hopen => ?release⟩
    case access =>
      exact exec_systemCoreMemoryAccess_of_free hruns hgoes hidle nofun hrange (Bool.and_eq_false_imp.mpr hrel)
    case lr => exact exec_systemCoreMemoryAccess_of_free hruns hgoes hidle nofun hrange rfl
    case sc =>
      exact exec_systemCoreMemoryAccess_of_free hruns hgoes hidle nofun hrange (Bool.and_eq_false_imp.mpr hrel)
    case fence => exact exec_systemCoreMemoryAccess_of_free hruns hgoes hidle nofun rfl hrel
    case release =>
      have hop : op ≠ .again := by
        rintro rfl
        exact Bool.false_ne_true hrel
      exact exec_systemCoreMemoryAccess_of_open hruns hgoes hidle hop hrange (by rw [hrel, hopen]; rfl)
  case waiting =>
    intro core op head rest hruns hgoes hqueue
    exact ⟨fun hop => exec_systemCoreMemoryAccess_of_waiting hruns hgoes hqueue hop,
      fun hheld => exec_again_of_held hruns hqueue hheld,
      fun hfree hrange => exec_again_of_free hruns hgoes hqueue hfree hrange⟩
  case pcieWrite =>
    intro pa data hrange
    exact ⟨fun hline => exec_pcieDmaAccess_write_of_line hrange hline, fun hlines => exec_pcieDmaAccess_write_of_lines hrange hlines⟩
  case deliver =>
    intro dst data imm q hqp hsound hframe hseen hdone
    have hdeliver := State.rdmaDeliver_of_seen hqp hsound hframe hseen hdone
    exact ⟨congrArg Host.Outcome.next (hdeliver _ _), congrArg Host.Outcome.next (hdeliver _ _),
      congrArg Host.Outcome.next (hdeliver _ _)⟩
  case write =>
    intro dst data imm q l u hqp hsound hframe hkey hlines v
    exact ⟨fun hdata => (exec_rdmaWrite_of_bytes s dst hdata).trans
        (congrArg Host.Outcome.next (State.rdma_of_lines hqp hsound hframe hkey hlines rfl)),
      congrArg Host.Outcome.next (State.rdma_of_lines hqp hsound hframe hkey hlines rfl)⟩
  case read =>
    intro dst n q l u v x hqp hsound hframe hkey hlines hfetch
    exact exec_rdmaRead_of_fetch hqp hsound hframe hkey hlines hfetch
  case atomic =>
    intro dst q l u v x hqp hsound hframe hkey halign hlines hfetch store
    have hatomic := State.rdmaAtomic_of_fetch hqp hsound hframe hkey halign hlines hfetch
    refine ⟨fun old new => congrArg Host.Outcome.next ((hatomic _).trans ?_), fun y => congrArg Host.Outcome.next (hatomic _)⟩
    split <;> rfl
  case uncovered =>
    intro dst q data hqp hsound hframe hdata hkey
    exact (exec_rdmaWrite_of_bytes s dst hdata).trans (congrArg Host.Outcome.next (State.rdma_of_not_covers hqp hsound hframe hkey))

end Sys2Proof.Claims
end

section
/-! 12 R290, R291; 15 R351, R353: a trailing warp's turn at the item that its leading warp waits to perform; and the port at which a
packet whose CRC fails counts. -/

open Sys2Proof Sys2Proof.Machine Sys2Proof.Claims

namespace Sys2Proof.Machine

/-! ## A trailing warp at an item of its leading warp's (12 R290, R291) -/

section

variable {s : State} {a : Attr} {i : Iss} {n : Nat} (body : Iss → State → State × Word)

theorem issue_of_trail (extra stall : Iss → State → Bool) (hissuer : s.issuer a.p = some i) (htrail : i.u = .trail n) :
    s.issue a extra stall body = .next (s.trailTurn i a n body) := by
  simp only [State.issue, hissuer, htrail]

variable {x : CheckItem} (hstream : i.pair.stream = []) (hitem : i.pair.item = some x) (hopen : i.pair.compared = false)

include hstream hitem hopen

/-- A word that is compared with nothing does not match, whatever the item. -/
theorem trailTurn_of_uncompared (hcmp : a.cmp = none) : s.trailTurn i a n body = s.consume i.blk Cause.CHECK_MISMATCH := by
  simp only [State.trailTurn, hstream, hitem, hopen, hcmp, Option.any_none, Bool.false_eq_true, if_false]

variable {f : Iss → State → List Nat} (hcmp : a.cmp = some f)

include hcmp

theorem trailTurn_of_other (hother : x ≠ i.checkItem s a f) : s.trailTurn i a n body = s.consume i.blk Cause.CHECK_MISMATCH := by
  simp only [State.trailTurn, hstream, hitem, hopen, hcmp, Option.any_some, beq_iff_eq, hother, Bool.false_eq_true, if_false]

theorem trailTurn_of_same (hsame : x = i.checkItem s a f) :
    s.trailTurn i a n body =
      (s.modPair i.blk n (fun q => { q with compared := true })).modUnit i.blk i.u Warp.standBack := by
  simp only [State.trailTurn, hstream, hitem, hopen, hcmp, Option.any_some, beq_iff_eq, hsame, Bool.false_eq_true, if_false, if_true]

end

/-- A block consumes the first error that comes. -/
theorem consumed_consume {s : State} {blk : Nat} {b : Block} (hblock : s.block? blk = some b) (hfirst : b.consumed = none)
    (cause unit : Nat) : ((s.consume blk cause unit).block? blk).map Block.consumed = some (some cause) := by
  simp only [State.consume, State.block?_modBlock_same, hblock, hfirst, Option.map_some, Option.getD_none]

/-! ## A packet whose CRC fails (15 R351, R353) -/

theorem State.port_modPort_other (s : State) {p q : Nat} (f : Port → Port) (h : q ≠ p) : (s.modPort p f).port q = s.port q :=
  Table.getD_put_other _ _ _ h

theorem State.port_arm (s : State) (time : Nat) (i : Instr) (q : Nat) : (s.arm time i).port q = s.port q := by
  unfold State.arm
  split <;> rfl

theorem State.port_retrain (s : State) (link q : Nat) : (s.retrain link).port q = s.port q := by
  unfold State.retrain
  split
  · rfl
  · split
    · rfl
    · exact State.port_arm _ _ _ _

theorem State.port_failPort_other (s : State) {p q : Nat} (h : q ≠ p) : (s.failPort p).port q = s.port q := by
  have hfailed := s.port_modPort_other (fun p => { p.blank with fail := true, up := false, crc := [] }) h
  unfold State.failPort
  dsimp only
  split
  · rfl
  · split
    · exact hfailed
    · exact (State.port_retrain _ _ _).trans hfailed

/-- A CRC failure counts at its own port alone. -/
theorem State.port_crcFailure_other (s : State) {p q : Nat} (h : q ≠ p) : (s.crcFailure p).port q = s.port q := by
  unfold State.crcFailure
  dsimp only
  split
  · exact (State.port_failPort_other _ h).trans (State.port_modPort_other _ _ h)
  · exact State.port_modPort_other _ _ h

section

variable {s : State} {link : Nat} {l : Link} (hlink : s.links.get? link = some l)

include hlink

/-- A packet whose CRC fails counts at the member to which its first flit was dealt: the flits heard before it say which. -/
theorem State.badPacket_of_member {p : Nat} (flits : Nat) (hmember : l.member l.heard = some p) :
    s.badPacket link flits = (s.modLink link (fun l => { l with heard := l.heard + flits })).crcFailure p := by
  simp only [State.badPacket, hlink, hmember]

theorem exec_fabricPacketReceive_of_badCrc (seq : Nat) (body : FabricBody) (hup : l.down = false) (hreached : s.cutPeer l.peer = false) :
    exec (.fabricPacketReceive link seq false body) s = .next (s.badPacket link body.flits) := by
  show execFabricPacketReceive link seq false body s = _
  simp only [execFabricPacketReceive, hlink, hup, hreached, Bool.or_self, Bool.not_false, Bool.false_eq_true, if_false, if_true]

end

/-- A link of ports 0 and 1 to device 9, which has heard no flit yet. -/
def twoPorts : Link := { formed := [0, 1], members := [0, 1], peer := 9 }

def twoPortLink : State := { links := [(0, twoPorts)] }

theorem twoPortLink_reached : twoPortLink.cutPeer twoPorts.peer = false := by decide

/-- The first packet of `twoPortLink` comes by port 0 from its first flit on: where its CRC fails, port 1 counts nothing. -/
theorem twoPortLink_badPacket_port (flits : Nat) : (twoPortLink.badPacket 0 flits).port 1 = twoPortLink.port 1 := by
  rw [State.badPacket_of_member (s := twoPortLink) (l := twoPorts) (p := 0) rfl flits rfl]
  exact State.port_crcFailure_other _ (by decide)

end Sys2Proof.Machine

namespace Sys2Proof.Claims

/-- Settles O58: a trailing warp's turn compares the item with its own; COMMIT has none, so that no item matches it. -/
theorem trailingMismatches : Obligations.TrailingMismatches := by
  intro s p sa i n x hissuer htrail hstream hitem hopen a own
  refine ⟨?commit, fun hother => ?mismatch, fun hsame => ?matched, fun b hblock hfirst => consumed_consume hblock hfirst _ _⟩
  case commit =>
    exact (issue_of_trail _ always never hissuer htrail).trans
      (congrArg Host.Outcome.next (trailTurn_of_uncompared _ hstream hitem hopen rfl))
  case mismatch =>
    exact (issue_of_trail _ always never hissuer htrail).trans
      (congrArg Host.Outcome.next (trailTurn_of_other _ hstream hitem hopen rfl hother))
  case matched =>
    exact (issue_of_trail _ always never hissuer htrail).trans
      (congrArg Host.Outcome.next (trailTurn_of_same _ hstream hitem hopen rfl hsame))

/-- Refutes O40, by a packet of one flit whose CRC fails, the first that a link of ports 0 and 1 hears: the model counts the failure at
port 0, by which the flit has come, and the statement, which adds the flit before it looks for the member, at port 1. -/
theorem not_linkEvents : ¬ Obligations.LinkEvents := by
  intro h
  obtain ⟨-, -, -, -, -, -, hpackets, -⟩ := h twoPortLink
  have hstated := (hpackets 0 0 .pad twoPorts rfl rfl twoPortLink_reached rfl).2
  rw [exec_fabricPacketReceive_of_badCrc (s := twoPortLink) (l := twoPorts) rfl 0 .pad rfl twoPortLink_reached] at hstated
  have hport : (twoPortLink.port 1).crc = [0] := by
    rw [← twoPortLink_badPacket_port]
    exact congrArg (fun t => (t.port 1).crc) (Host.Outcome.next.inj hstated)
  exact absurd hport (by decide)

end Sys2Proof.Claims
end

section
/-! 02 R56; 09 R215; 12 R286; 13 R313, R315; 14 R339: the record at the head of a core's ring, and what it binds. -/

open Sys2Proof Sys2Proof.Machine Sys2Proof.Claims

namespace Sys2Proof.Machine

/-! ## A record that is ready to act -/

/-- A sound record of its kind acts once no block of its core is being bound; one that is no switch also once its slots and tiles are
free and no earlier block of its region is still to come. -/
theorem State.head_of_ready {s : State} {core kind : Nat} {r : Bind} {rest : List Bind} (hring : s.ring core = r :: rest)
    (hkind : bKind r = kind) (hidle : s.beingBound core = false) (hsound : s.bindBad core r = false)
    (hroom : kind = 3 ∨ (s.bindFree core r = true ∧ s.bindEarly core r = false)) : s.head core kind = .go r := by
  have hacts : ¬ (kind ≠ 3 ∧ (!s.bindFree core r ∨ s.bindEarly core r)) := by
    rintro ⟨hbinds, hheld⟩
    obtain hswitch | ⟨hfree, hturn⟩ := hroom
    · exact hbinds hswitch
    · rw [hfree, hturn] at hheld
      exact hheld.elim Bool.false_ne_true Bool.false_ne_true
  simp only [State.head, hring, hkind, hidle, hsound, hacts, ne_eq, not_true_eq_false, Bool.false_eq_true, if_false]

/-! ## States in which each kind of record is ready -/

/-- A record of region 1 for core 0: block (0, 0, 0) or rung 0, with slot 0 and no tile. -/
def firstRecord (kind : Nat) : Bind := bindRecord 1 0 0 0 0 0 0 0 0 kind

/-- Region 1's ladder has launched item 7 to slot 0 of core 0. -/
def launchedLadder : Ladder :=
  { die := 0, cluster := 0, part := 0, key := 0, hdie := 0, tracked := false, desc := BitVec.ofNat 1024 (2 ^ 64)
    launched := [{ rung := 0, core := 0, wslot0 := 0, items := [{ id := 7, frame := none, since := 0 }] }] }

/-- That record stands in the ring of core 0; a block of region 1 waits to be bound again, or none. -/
def recordWaits (kind : Nat) (blocks : Table Block) : State :=
  { regions := [(1, { part := 0, die := 0 })], ladders := [(1, launchedLadder)], blocks := blocks
    dies := [(0, { rings := [(0, [firstRecord kind])] })] }

/-- The block of region 1 that waits to be bound again. -/
def unboundBlock : Block := { regid := 1, core := 0, loc := .unbound }

theorem recordWaits_head {kind : Nat} (hkind : kind < 4) (blocks : Table Block) (hblocks : blocks = [] ∨ blocks = [(1, unboundBlock)]) :
    (recordWaits kind blocks).head 0 kind = .go (firstRecord kind) := by
  have hready : ∀ k < 4, ∀ l ∈ [([] : Table Block), [(1, unboundBlock)]],
      bKind (firstRecord k) = k ∧ (recordWaits k l).beingBound 0 = false ∧ (recordWaits k l).bindBad 0 (firstRecord k) = false
        ∧ (k = 3 ∨ ((recordWaits k l).bindFree 0 (firstRecord k) = true ∧ (recordWaits k l).bindEarly 0 (firstRecord k) = false)) := by
    decide +kernel
  obtain ⟨hown, hidle, hsound, hroom⟩ := hready kind hkind blocks (by simpa using hblocks)
  exact State.head_of_ready (rest := []) rfl hown hidle hsound hroom

end Sys2Proof.Machine

namespace Sys2Proof.Claims

/-- The premises of each clause of O35 can be met: a fresh block, a rung warp with its item, a block that was unbound, a switch, and a
block that is being filled. -/
theorem bindEvents_premises :
    ((recordWaits 0 []).head 0 0 = .go (firstRecord 0)
      ∧ (((recordWaits 0 []).region? (bRegid (firstRecord 0))).any (fun g => g.state == 1 && !g.aborting)) = true)
    ∧ ((recordWaits 1 []).head 0 1 = .go (firstRecord 1)
      ∧ (recordWaits 1 []).rungItems 0 (firstRecord 1) = some (1, [some (7, none)]))
    ∧ ((recordWaits 2 [(1, unboundBlock)]).head 0 2 = .go (firstRecord 2)
      ∧ (recordWaits 2 [(1, unboundBlock)]).unboundFor 0 (firstRecord 2) = some (1, unboundBlock))
    ∧ (recordWaits 3 []).head 0 3 = .go (firstRecord 3)
    ∧ (((recordWaits 0 [(1, { unboundBlock with loc := .filling })]).block? 1).map Block.loc = some .filling) := by
  refine ⟨⟨recordWaits_head (by decide) [] (.inl rfl), ?_⟩, ⟨recordWaits_head (by decide) [] (.inl rfl), ?_⟩,
    ⟨recordWaits_head (by decide) _ (.inr rfl), ?_⟩, recordWaits_head (by decide) [] (.inl rfl), ?_⟩
  all_goals decide +kernel

/-- Settles O35: a record that is ready binds what its hypotheses name; a switch, and the start of a block that is being filled, are
their definitions' one branch that acts. -/
theorem bindEvents : Obligations.BindEvents := by
  intro s die core r c
  refine ⟨?fresh, ?rung, ?again, ?switch, ?start⟩
  case fresh =>
    intro g hhead hregion hlive hkept
    show execBindBlock die core s = _
    simp only [execBindBlock, c, hhead, hregion]
    refine if_neg ?_
    rintro (⟨hready, hrunning⟩ | habort)
    · exact hlive.elim hready hrunning
    · exact Bool.false_ne_true (hkept.symm.trans habort)
  case rung =>
    intro g lid items l hhead hitems hregion hladder
    show execBindRungWarp die core s = _
    simp only [execBindRungWarp, c, hhead, hitems, hregion, hladder]
  case again =>
    intro g blk b hhead hunbound hregion
    show execBindResumeSnapshot die core s = _
    simp only [execBindResumeSnapshot, c, hhead, hunbound, hregion]
  case switch =>
    intro hhead
    show execBankSwitch die core s = _
    simp only [execBankSwitch, c, hhead]
  case start =>
    intro blk b hblock hfilling
    show execDispatchStart blk s = _
    simp only [execDispatchStart, hblock]
    exact if_neg (not_not_intro hfilling)

end Sys2Proof.Claims
end

section
/-! 05 R114; 13 R302, R309, R310, R321; 15 R365, R366: launches, placement, ageing, limits, the end of a block, and charges. -/

open Sys2Proof Sys2Proof.Machine Sys2Proof.Claims

namespace Sys2Proof.Machine

theorem State.addEnergy_now (s : State) (blk cls n : Nat) : (s.addEnergy blk cls n).now = s.now := by
  obtain ⟨hnow, -⟩ := (onlyUnit_addEnergy s blk .front cls n).rest
  exact hnow

/-- A block that is over, with no engine command in flight, goes to its last commit point and ends once its writes are acknowledged;
one that does not run on ends at once. -/
theorem exec_blockCompletion_of_over {s : State} {blk : Nat} {b : Block} (hblock : s.block? blk = some b) (hover : b.over = true)
    (hidle : s.cmds.any (fun e => e.2.dest.block == blk) = false) (hbound : b.loc ≠ .unbound) :
    exec (.blockCompletion blk) s = .next
      (if b.fate = .running then
        if !b.exiting then ((s.modBlock blk (fun b => { b with exiting := true })).commit blk).askCompletion blk
        else if b.commitDue || b.consumed.isSome then s
        else if (s.acksOf blk).isEmpty then s.blockEnd blk b else s
      else s.blockEnd blk b) := by
  show execBlockCompletion blk s = _
  simp only [execBlockCompletion, hblock, hover, hidle, beq_eq_false_iff_ne.mpr hbound, Bool.not_true, Bool.or_self,
    Bool.false_eq_true, if_false, apply_ite (Host.Outcome.next (σ := State) (φ := Fault) (ρ := Refusal))]

end Sys2Proof.Machine

namespace Sys2Proof.Claims

/-- Settles O36: each event follows the branch of its definition that the hypotheses choose; charging energy takes no time, so that a
block's next charge is due 1,024 cycles from now. -/
theorem villekEvents : Obligations.VillekEvents := by
  refine ⟨?root, ?place, ?age, ?limits, ?block, ?time, ?residence⟩
  case root =>
    intro s die part pa rest hruns hqueue
    show execRootLaunch die s = _
    simp only [execRootLaunch, hruns, hqueue, Bool.not_true, Bool.false_eq_true, if_false]
  case place =>
    intro s die region core tile0 wslot0 snap r hregion hdie hwants hcore hfit hfirst htiles hslots hrank n
    show execVillekPlacement die region core tile0 wslot0 snap s = _
    simp only [execVillekPlacement, hregion, hdie, hwants, hcore, hfit, hfirst, htiles, hslots, hrank, ne_eq, not_true_eq_false,
      Bool.not_true, Bool.not_false, Bool.and_self, Bool.false_and, Bool.or_false, Bool.false_eq_true, or_self, if_false]
    rfl
  case age =>
    intro s region r hregion hlive hwhole hone
    show execPriorityAgeing region s = _
    simp only [execPriorityAgeing, hregion]
    refine if_neg ?_
    rintro (⟨hready, hrunning⟩ | hpart | hnone)
    · exact hlive.elim hready hrunning
    · exact hpart hwhole
    · exact hone hnone
  case limits =>
    intro s die live late hlive s'
    exact if_neg (Bool.eq_false_iff.mp hlive)
  case block =>
    intro s blk b hblock hover hidle hbound
    rw [exec_blockCompletion_of_over hblock hover hidle hbound]
    refine ⟨fun hfate hstays => ?commits, fun hfate hexits hdone hsound hseen => ?ends, fun hfate => ?gone⟩
    case commits => simp only [hfate, hstays, Bool.not_false, if_true]
    case ends => simp only [hfate, hexits, hdone, hsound, hseen, Bool.not_true, Option.isSome_none, Bool.or_self, Bool.false_eq_true,
      if_false, if_true]
    case gone => rw [if_neg hfate]
  case time =>
    intro s region r hregion hruns
    show execExecTimeCharge region s = _
    simp only [execExecTimeCharge, hregion]
    exact if_neg (not_not_intro hruns)
  case residence =>
    intro s blk b hblock hbound
    show execResidenceEnergyCharge blk s = _
    simp only [execResidenceEnergyCharge, hblock]
    rw [if_neg hbound, apply_ite State.now, State.addEnergy_now, ite_self]

end Sys2Proof.Claims
end

section
/-! 00 R6; 02 R59; 12 R274, R275; 13 R316; 15 R357 to R361, R364, R366: what management does, and what a device reset keeps. -/

open Sys2Proof Sys2Proof.Machine Sys2Proof.Claims

namespace Sys2Proof.Machine

/-! ## Discarding repair entries whose error lies beyond their code (12 R274) -/

theorem State.foldl_post_eq {α : Type} (kind unit die regid loc : Nat) (l : List α) (s : State) :
    ∃ q, l.foldl (fun (s : State) _ => s.post kind unit die regid loc) s = { s with eventQ := q } := by
  induction l generalizing s with
  | nil => exact ⟨_, rfl⟩
  | cons x l ih => exact ih _

/-- The die's list of entries is written, and events are posted: nothing else changes. -/
theorem State.dropBadRepairs_eq (s : State) (die : Nat) : ∃ q d, s.dropBadRepairs die = { s with eventQ := q, dies := d } := by
  unfold State.dropBadRepairs
  extract_lets lost dropped
  obtain ⟨q, hposts⟩ := State.foldl_post_eq 0x02 9 die 0xFFFFFFFF 0 lost dropped
  rw [hposts]
  dsimp only [dropped]
  split <;> exact ⟨_, _, rfl⟩

theorem State.foldl_dropBadRepairs_eq (l : List Nat) (s : State) :
    ∃ q d, l.foldl State.dropBadRepairs s = { s with eventQ := q, dies := d } := by
  induction l generalizing s with
  | nil => exact ⟨_, _, rfl⟩
  | cons die l ih =>
    obtain ⟨q, d, hdie⟩ := s.dropBadRepairs_eq die
    rw [List.foldl_cons, hdie]
    exact ih _

end Sys2Proof.Machine

namespace Sys2Proof.Claims

/-- Settles O39: most events are their definitions, under the condition on which they act; a device reset first discards repair entries,
which leaves all that it keeps. -/
theorem upkeepEvents : Obligations.UpkeepEvents := by
  intro s
  refine ⟨fun _ _ => rfl, ?adopt, ?scrub, fun die hdie => if_pos hdie, ?device, ?power, ?retry, fun _ => rfl, ?measure, fun _ _ => rfl,
    fun _ => rfl, fun _ => rfl, rfl, fun _ _ _ => rfl, fun _ => rfl, fun _ => rfl⟩
  case adopt =>
    intro u l hstaged
    show execCalendarAdopt u s = _
    simp only [execCalendarAdopt, hstaged]
  case scrub => exact fun die line => ⟨rfl, fun _ => rfl, fun hsound => if_neg (Bool.eq_false_iff.mp hsound)⟩
  case device =>
    obtain ⟨q, d, hdrop⟩ := State.foldl_dropBadRepairs_eq (List.range Config.dies) s
    show ∃ t, execDeviceReset s = .next t ∧ _
    unfold execDeviceReset
    rw [hdrop]
    exact ⟨_, rfl, rfl, rfl, rfl, rfl, rfl, rfl, rfl, rfl, rfl, rfl, rfl, rfl, rfl, rfl⟩
  case power => exact fun fails version hoff => if_neg (Bool.eq_false_iff.mp hoff)
  case retry => exact fun fails version hon herr hfirst hlast => congrArg Host.Outcome.next (if_pos ⟨hon, herr, hfirst, hlast⟩)
  case measure => exact fun reg digest hfirst hlast => if_pos ⟨hfirst, hlast⟩

end Sys2Proof.Claims
end

section
/-! 14 R333, R334, R337: what parking does to a unit, and what a fault that a handler serves does to the state. -/

open Sys2Proof Sys2Proof.Machine Sys2Proof.Claims

namespace Sys2Proof.Machine

theorem inMask_not {m : Word} {l : Nat} (hl : l < 32) : inMask (~~~m) l = !inMask m l := by
  simp only [inMask, natBit, BitVec.testBit_toNat, BitVec.getLsbD_not, hl, decide_true, Bool.true_and]

theorem inMask_andNot (n m : Word) (l : Nat) : inMask (n &&& ~~~m) l = (inMask n l && !inMask m l) := by
  rw [inMask_and]
  by_cases hn : inMask n l = true
  · rw [inMask_not (inMask_lt hn)]
  · simp only [Bool.not_eq_true] at hn
    simp only [hn, Bool.false_and]

/-! ## Updates of a block's pairs alone (12 R288) -/

/-- Between `s` and `t` the streams and items of one block's warp pairs alone have changed; a block without pairs gains none. -/
structure OnlyPairs (s t : State) (blk : Nat) : Prop where
  fields : t = { s with blocks := t.blocks }
  others : ∀ k, k ≠ blk → t.block? k = s.block? k
  block : ∃ g : List Pair → List Pair, g [] = []
    ∧ t.block? blk = (s.block? blk).map (fun b => { b with ctx := { b.ctx with pairs := g b.ctx.pairs } })

namespace OnlyPairs

variable {s t r : State} {blk : Nat}

theorem refl (s : State) (blk : Nat) : OnlyPairs s s blk := ⟨rfl, fun _ _ => rfl, id, rfl, Option.map_id'.symm⟩

theorem trans (h : OnlyPairs s t blk) (h' : OnlyPairs t r blk) : OnlyPairs s r blk := by
  obtain ⟨g, hg, hblock⟩ := h.block
  obtain ⟨g', hg', hblock'⟩ := h'.block
  refine ⟨?_, fun k hk => (h'.others k hk).trans (h.others k hk), g' ∘ g, ?_, ?_⟩
  · calc r = { t with blocks := r.blocks } := h'.fields
      _ = { s with blocks := r.blocks } := by rw [h.fields]
  · rw [Function.comp_apply, hg, hg']
  · rw [hblock', hblock, Option.map_map]; rfl

theorem mem (h : OnlyPairs s t blk) : t.mem = s.mem := by rw [h.fields]

theorem regions (h : OnlyPairs s t blk) : t.regions = s.regions := by rw [h.fields]

theorem unit? (h : OnlyPairs s t blk) (k : Nat) (u : UnitRef) : t.unit? k u = s.unit? k u := by
  obtain ⟨g, -, hblock⟩ := h.block
  unfold State.unit?
  by_cases hk : k = blk
  · rw [hk, hblock]
    cases s.block? blk with
    | none => rfl
    | some b => cases u <;> rfl
  · rw [h.others k hk]

/-- In a block without pairs nothing has changed. -/
theorem onlyUnit {b : Block} (h : OnlyPairs s t blk) (hblock : s.block? blk = some b) (hpairs : b.ctx.pairs = []) (u : UnitRef) :
    OnlyUnit s t blk u := by
  have hcores : t.cores = s.cores := by rw [h.fields]
  have hacks : t.acks = s.acks := by rw [h.fields]
  have hsame : t.block? blk = s.block? blk := by
    obtain ⟨g, hg, hgives⟩ := h.block
    rw [hgives, hblock, Option.map_some, hpairs, hg, ← hpairs]
  refine ⟨?_, h.others, by rw [hsame], fun r => ?_, fun c => ?_, by rw [hacks]⟩
  · rw [h.fields]
  · rw [State.region?, h.regions]; rfl
  · rw [State.core, hcores]; rfl

end OnlyPairs

theorem onlyPairs_modPair (s : State) (blk n : Nat) (f : Pair → Pair) : OnlyPairs s (s.modPair blk n f) blk where
  fields := rfl
  others k hk := by rw [State.modPair, State.block?_modBlock, if_neg hk]
  block := ⟨fun l => listMod l n f, rfl, State.block?_modBlock_same _ _ _⟩

theorem onlyPairs_leave (s : State) (blk : Nat) (u : UnitRef) (x : Issued) : OnlyPairs s (s.leave blk u x) blk := by
  cases u with
  | warp n => exact onlyPairs_modPair s blk n _
  | trail n => exact .refl s blk
  | front => exact .refl s blk

theorem onlyPairs_leaveMove (s : State) (blk : Nat) (u : UnitRef) (m : Word) (pc : Nat) :
    OnlyPairs s (s.leaveMove blk u m pc) blk := by
  unfold State.leaveMove
  split
  · exact .refl s blk
  · exact onlyPairs_leave s blk u _

theorem onlyPairs_leaveParked (s : State) (blk : Nat) (u : UnitRef) (m : Word) (old new : Warp) :
    OnlyPairs s (s.leaveParked blk u m old new) blk := by
  have hmoves : ∀ (pcOf : Nat → Nat) (ls : List Nat) (s : State),
      OnlyPairs s (ls.foldl (fun s l => s.leaveMove blk u (laneBit l) (pcOf l)) s) blk := by
    intro pcOf ls
    induction ls with
    | nil => exact fun s => .refl s blk
    | cons l ls ih => exact fun s => (onlyPairs_leaveMove s blk u _ _).trans (ih _)
  cases u with
  | warp n => exact (onlyPairs_modPair s blk n _).trans (hmoves (fun l => match (new.lane l).park with
      | some p => p.resume
      | none => (new.lane l).pc) _ _)
  | trail n => exact .refl s blk
  | front => exact .refl s blk

/-! ## Parking lanes (04 R95, R96; 14 R333) -/

/-- The lanes that go back, and do not park, where the lanes `m` park. -/
def Warp.sentBack (w : Warp) (m : Word) : Word :=
  match w.backTo m with
  | some (n, _) => if w.atLast then 0 else n &&& ~~~m
  | none => 0

theorem Warp.inMask_sentBack (w : Warp) (m : Word) (l : Nat) :
    inMask (w.sentBack m) l = true ↔
      inMask m l = false ∧ ∃ n pc, w.backTo m = some (n, pc) ∧ inMask n l = true ∧ w.atLast = false := by
  have hzero : inMask 0#32 l = false := Nat.zero_testBit l
  unfold Warp.sentBack
  cases w.backTo m with
  | none => simp [hzero]
  | some back =>
    obtain ⟨n, pc⟩ := back
    cases w.atLast <;> simp [hzero, inMask_andNot, and_comm]

/-- Where a parked lane resumes: where its fault says, or at the start of the chain or the issue unit that it stands in. -/
def Warp.resumeOf (w : Warp) (m : Word) (p : Park) (l : Nat) : Nat :=
  match w.backTo m with
  | some (n, pc) => if inMask n l && !(p.issue.isSome && p.entry.isNone) then pc else p.resume
  | none => p.resume

section

variable (w : Warp) (m : Word) (p : Nat → Park)

@[simp] theorem Warp.s_park : (w.park m p).s = w.s := rfl
@[simp] theorem Warp.preds_park : (w.park m p).preds = w.preds := rfl
@[simp] theorem Warp.setM_park : (w.park m p).setM = w.setM := rfl
@[simp] theorem Warp.length_park : (w.park m p).lanes.length = w.lanes.length :=
  (Warp.length_modLanes _ _ _).trans (Warp.length_modLanes _ _ _)

variable {w m p} {l : Nat}

/-- A lane of the fault keeps its registers and its PC. -/
theorem Warp.lane_park_in (hin : inMask m l = true) (hl : l < w.lanes.length) :
    ∃ past held, (w.park m p).lane l =
      { w.lane l with
        status := .parked, wait := .none, resv := none, latches := [], held := held
        park := some { p l with past := past, resume := w.resumeOf m (p l) l } } := by
  have hstays : ¬ inMask (w.sentBack m) l = true := fun hback => by
    rw [((w.inMask_sentBack m l).mp hback).1] at hin
    exact Bool.false_ne_true hin
  exact ⟨_, _, (Warp.lane_modLanes_out hstays).trans (Warp.lane_modLanes_in hin hl)⟩

theorem Warp.sentBack_iff (hout : inMask m l = false) : (inMask (w.sentBack m) l = true ∧ (w.lane l).status = .running) ↔
    ∃ n pc, w.backTo m = some (n, pc) ∧ inMask n l = true ∧ w.atLast = false ∧ (w.lane l).status = .running := by
  rw [Warp.inMask_sentBack]
  constructor
  · rintro ⟨⟨-, n, pc, hback, hin, hlast⟩, hrun⟩
    exact ⟨n, pc, hback, hin, hlast, hrun⟩
  · rintro ⟨n, pc, hback, hin, hlast, hrun⟩
    exact ⟨⟨hout, n, pc, hback, hin, hlast⟩, hrun⟩

/-- Another lane stays as it is, or goes back to the start of the chain or the issue unit that its path stands in. -/
theorem Warp.lane_park_out (hout : inMask m l = false) (hl : l < w.lanes.length) :
    (w.park m p).lane l =
      if inMask (w.sentBack m) l = true ∧ (w.lane l).status = .running then
        { w.lane l with pc := ((w.backTo m).map Prod.snd).getD 0, latches := [] }
      else w.lane l := by
  refine (Warp.lane_modLanes _ (w.sentBack m) _ l).trans ?_
  rw [Warp.length_modLanes, Warp.lane_modLanes_out (Bool.eq_false_iff.mp hout)]
  by_cases hback : inMask (w.sentBack m) l = true
  · simp only [hback, hl, and_self, if_true, beq_iff_eq, true_and]
  · rw [if_neg (fun h => hback h.1), if_neg (fun h => hback h.1)]

end

/-! ## A fault that a handler serves (14 R333 to R337) -/

/-- What taking a fault records beside its unit: the fault has a number, its watch units set off their stops, and a chain that it breaks
is counted. -/
def State.noteFault (s : State) (blk : Nat) (b : Block) (w : Warp) (m : Word) (p : Nat → Park) : State :=
  let s := s.fresh.2.fireStops b.core ((lanesOf m).flatMap (fun i => (p i).watch))
  if w.chain.any (fun c => c.lanes &&& m != 0) && !w.atLast then s.count b.core blk 11 1 else s

section

variable (s : State) (blk : Nat) (b : Block) (w : Warp) (m : Word) (p : Nat → Park)

/-- Only cores, stops and the numbering differ from before. -/
theorem State.noteFault_eq : ∃ cores stops next, s.noteFault blk b w m p = { s with cores := cores, stops := stops, next := next } := by
  unfold State.noteFault State.count
  dsimp only
  split
  · split
    · exact ⟨_, _, _, rfl⟩
    · exact ⟨_, _, _, rfl⟩
  · exact ⟨_, _, _, rfl⟩

theorem State.noteFault_mem : (s.noteFault blk b w m p).mem = s.mem := by
  obtain ⟨_, _, _, hnoted⟩ := s.noteFault_eq blk b w m p
  rw [hnoted]

theorem State.noteFault_regions : (s.noteFault blk b w m p).regions = s.regions := by
  obtain ⟨_, _, _, hnoted⟩ := s.noteFault_eq blk b w m p
  rw [hnoted]

theorem State.noteFault_blocks : (s.noteFault blk b w m p).blocks = s.blocks := by
  obtain ⟨_, _, _, hnoted⟩ := s.noteFault_eq blk b w m p
  rw [hnoted]

/-- The state with the lanes of a fault parked, for the trailing warp too. -/
def State.parkFault (u : UnitRef) : State :=
  let v := w.park m (fun l => { p l with stamp := s.next })
  ((s.noteFault blk b w m p).modUnit blk u (fun _ => v)).leaveParked blk u m w v

variable {s blk b w m p} {u : UnitRef}

theorem State.parkFault_mem : (s.parkFault blk b w m p u).mem = s.mem :=
  (onlyPairs_leaveParked _ _ _ _ _ _).mem.trans (s.noteFault_mem blk b w m p)

theorem State.parkFault_regions : (s.parkFault blk b w m p u).regions = s.regions :=
  (onlyPairs_leaveParked _ _ _ _ _ _).regions.trans (s.noteFault_regions blk b w m p)

theorem State.unit?_parkFault (k : Nat) (v : UnitRef) : (s.parkFault blk b w m p u).unit? k v =
    (s.modUnit blk u (fun _ => w.park m (fun l => { p l with stamp := s.next }))).unit? k v := by
  have hblocks := s.noteFault_blocks blk b w m p
  refine ((onlyPairs_leaveParked _ _ _ _ _ _).unit? k v).trans ?_
  unfold State.unit? State.block? State.modUnit State.modBlock
  rw [hblocks]

theorem State.takeFault_of_served {trapv : Nat} (hblock : s.block? blk = some b) (hunit : s.unit? blk u = some w) (hm : m ≠ 0)
    (htrail : u.isTrail = false) (hhandler : w.handler = none) (hcause : forwardOnly (p (lowest m)).cause = false)
    (htrapv : (s.region? b.regid).map Region.trapv = some trapv) (hserved : trapv ≠ 0xFFFFFFFF) :
    s.takeFault blk u m p = (s.parkFault blk b w m p u).push (.handlerEntry blk u.num) := by
  have hregion : (s.parkFault blk b w m p u).region? b.regid = s.region? b.regid := by
    rw [State.region?, State.parkFault_regions]; rfl
  have htrapv' : (((s.parkFault blk b w m p u).region? b.regid).map Region.trapv).getD 0xFFFFFFFF = trapv := by
    rw [hregion, htrapv]; rfl
  have hmine : m &&& ~~~(0 : Word) = m := by
    show m &&& ~~~0#32 = m
    rw [BitVec.not_zero, BitVec.and_allOnes]
  have hzero : ((0 : Word) != 0) = false := rfl
  unfold State.takeFault
  simp only [hblock, hunit]
  generalize hparked : State.leaveParked _ blk u m w _ = t
  obtain rfl : s.parkFault blk b w m p u = t := hparked
  simp only [htrapv', hhandler, hcause, hmine, hm, htrail, hzero, beq_eq_false_iff_ne.mpr hserved, decide_false, Bool.or_self,
    Bool.false_eq_true, if_true, if_false]

end

end Sys2Proof.Machine

namespace Sys2Proof.Claims

/-- Settles O48: the fault's effect is `parkFault`, and each lane stands where `Warp.park` leaves it. -/
theorem parkedLanes : Obligations.ParkedLanes := by
  intro s blk u m p b w hblock hunit hm htrail hhandler hcause _ hnone hnot
  obtain ⟨trapv, htrapv⟩ := Option.ne_none_iff_exists'.mp hnone
  have hserved : trapv ≠ 0xFFFFFFFF := fun h => hnot (h ▸ htrapv)
  intro t goesBack
  have ht : t = (s.parkFault blk b w m p u).push (.handlerEntry blk u.num) :=
    State.takeFault_of_served hblock hunit hm htrail hhandler hcause htrapv hserved
  rw [ht]
  refine ⟨List.mem_append_right _ (List.mem_singleton_self _), State.parkFault_mem, State.parkFault_regions, ?others,
    w.park m (fun l => { p l with stamp := s.next }), ?unit,
    Warp.s_park _ _ _, Warp.preds_park _ _ _, Warp.setM_park _ _ _, Warp.length_park _ _ _, ?lanes⟩
  case others => exact fun k v hkv => (State.unit?_parkFault k v).trans (State.unit?_modUnit_other s _ hkv)
  case unit => exact (State.unit?_parkFault blk u).trans (State.unit?_modUnit_of hunit _)
  case lanes =>
    intro l hl
    refine ⟨fun hout hstays => ?_, fun hout hback => ?_, fun hin => ?_⟩
    · exact (Warp.lane_park_out hout hl).trans (if_neg (mt (Warp.sentBack_iff hout).mp hstays))
    · exact (Warp.lane_park_out hout hl).trans (if_pos ((Warp.sentBack_iff hout).mpr hback))
    · obtain ⟨past, held, hlane⟩ := Warp.lane_park_in (p := fun l => { p l with stamp := s.next }) hin hl
      rw [hlane]
      exact ⟨rfl, rfl, rfl, rfl, rfl, _, rfl, rfl, rfl, rfl, rfl, rfl⟩

end Sys2Proof.Claims
end

section
/-! 14 R337: the handler takes up the one fault of its unit. -/

open Sys2Proof Sys2Proof.Machine Sys2Proof.Claims

namespace Sys2Proof.Machine

/-! ## The lanes that wait for a handler -/

/-- A lane stands parked for a fault that no handler has taken up. -/
def Lane.awaits (l : Lane) : Bool :=
  match l.park with
  | some p => l.status == .parked && !p.delivered && !forwardOnly p.cause
  | none => false

theorem Lane.awaits_iff (l : Lane) :
    l.awaits = true ↔ l.status = .parked ∧ ∃ p, l.park = some p ∧ p.delivered = false ∧ forwardOnly p.cause = false := by
  unfold Lane.awaits
  cases l.park <;> simp [and_assoc]

theorem lanesOf_eq_cons {m : Word} (hm : m ≠ 0) : ∃ rest, lanesOf m = lowest m :: rest := by
  cases hlanes : lanesOf m with
  | nil =>
    have hzero : maskOf (lanesOf m) = m := mask_ext (inMask_maskOf_lanesOf m)
    rw [hlanes] at hzero
    exact absurd hzero.symm hm
  | cons c rest => exact ⟨rest, by rw [lowest, hlanes]; rfl⟩

theorem inMask_lowest {m : Word} (hm : m ≠ 0) : inMask m (lowest m) = true := by
  obtain ⟨rest, hlanes⟩ := lanesOf_eq_cons hm
  exact mem_lanesOf.mp (hlanes ▸ List.mem_cons_self)

theorem foldl_min_of_const {f : Nat → Nat} {n : Nat} {ls : List Nat} (h : ∀ i ∈ ls, f i = n) :
    ls.foldl (fun m i => min m (f i)) n = n := by
  induction ls with
  | nil => rfl
  | cons c ls ih =>
    rw [List.foldl_cons, h c List.mem_cons_self, Nat.min_self]
    exact ih (fun i hi => h i (List.mem_cons_of_mem c hi))

section

variable {w : Warp} {f : Word} {age cause : Nat} (hfault : oneFault w f age cause)

include hfault

theorem lanesWhere_awaits : w.lanesWhere Lane.awaits = f := by
  obtain ⟨-, hshort, hlanes⟩ := hfault
  refine mask_ext fun l => Bool.eq_iff_iff.mpr ?_
  simp only [Warp.lanesWhere, inMask_maskOf, List.mem_filter, List.mem_range, Lane.awaits_iff, Bool.and_eq_true, decide_eq_true_eq]
  constructor
  · rintro ⟨⟨hl, hwaits⟩, -⟩
    exact (hlanes l hl).1.mpr hwaits
  · intro hin
    exact ⟨⟨hshort l hin, (hlanes l (hshort l hin)).1.mp hin⟩, inMask_lt hin⟩

/-- The lanes of the one fault have it from one instruction, and with one cause. -/
theorem park_of_oneFault {l : Nat} (hl : inMask f l = true) :
    ∃ q, (w.lane l).park = some q ∧ q.age = age ∧ q.cause = cause := by
  obtain ⟨-, hshort, hlanes⟩ := hfault
  obtain ⟨q, hpark, hq⟩ := Option.map_eq_some_iff.mp ((hlanes l (hshort l hl)).2 hl)
  exact ⟨q, hpark, (Prod.mk.inj hq).1, (Prod.mk.inj hq).2⟩

end

/-! ## Entering the handler -/

/-- The unit with the fault of the lanes `m` taken up. -/
def Warp.deliver (w : Warp) (m : Word) : Warp :=
  w.modLanes m (fun _ l => { l with park := l.park.map (fun q => { q with delivered := true }) })

theorem Warp.lane_deliver (w : Warp) (m : Word) (l : Nat) : ∃ q, (w.deliver m).lane l = { w.lane l with park := q } := by
  unfold Warp.deliver
  rw [Warp.lane_modLanes]
  split
  · exact ⟨_, rfl⟩
  · exact ⟨_, rfl⟩

/-- The unit with its handler entered at `pc` by lane `h`, for the fault `p` of the lanes `m`. -/
def Warp.enter (w : Warp) (front : Bool) (m : Word) (h : Nat) (p : Park) (pc : Nat) : Warp :=
  let w := (w.deliver m).modLane h (fun l => { l with status := .running, pc := pc, wait := .none })
  { (w.setTrap front p m) with handler := some h, bank := [] }

theorem Warp.lane_enter {w : Warp} (front : Bool) (m : Word) (h : Nat) (p : Park) (pc : Nat) {l : Nat} (hl : l < w.lanes.length) :
    ∃ q, (w.enter front m h p pc).lane l =
      if l = h then { w.lane l with park := q, status := .running, pc := pc, wait := .none } else { w.lane l with park := q } := by
  obtain ⟨q, hdelivered⟩ := w.lane_deliver m l
  have hlength : l < (w.deliver m).lanes.length := (Warp.length_modLanes _ _ _).symm ▸ hl
  have hmoved := lane_modLane (w.deliver m) h l (fun l => { l with status := .running, pc := pc, wait := .none }) hlength
  rw [hdelivered] at hmoved
  exact ⟨q, hmoved⟩

/-- The oldest fault is the only one: its lowest lane enters the handler, and its trailing lane follows. -/
theorem State.enterHandler_of_oneFault {s : State} {blk : Nat} {u : UnitRef} {b : Block} {r : Region} {w : Warp} {f : Word}
    {age cause : Nat} {p : Park} (hblock : s.block? blk = some b) (hregion : s.region? b.regid = some r)
    (hunit : s.unit? blk u = some w) (hhandler : w.handler = none) (hfault : oneFault w f age cause)
    (hpark : (w.lane (lowest f)).park = some p) :
    s.enterHandler blk u = ((s.modUnit blk u (fun w => w.enter (u == .front) f (lowest f) p r.trapv)).leave blk u
      (.handler (some (lowest f)))).leaveMove blk u (laneBit (lowest f)) r.trapv := by
  have hsome : f ≠ 0 := hfault.1
  obtain ⟨rest, hrest⟩ := lanesOf_eq_cons hsome
  have hwaiting : lanesOf (w.lanesWhere Lane.awaits) = lowest f :: rest := by rw [lanesWhere_awaits hfault, hrest]
  have hage : ∀ l ∈ lowest f :: rest, ((w.lane l).park.map Park.age).getD 0 = age := by
    intro l hl
    obtain ⟨q, hq, hqage, -⟩ := park_of_oneFault hfault (mem_lanesOf.mp (hrest ▸ hl))
    rw [hq, Option.map_some, Option.getD_some, hqage]
  have hsame : (lowest f :: rest).filter (fun l => (w.lane l).park.any p.sameFault) = lowest f :: rest := by
    obtain ⟨q, hq, hqage, hqcause⟩ := park_of_oneFault hfault (inMask_lowest hsome)
    obtain rfl : p = q := Option.some.inj (hpark.symm.trans hq)
    refine List.filter_eq_self.mpr fun l hl => ?_
    obtain ⟨x, hx, hxage, hxcause⟩ := park_of_oneFault hfault (mem_lanesOf.mp (hrest ▸ hl))
    rw [hx, Option.any_some, Park.sameFault, hqage, hxage, hqcause, hxcause, beq_self_eq_true, beq_self_eq_true, Bool.and_self]
  have hmask : maskOf (lowest f :: rest) = f := by rw [← hrest]; exact mask_ext (inMask_maskOf_lanesOf f)
  have hpage : p.age = age := by
    have hfirst := hage (lowest f) List.mem_cons_self
    rwa [hpark] at hfirst
  have holdest : (lowest f :: rest).foldl (fun m l => min m (((w.lane l).park.map Park.age).getD 0)) age = age :=
    foldl_min_of_const hage
  unfold State.enterHandler
  simp only [hblock, hunit, hhandler, hregion]
  generalize hcands : lanesOf (w.lanesWhere _) = cands
  obtain rfl : cands = lowest f :: rest := hcands.symm.trans hwaiting
  simp only [hpark, hpage, holdest, hsame, hmask, List.find?_cons, beq_self_eq_true, Option.getD_some, Option.map_some]
  rfl

theorem exec_handlerEntry_of_live {s : State} {blk unit : Nat} {b : Block} {w : Warp} (hblock : s.block? blk = some b)
    (hunit : s.unit? blk (UnitRef.ofNum unit) = some w) (hlive : b.loc = .live) (hhints : w.hints = []) :
    exec (.handlerEntry blk unit) s = .next (s.enterHandler blk (UnitRef.ofNum unit)) := by
  show execHandlerEntry blk unit s = _
  simp only [execHandlerEntry, hblock, hunit, hlive, hhints, ne_eq, not_true_eq_false, if_false, List.isEmpty_nil, if_true]

end Sys2Proof.Machine

namespace Sys2Proof.Claims

/-- Settles O49: the unit after the entry is `Warp.enter` of the unit before, and a block without pairs leaves nothing to its trailing
warps. -/
theorem handlerEntries : Obligations.HandlerEntries := by
  intro s blk u b r w f age cause p hblock hlive hpairs hregion hunit hnum hhints hhandler hfault hpark
  have hexec := exec_handlerEntry_of_live hblock hunit hlive hhints
  rw [hnum] at hexec hunit
  rw [State.enterHandler_of_oneFault hblock hregion hunit hhandler hfault hpark] at hexec
  let s' := s.modUnit blk u (fun w => w.enter (u == .front) f (lowest f) p r.trapv)
  have hblock' : s'.block? blk = some { b with ctx := b.ctx.modUnit u (fun w => w.enter (u == .front) f (lowest f) p r.trapv) } := by
    rw [State.block?_modUnit, if_pos rfl, hblock, Option.map_some]
  have hleft := (onlyPairs_leave s' blk u (.handler (some (lowest f)))).trans (onlyPairs_leaveMove _ blk u (laneBit (lowest f)) r.trapv)
  have honly := hleft.onlyUnit hblock' (by cases u <;> exact hpairs) u
  refine ⟨_, _, hexec, (onlyUnit_modUnit s blk u _).trans honly, (hleft.unit? blk u).trans (State.unit?_modUnit_of hunit _),
    rfl, rfl, rfl, rfl, rfl, rfl, ?mask, rfl, rfl, ?lanes⟩
  case mask =>
    by_cases hfront : u = .front
    · rw [if_pos hfront]; exact if_pos (beq_iff_eq.mpr hfront)
    · rw [if_neg hfront]; exact if_neg (fun h => hfront (beq_iff_eq.mp h))
  case lanes =>
    intro l hl
    obtain ⟨q, hlane⟩ := Warp.lane_enter (u == .front) f (lowest f) p r.trapv hl
    rw [hlane]
    by_cases hlow : l = lowest f
    · rw [if_pos hlow]
      exact ⟨rfl, fun h => absurd hlow h, fun _ => ⟨rfl, rfl⟩⟩
    · rw [if_neg hlow]
      exact ⟨rfl, fun _ => ⟨rfl, rfl⟩, fun h => absurd h hlow⟩

end Sys2Proof.Claims
end

section
/-! 14 R331, R337, R338, R347: handler entry, answers to forwarded faults, invalidation commands, hashes of code pages. -/

open Sys2Proof Sys2Proof.Machine Sys2Proof.Claims

namespace Sys2Proof.Machine

/-- An answer that asks for the action, and names a fault of a unit that waits, is taken from its queue and carried out. -/
theorem State.answer_of_waiting {s : State} {die : Nat} {kill : Bool} {word : BitVec 64} {rest : List (BitVec 64)} {k : Nat} {x : Waiting}
    (hqueue : (s.die die).resumeQ = word :: rest) (hkill : natBit word.toNat 32 = kill)
    (hanswered : (s.modDie die (fun d => { d with resumeQ := rest })).answered die (field word 0 32) = some (k, x))
    (hunit : x.request = none) (again : Instr) (f : State → BitVec 64 → Nat → Waiting → State) :
    s.answer die kill again f = f (s.modDie die (fun d => { d with resumeQ := rest })) word k x := by
  simp only [State.answer, hqueue, hkill, hanswered, hunit, bne_self_eq_false, Bool.false_eq_true, if_false]

end Sys2Proof.Machine

namespace Sys2Proof.Claims

/-- Settles O33: under the hypotheses of each clause one branch of the event's definition is left. -/
theorem faultEvents : Obligations.FaultEvents := by
  refine ⟨fun s blk unit b w hblock hunit hlive hhints => exec_handlerEntry_of_live hblock hunit hlive hhints,
    ?answers, ?malformed, ?invalidation, ?hash⟩
  case answers =>
    intro s die k word rest x b s' hqueue hanswered hrequest
    refine ⟨fun hresume hblock hspilled hmoved w hunit => ?_, fun hkill => ?_⟩
    · have hbank : ¬ (b.loc = .spilled ∨ b.loc = .moved) := not_or_intro hspilled hmoved
      show execFaultResumeAnswer die s = _
      simp only [execFaultResumeAnswer, State.answer_of_waiting hqueue hresume hanswered hrequest]
      simp only [s'] at hblock hunit
      simp only [hblock, hbank, if_false, State.resumeParked, hunit, s']
    · show execFaultKillAnswer die s = _
      simp only [execFaultKillAnswer, State.answer_of_waiting hqueue hkill hanswered hrequest, s']
  case malformed =>
    intro s die c hopen hbad
    show execInvalidationCommand die s = _
    simp only [execInvalidationCommand, hopen, hbad, if_true]
  case invalidation =>
    intro s die c hopen hsound hunused
    show execInvalidationCommand die s = _
    simp only [execInvalidationCommand, hopen, hsound, hunused, Bool.false_eq_true, if_false]
  case hash =>
    intro s die region page stateVa hashVa r bytes ls lh u v s' hregion hword hbytes hstate hhash hunset good
    have hregion' : s'.region? region = some r := hregion
    show execCodePageHashDone die region page s = _
    simp only [s'] at hregion' hword hbytes hstate hhash hunset
    simp only [execCodePageHashDone, hregion', hword, hbytes, hstate, hhash, hunset, ne_eq, not_true_eq_false, if_false, good, s']
    split
    · rfl
    · rfl

end Sys2Proof.Claims
end

section
/-! Every step keeps memory in its canonical form (notes/assumptions/2, 8). Memory is written in two ways, `State.wrBytes` and
`State.homeWrite`; each other operation is made of these and of updates of other fields. One lemma per operation says that its
state is canonical where the state before is, and a proof follows the operation's definition: a chain `hs.f.g` reads `f`, then
`g`; a branch is a `split`, or a step of the chain (`when`, `unless`, `ite`) where the state goes on after it. -/

namespace Sys2Proof.Machine

-- One proof after the other: a thread for each would pass the check's stack limit.
set_option Elab.async false

/-- An outcome that goes on does so with memory in its canonical form. -/
def NextCanonical : Host.Outcome State Fault Refusal → Prop
  | .next s => MemCanonical s
  | .fault _ => True
  | .refused _ => True

/-- A state that is answered, where one is, has memory in its canonical form. -/
def OptionCanonical : Option State → Prop
  | some s => MemCanonical s
  | none => True

/-- What a held word notes of its wait keeps memory in its canonical form. -/
def Attr.KeepsMemory (a : Attr) : Prop := ∀ {s} i, MemCanonical s → MemCanonical (a.onStall i s)

variable {s t : State}

/-- An update of other fields leaves memory as it is. -/
theorem MemCanonical.update (hs : MemCanonical s) {poison far blocks cores dies regions parts cmds pageReqs ladders snaps acks
    sunk waiting faultQ eventQ ports links route missed fenced qps eth boot meas quote devNum sysResv sysRead sysQueue pcieRead
    interrupts cals served stops reports restores powered cur stalled agenda timers now next drawn} :
    MemCanonical ⟨s.mem, poison, far, blocks, cores, dies, regions, parts, cmds, pageReqs, ladders, snaps, acks, sunk, waiting,
      faultQ, eventQ, ports, links, route, missed, fenced, qps, eth, boot, meas, quote, devNum, sysResv, sysRead, sysQueue,
      pcieRead, interrupts, cals, served, stops, reports, restores, powered, cur, stalled, agenda, timers, now, next, drawn⟩ := hs

theorem MemCanonical.some (hs : MemCanonical s) : OptionCanonical (some s) := hs

theorem MemCanonical.next (hs : MemCanonical s) : NextCanonical (.next s) := hs

theorem MemCanonical.ite {c : Prop} [Decidable c] (hs : MemCanonical s) (ht : MemCanonical t) :
    MemCanonical (if c then s else t) := by
  split
  · exact hs
  · exact ht

/-- A change made where a condition holds. -/
theorem MemCanonical.when {c : Prop} [Decidable c] (hs : MemCanonical s) (ht : MemCanonical s → MemCanonical t) :
    MemCanonical (if c then t else s) := .ite (ht hs) hs

/-- A change made where a condition does not hold. -/
theorem MemCanonical.unless {c : Prop} [Decidable c] (hs : MemCanonical s) (ht : MemCanonical s → MemCanonical t) :
    MemCanonical (if c then s else t) := .ite hs (ht hs)

/-- A fold whose accumulator carries a state, which `π` reads. -/
theorem MemCanonical.foldlOn {α β : Type} {π : β → State} {f : β → α → β} {l : List α} {b : β} (hb : MemCanonical (π b))
    (hf : ∀ {c} x, MemCanonical (π c) → MemCanonical (π (f c x))) : MemCanonical (π (l.foldl f b)) := by
  induction l generalizing b with
  | nil => exact hb
  | cons x l ih => exact ih (hf x hb)

theorem MemCanonical.foldl {α : Type} {f : State → α → State} {l : List α} (hs : MemCanonical s)
    (hf : ∀ {t} x, MemCanonical t → MemCanonical (f t x)) : MemCanonical (l.foldl f s) := foldlOn (π := id) hs hf

section
variable {α β : Type}

/-- The state that a `match` on a pair binds. -/
theorem MemCanonical.snd_of_eq {p : α × State} {a : α} (hp : MemCanonical p.2) (h : p = (a, t)) : MemCanonical t := by
  subst h; exact hp

theorem MemCanonical.third_of_eq {p : α × β × State} {a : α} {b : β} (hp : MemCanonical p.2.2) (h : p = (a, b, t)) :
    MemCanonical t := by
  subst h; exact hp

end

theorem MemCanonical.ite_snd {α : Type} {c : Prop} [Decidable c] {p q : α × State} (hp : MemCanonical p.2)
    (hq : MemCanonical q.2) : MemCanonical (if c then p else q).2 := by
  split
  · exact hp
  · exact hq

theorem OptionCanonical.getD {o : Option State} (ho : OptionCanonical o) (hs : MemCanonical s) : MemCanonical (o.getD s) := by
  cases o with
  | none => exact hs
  | some t => exact ho

theorem OptionCanonical.of_some {o : Option State} (ho : OptionCanonical o) (h : o = some t) : MemCanonical t := by
  subst h; exact ho

theorem NextCanonical.ite {c : Prop} [Decidable c] {q r : Result} (hq : NextCanonical q) (hr : NextCanonical r) :
    NextCanonical (if c then q else r) := by
  split
  · exact hq
  · exact hr

theorem NextCanonical.andThen {r : Result} {f : State → Result} (hr : NextCanonical r)
    (hf : ∀ {t}, MemCanonical t → NextCanonical (f t)) : NextCanonical (Machine.andThen r f) := by
  cases r with
  | next t => exact hf hr
  | fault e => trivial
  | refused e => trivial

/-! ## The named operations over the state (02, 13, 14) -/

theorem MemCanonical.setCore (hs : MemCanonical s) {c : Nat} {x : Core} : MemCanonical (s.setCore c x) := hs.update

theorem MemCanonical.modCore (hs : MemCanonical s) {c : Nat} {f : Core → Core} : MemCanonical (s.modCore c f) := hs.setCore

theorem MemCanonical.setDie (hs : MemCanonical s) {d : Nat} {x : Die} : MemCanonical (s.setDie d x) := hs.update

theorem MemCanonical.modDie (hs : MemCanonical s) {d : Nat} {f : Die → Die} : MemCanonical (s.modDie d f) := hs.setDie

theorem MemCanonical.setBlock (hs : MemCanonical s) {b : Nat} {x : Block} : MemCanonical (s.setBlock b x) := hs.update

theorem MemCanonical.modBlock (hs : MemCanonical s) {b : Nat} {f : Block → Block} : MemCanonical (s.modBlock b f) := hs.update

theorem MemCanonical.modRegion (hs : MemCanonical s) {r : Nat} {f : Region → Region} : MemCanonical (s.modRegion r f) := hs.update

theorem MemCanonical.modCmd (hs : MemCanonical s) {c : Nat} {f : Cmd → Cmd} : MemCanonical (s.modCmd c f) := hs.update

theorem MemCanonical.modLadder (hs : MemCanonical s) {l : Nat} {f : Ladder → Ladder} : MemCanonical (s.modLadder l f) := hs.update

theorem MemCanonical.fresh (hs : MemCanonical s) : MemCanonical s.fresh.2 := hs.update

theorem MemCanonical.draw (hs : MemCanonical s) : MemCanonical s.draw.2 := hs.update

theorem MemCanonical.push (hs : MemCanonical s) {i : Instr} : MemCanonical (s.push i) := hs.update

theorem MemCanonical.pushOnce (hs : MemCanonical s) {i : Instr} : MemCanonical (s.pushOnce i) := hs.unless (·.push)

theorem MemCanonical.at (hs : MemCanonical s) {t : Nat} {i : Instr} : MemCanonical (s.at t i) := hs.update

theorem MemCanonical.drop (hs : MemCanonical s) {i : Instr} : MemCanonical (s.drop i) := hs.update

theorem MemCanonical.modUnit (hs : MemCanonical s) {b : Nat} {u : UnitRef} {f : Warp → Warp} : MemCanonical (s.modUnit b u f) :=
  hs.modBlock

/-- A write of bytes keeps the canonical form: one of the two ways in which a step writes memory. -/
theorem MemCanonical.wrBytes (hs : MemCanonical s) {k : Nat} {l : List Byte} : MemCanonical (s.wrBytes k l) :=
  Memory.wf_write hs k l

theorem MemCanonical.raiseLtime (hs : MemCanonical s) {c t : Nat} : MemCanonical (s.raiseLtime c t) := hs.modCore

theorem MemCanonical.chargeUp (hs : MemCanonical s) {n fuel : Nat} {r : Option Nat} : MemCanonical (s.chargeUp n fuel r) := by
  induction fuel generalizing s r with
  | zero => unfold State.chargeUp; exact hs
  | succ fuel ih =>
    cases r with
    | none => exact hs
    | some r =>
      unfold State.chargeUp
      split
      · exact ih hs.modRegion
      · exact hs

theorem MemCanonical.addEnergy (hs : MemCanonical s) {b cls times : Nat} : MemCanonical (s.addEnergy b cls times) := by
  unfold State.addEnergy
  split
  · exact hs
  · exact hs.modBlock.modRegion.chargeUp

theorem MemCanonical.count (hs : MemCanonical s) {core blk ev n : Nat} : MemCanonical (s.count core blk ev n) :=
  hs.unless (·.modCore)

theorem MemCanonical.post (hs : MemCanonical s) {kind unit die regid loc : Nat} : MemCanonical (s.post kind unit die regid loc) :=
  hs.update

theorem MemCanonical.postFault (hs : MemCanonical s) {die part : Nat} {rec : Nat → BitVec 256} {wait : Nat → Waiting} :
    MemCanonical (s.postFault die part rec wait) := hs.modDie.fresh.update

theorem MemCanonical.forward (hs : MemCanonical s) {b : Nat} {u : UnitRef} {lanes : Word} {p : Park} {double : Bool} :
    MemCanonical (s.forward b u lanes p double) := by
  unfold State.forward
  split
  · exact hs
  · exact hs.modUnit.postFault

theorem MemCanonical.consume (hs : MemCanonical s) {blk cause unit : Nat} : MemCanonical (s.consume blk cause unit) := hs.modBlock

theorem MemCanonical.fireStops (hs : MemCanonical s) {core : Nat} {units : List Nat} : MemCanonical (s.fireStops core units) :=
  hs.update

theorem MemCanonical.modPair (hs : MemCanonical s) {blk n : Nat} {f : Pair → Pair} : MemCanonical (s.modPair blk n f) :=
  hs.modBlock

theorem MemCanonical.leave (hs : MemCanonical s) {blk : Nat} {u : UnitRef} {x : Issued} : MemCanonical (s.leave blk u x) := by
  unfold State.leave
  split
  · exact hs.modPair
  · exact hs

theorem MemCanonical.leaveMove (hs : MemCanonical s) {blk : Nat} {u : UnitRef} {m : Word} {pc : Nat} :
    MemCanonical (s.leaveMove blk u m pc) := hs.unless (·.leave)

theorem MemCanonical.leaveParked (hs : MemCanonical s) {blk : Nat} {u : UnitRef} {mask : Word} {old new : Warp} :
    MemCanonical (s.leaveParked blk u mask old new) := by
  unfold State.leaveParked
  split
  · exact hs.modPair.foldl fun _ h => h.leaveMove
  · exact hs

theorem MemCanonical.takeFault (hs : MemCanonical s) {b : Nat} {u : UnitRef} {mask : Word} {p : Nat → Park} :
    MemCanonical (s.takeFault b u mask p) := by
  unfold State.takeFault
  dsimp only
  split
  · refine hs.unless fun h => ?_
    exact (((h.fresh.fireStops.when (·.count)).modUnit.leaveParked.when (·.modUnit)).unless (·.forward)).unless fun h =>
      h.forward.ite h.push
  · exact hs

theorem MemCanonical.enterHandler (hs : MemCanonical s) {b : Nat} {u : UnitRef} : MemCanonical (s.enterHandler b u) := by
  unfold State.enterHandler
  dsimp only
  split
  · split
    · split
      · exact hs.modUnit.leave.leaveMove
      · exact hs
    · exact hs
  · exact hs

theorem MemCanonical.askHandler (hs : MemCanonical s) {b : Nat} {u : UnitRef} : MemCanonical (s.askHandler b u) := by
  unfold State.askHandler
  split
  · exact hs.when (·.push)
  · exact hs

/-! ## Lines, leases, homes and commit points (07, 11, 12) -/

theorem MemCanonical.repair (hs : MemCanonical s) {die line : Nat} {pin : Option Nat} : MemCanonical (s.repair die line pin) :=
  hs.unless fun h => h.post.ite hs.update.modDie.post

theorem MemCanonical.correct (hs : MemCanonical s) {die line pin : Nat} {scrub : Bool} :
    MemCanonical (s.correct die line pin scrub) := (hs.post.modDie.when (·.repair)).when (·.repair)

theorem MemCanonical.demand (hs : MemCanonical s) {die line : Nat} : MemCanonical (s.demand die line) := by
  unfold State.demand
  split
  · exact hs
  · split
    · exact hs.modDie.correct
    · exact hs.modDie.update.repair

theorem MemCanonical.sendPacket (hs : MemCanonical s) {link flits : Nat} {part : Option Nat} :
    MemCanonical (s.sendPacket link flits part) := by
  unfold State.sendPacket
  split
  · exact hs
  · exact hs.update.push

theorem MemCanonical.answerOwed (hs : MemCanonical s) : MemCanonical s.answerOwed := by
  unfold State.answerOwed
  refine hs.foldl fun _ h => ?_
  refine h.foldl fun _ h => ?_
  split
  · exact h.when (·.update.sendPacket)
  · exact h

theorem MemCanonical.sendTo (hs : MemCanonical s) {blk die dev flits : Nat} : MemCanonical (s.sendTo blk die dev flits) := by
  unfold State.sendTo
  dsimp only
  split
  · exact hs
  · split
    · exact hs.addEnergy.sendPacket
    · exact hs.addEnergy

theorem MemCanonical.l1Parity (hs : MemCanonical s) {core line : Nat} : MemCanonical (s.l1Parity core line) :=
  hs.when (·.modCore.post)

theorem MemCanonical.l1Drop (hs : MemCanonical s) {core line : Nat} : MemCanonical (s.l1Drop core line) := hs.modCore

theorem MemCanonical.l1Fill (hs : MemCanonical s) {core line : Nat} {x : Copy} : MemCanonical (s.l1Fill core line x) := by
  unfold State.l1Fill
  dsimp only
  split
  · exact hs.modCore
  · exact hs.draw.modCore

theorem MemCanonical.setLlc (hs : MemCanonical s) {die line : Nat} {x : LlcLine} : MemCanonical (s.setLlc die line x) := hs.modDie

theorem MemCanonical.writeBack (hs : MemCanonical s) {hm : Home} {keep : Bool} : MemCanonical (s.writeBack hm keep) := by
  unfold State.writeBack
  split
  · exact hs
  · exact hs.unless fun h => (h.when (·.update)).setLlc

theorem MemCanonical.llcFill (hs : MemCanonical s) {blk die line : Nat} {x : LlcLine} :
    MemCanonical (s.llcFill blk die line x) := by
  unfold State.llcFill
  dsimp only
  split
  · exact hs.setLlc
  · exact ((hs.draw.when (·.update)).modDie.when (·.addEnergy)).setLlc

theorem MemCanonical.llcParity (hs : MemCanonical s) {die line : Nat} : MemCanonical (s.llcParity die line) :=
  hs.when (·.modDie.post)

theorem MemCanonical.demandAt (hs : MemCanonical s) {hm : Home} : MemCanonical (s.demandAt hm) := hs.when (·.llcParity.demand)

theorem MemCanonical.dramRead (hs : MemCanonical s) {blk : Nat} {hm : Home} : MemCanonical (s.dramRead blk hm) :=
  hs.when (·.llcParity.addEnergy.demand)

theorem MemCanonical.dirEvict (hs : MemCanonical s) {die line : Nat} : MemCanonical (s.dirEvict die line) :=
  hs.unless fun h => (h.draw.fresh.update.modDie.foldl fun _ h => h.push).foldl fun _ h => h.push

theorem MemCanonical.carry (hs : MemCanonical s) {line : Nat} {src : Option Nat} {dst : Nat} :
    MemCanonical (s.carry line src dst) := hs.update

theorem MemCanonical.readsFrom (hs : MemCanonical s) {who line : Nat} {mask : BitVec 128} {src : Option Nat} :
    MemCanonical (s.readsFrom who line mask src) := hs.update

theorem MemCanonical.addSharer (hs : MemCanonical s) {home line die : Nat} : MemCanonical (s.addSharer home line die) := hs.modDie

theorem MemCanonical.llcRead (hs : MemCanonical s) {blk die : Nat} {hm : Home} : MemCanonical (s.llcRead blk die hm).2.2.2 := by
  unfold State.llcRead
  dsimp only
  split
  · exact hs.demandAt
  · split
    · exact hs
    · exact ((hs.llcParity.when (·.demandAt.llcFill)).when (·.addSharer)).carry

theorem MemCanonical.readUnkept (hs : MemCanonical s) {core : Nat} {hm : Home} : MemCanonical (s.readUnkept core hm).2.2 :=
  hs.carry.raiseLtime

theorem MemCanonical.loadLine (hs : MemCanonical s) {blk core : Nat} {hm : Home} {pol : Nat} :
    MemCanonical (s.loadLine blk core hm pol).2.2.2 := by
  unfold State.loadLine
  dsimp only
  split
  · exact hs.l1Parity.when (·.modCore)
  · split
    · split
      · exact hs.l1Parity.readUnkept
      · exact hs.l1Parity.llcRead.carry.llcFill.raiseLtime.when (·.l1Fill)
    · exact (hs.l1Parity.demandAt.carry.when (·.llcFill)).when (·.l1Fill)

theorem MemCanonical.lease (hs : MemCanonical s) {blk core : Nat} {hm : Home} {fill : Bool} :
    MemCanonical (s.lease blk core hm fill) := by
  unfold State.lease
  split
  · exact hs
  · split
    · split
      · exact hs.llcFill
      · exact hs.setLlc
    · exact hs.update

theorem MemCanonical.clearResv (hs : MemCanonical s) {line : Nat} {home : Bool} {keep : Nat → UnitRef → Nat → Bool} :
    MemCanonical (s.clearResv line home keep) := hs.update

theorem MemCanonical.dropFarCopy (hs : MemCanonical s) {die line : Nat} : MemCanonical (s.dropFarCopy die line) := by
  unfold State.dropFarCopy
  split
  · exact hs.unless (·.modDie)
  · exact hs

theorem MemCanonical.stampWrite (hs : MemCanonical s) {core blk ltime : Nat} {hm : Home} {mask : BitVec 128} {places : List Nat}
    {fill : Bool} {who : Nat} :
    MemCanonical (s.stampWrite core blk ltime hm mask places fill who).2.2 :=
  .push (.foldl (.foldl (.update (.when
    ((hs.fresh.llcFill.ite hs.fresh.setLlc).modDie.ite (hs.fresh.when (·.update)))
    (·.modDie))) fun _ h => h.push) fun _ h => h.push)

/-- A masked write of a line keeps the canonical form. -/
theorem Memory.wf_writeMasked {m : Table Byte} (hm : Memory.wf m = true) (base : Nat) (mask : BitVec 128) (data : BitVec 1024) :
    Memory.wf (writeMasked m base mask data) = true := by
  unfold writeMasked
  induction bitList mask.toNat 128 generalizing m with
  | nil => exact hm
  | cons i l ih => exact ih (Memory.wf_put hm _ _)

/-- A write at the home point keeps the canonical form: the other way in which a step writes memory. -/
theorem MemCanonical.homeWrite (hs : MemCanonical s) {hm : Home} {mask : BitVec 128} {data : BitVec 1024} :
    MemCanonical (s.homeWrite hm mask data) := Memory.wf_writeMasked hs _ mask data

theorem MemCanonical.lostStore (hs : MemCanonical s) {core who : Nat} {hm : Home} : MemCanonical (s.lostStore core who hm).2 :=
  hs.fresh.update.push

theorem MemCanonical.leaveDie (hs : MemCanonical s) {core id wts : Nat} {hm : Home} :
    MemCanonical (s.leaveDie core id wts hm).2 := by
  unfold State.leaveDie
  split
  · exact hs
  · exact hs.dropFarCopy.update

theorem MemCanonical.write (hs : MemCanonical s) {core blk : Nat} {hm : Home} {mask : BitVec 128} {data : BitVec 1024} :
    MemCanonical (s.write core blk hm mask data).2 := by
  unfold State.write
  dsimp only
  split
  · exact hs.lostStore
  · split
    · exact hs.stampWrite.homeWrite.leaveDie.modCore
    · exact hs.stampWrite.homeWrite.leaveDie

theorem MemCanonical.writeBelow (hs : MemCanonical s) {core blk : Nat} {hm : Home} {fill : Bool} {mask : BitVec 128}
    {data : BitVec 1024} :
    MemCanonical (s.writeBelow core blk hm fill mask data).2 := by
  unfold State.writeBelow
  split
  · exact hs.lostStore
  · exact hs.stampWrite.homeWrite.leaveDie

theorem MemCanonical.rmw (hs : MemCanonical s) {core blk : Nat} {keep : Nat → UnitRef → Nat → Bool} {hm : Home} {off : Nat}
    {f : Word → Option Word} :
    MemCanonical (s.rmw core blk keep hm off f).2 := by
  unfold State.rmw
  dsimp only
  split
  · exact hs
  · split
    · exact hs.dramRead.readsFrom.l1Drop
    · exact hs.dramRead.readsFrom.l1Drop.write.clearResv

theorem MemCanonical.releaseLine (hs : MemCanonical s) {blk line : Nat} {point : Bool} :
    MemCanonical (s.releaseLine blk line point) := by
  unfold State.releaseLine
  split
  · exact hs
  · split
    · exact hs
    · split
      · exact hs
      · split
        · exact hs.consume
        · exact hs.write.clearResv.addEnergy.sendTo.modBlock

theorem MemCanonical.release (hs : MemCanonical s) {blk : Nat} : MemCanonical (s.release blk) := by
  unfold State.release
  split
  · exact hs
  · exact (hs.when (·.modBlock)).foldl fun _ h => h.unless (·.releaseLine)

theorem MemCanonical.enterCore (hs : MemCanonical s) {blk old core : Nat} : MemCanonical (s.enterCore blk old core) :=
  (hs.foldl fun _ h => h.dropFarCopy).raiseLtime

theorem MemCanonical.shareC (hs : MemCanonical s) {blk : Nat} {cores : List Nat} : MemCanonical (s.shareC blk cores) := hs.update

theorem MemCanonical.acquireAt (hs : MemCanonical s) {blk core scope : Nat} : MemCanonical (s.acquireAt blk core scope) :=
  hs.update.when (·.raiseLtime)

theorem MemCanonical.wrArea (hs : MemCanonical s) {k : Nat} {bytes : List Byte} : MemCanonical (s.wrArea k bytes) :=
  hs.wrBytes.update

theorem MemCanonical.writeHalf (hs : MemCanonical s) {part : Nat} {b : Block} {hm : SnapHalf} :
    MemCanonical (s.writeHalf part b hm) := hs.wrArea

theorem MemCanonical.snapshot (hs : MemCanonical s) {blk : Nat} : MemCanonical (s.snapshot blk) := by
  unfold State.snapshot
  split
  · exact hs
  · exact hs.update.writeHalf.modBlock

theorem MemCanonical.releaseAll (hs : MemCanonical s) {blk : Nat} : MemCanonical (s.releaseAll blk) := hs.release.modBlock

theorem MemCanonical.commit (hs : MemCanonical s) {blk : Nat} : MemCanonical (s.commit blk) := by
  unfold State.commit
  split
  · exact hs
  · split
    · exact hs.modBlock
    · exact hs.releaseAll

theorem MemCanonical.commitSoon (hs : MemCanonical s) {blk : Nat} : MemCanonical (s.commitSoon blk) := by
  unfold State.commitSoon
  split
  · exact hs.when (·.modBlock)
  · exact hs

theorem MemCanonical.settleCommit (hs : MemCanonical s) {blk : Nat} : MemCanonical (s.settleCommit blk) := by
  unfold State.settleCommit
  split
  · exact hs
  · split
    · exact hs
    · split
      · split
        · exact hs.modBlock.consume
        · exact (hs.when (·.snapshot)).releaseAll.unless (·.shareC.modBlock)
      · exact hs

theorem MemCanonical.bufStore (hs : MemCanonical s) {blk : Nat} {u : UnitRef} {lane : Nat} {hm : Home} {off : Nat}
    {bytes : List Byte} {leaf : Option Leaf} :
    MemCanonical (s.bufStore blk u lane hm off bytes leaf) := (hs.when (·.commit)).clearResv.modBlock

theorem MemCanonical.freshen (hs : MemCanonical s) {core : Nat} : MemCanonical (s.freshen core) := hs.modCore

theorem MemCanonical.scRaise (hs : MemCanonical s) {core scope : Nat} : MemCanonical (s.scRaise core scope) := by
  unfold State.scRaise
  split
  · exact hs.freshen
  · exact hs.raiseLtime

theorem MemCanonical.fenceWait (hs : MemCanonical s) {blk : Nat} {u : UnitRef} {lanes : Word} {ids : List Nat} {sc : Option Nat}
    {near : Bool} {drop : Option (Option Nat)} :
    MemCanonical (s.fenceWait blk u lanes ids sc near drop) := by
  unfold State.fenceWait
  split
  · exact hs
  · split
    · exact hs.scRaise
    · exact hs
  · exact hs.modUnit

/-! ## Translation (14) -/

theorem MemCanonical.setEntry (hs : MemCanonical s) {die pa old new : Nat} : MemCanonical (s.setEntry die pa old new) :=
  hs.unless (·.stampWrite.homeWrite.clearResv)

theorem MemCanonical.walk (hs : MemCanonical s) {die part va : Nat} {need : Need} {acc : Nat} :
    MemCanonical (s.walk die part va need acc).2 := by
  unfold State.walk
  dsimp only
  split
  · exact hs
  · split
    · exact hs
    · split
      · exact hs
      · exact hs.setEntry

theorem MemCanonical.lookupDie (hs : MemCanonical s) {die part va : Nat} {need : Need} {acc : Nat} :
    MemCanonical (s.lookupDie die part va need acc).2 := by
  unfold State.lookupDie
  split
  · exact hs
  · split
    · have h1 := hs.walk.snd_of_eq ‹_›
      split
      · exact h1.draw.modDie
      · exact h1.modDie
    · exact hs.walk.snd_of_eq ‹_›

theorem MemCanonical.fillCore (hs : MemCanonical s) {core : Nat} {l : Leaf} : MemCanonical (s.fillCore core l) := by
  unfold State.fillCore
  split
  · exact hs.draw.modCore
  · exact hs.modCore

theorem MemCanonical.translate (hs : MemCanonical s) {core part va : Nat} {need : Need} {acc : Nat} {domain : Bool} :
    MemCanonical (s.translate core part va need acc domain).2 := by
  unfold State.translate
  dsimp only
  split
  · exact hs
  · split
    · have h1 := hs.lookupDie.snd_of_eq ‹_›
      split
      · exact h1.fillCore
      · exact h1
    · exact hs.lookupDie.snd_of_eq ‹_›

theorem MemCanonical.translateEngine (hs : MemCanonical s) {die part va : Nat} {need : Need} {acc : Nat} {domain : Bool} :
    MemCanonical (s.translateEngine die part va need acc domain).2 := by
  unfold State.translateEngine
  split
  · split <;> exact hs.lookupDie.snd_of_eq ‹_›
  · exact hs.lookupDie

theorem MemCanonical.dropLeaves (hs : MemCanonical s) {die : Nat} {p : Leaf → Bool} : MemCanonical (s.dropLeaves die p) :=
  hs.modDie.update

/-! ## Operands and results of a word (04, 05) -/

theorem MemCanonical.results (hs : MemCanonical s) {i : Iss} {d : BitVec 6} {nw : Bool} {f : Nat → Word × Bool} :
    MemCanonical (s.results i d nw f) := hs.modUnit

theorem MemCanonical.raiseFlags (hs : MemCanonical s) {i : Iss} {f : Flags} : MemCanonical (s.raiseFlags i f) :=
  hs.when (·.modUnit)

theorem MemCanonical.putS (hs : MemCanonical s) {i : Iss} {n : BitVec 5} {x : Word} : MemCanonical (s.putS i n x) := hs.modUnit

theorem MemCanonical.faultAct (hs : MemCanonical s) {i : Iss} {cause : Nat} {view coord : Word} :
    MemCanonical (s.faultAct i cause view coord) := hs.takeFault

theorem MemCanonical.takeFaults (hs : MemCanonical s) {blk : Nat} {u : UnitRef} {n : Nat} {l : List (Nat × Park)} :
    MemCanonical (s.takeFaults blk u n l) := by
  induction n generalizing s l with
  | zero => unfold State.takeFaults; exact hs
  | succ n ih =>
    cases l with
    | nil => exact hs
    | cons e l => exact ih hs.takeFault

theorem MemCanonical.record (hs : MemCanonical s) {core regid : Nat} {r : Region} {view : Nat} :
    MemCanonical (s.record core regid r view).2 := by
  unfold State.record
  dsimp only
  split
  · exact hs
  · split
    · exact hs.translate.snd_of_eq ‹_›
    · have h1 := hs.translate.snd_of_eq ‹_›
      split
      · exact h1.demandAt
      · split
        · exact h1.modCore
        · exact h1.draw.modCore

theorem MemCanonical.dropRecords (hs : MemCanonical s) {core : Nat} {p : Nat → Bool} : MemCanonical (s.dropRecords core p) :=
  hs.modCore

/-! ## Records, paths, barriers and exits (05, 07) -/

theorem MemCanonical.askCompletion (hs : MemCanonical s) {blk : Nat} : MemCanonical (s.askCompletion blk) := by
  unfold State.askCompletion
  split
  · exact hs.when (·.push)
  · exact hs

theorem MemCanonical.forgetViews (hs : MemCanonical s) {core regid : Nat} {v : Option Nat} :
    MemCanonical (s.forgetViews core regid v) := hs.dropRecords

theorem MemCanonical.passFences (hs : MemCanonical s) {blk : Nat} : MemCanonical (s.passFences blk) := by
  unfold State.passFences
  split
  · exact hs
  · exact ((hs.foldl fun _ h => h.scRaise).foldl fun _ h => h.forgetViews).modBlock

theorem MemCanonical.passAllFences (hs : MemCanonical s) : MemCanonical s.passAllFences := hs.foldl fun _ h => h.passFences

theorem MemCanonical.leavePassed (hs : MemCanonical s) {blk k : Nat} : MemCanonical (s.leavePassed blk k) := by
  unfold State.leavePassed
  split
  · exact hs
  · exact hs.foldl fun _ h => h.unless (·.leave)

theorem MemCanonical.completePhase (hs : MemCanonical s) {blk k : Nat} : MemCanonical (s.completePhase blk k) := by
  unfold State.completePhase
  refine .passFences (.modBlock ?_)
  split
  · exact hs.leavePassed.commit.shareC
  · exact hs.leavePassed.commit

theorem MemCanonical.barrierCheck (hs : MemCanonical s) {blk k : Nat} {left : Bool} : MemCanonical (s.barrierCheck blk k left) :=
  hs.when (·.completePhase)

theorem MemCanonical.barrierChecks (hs : MemCanonical s) {blk : Nat} {left : Bool} : MemCanonical (s.barrierChecks blk left) :=
  hs.foldl fun _ h => h.barrierCheck

theorem MemCanonical.unitGone (hs : MemCanonical s) {blk : Nat} {u : UnitRef} : MemCanonical (s.unitGone blk u) := by
  unfold State.unitGone
  split
  · exact hs
  · split
    · exact hs
    · refine .push ?_
      split
      · refine .barrierChecks ?_
        split
        · exact hs.modBlock
        · exact hs
      · split
        · exact hs.modBlock
        · exact hs

theorem MemCanonical.forgetFaults (hs : MemCanonical s) {blk : Nat} {u : UnitRef} {m : Word} :
    MemCanonical (s.forgetFaults blk u m) := by
  unfold State.forgetFaults
  split
  · exact hs.modBlock
  · exact hs

theorem MemCanonical.exitLanes (hs : MemCanonical s) {blk : Nat} {u : UnitRef} {m : Word} {status : Nat → BitVec 8} :
    MemCanonical (s.exitLanes blk u m status) := hs.modBlock.forgetFaults.modUnit.unitGone

theorem MemCanonical.resumeLanes (hs : MemCanonical s) {b : Nat} {u : UnitRef} {mask : Word} :
    MemCanonical (s.resumeLanes b u mask) := by
  unfold State.resumeLanes
  split
  · exact hs
  · exact (hs.foldl fun _ h => h.leaveMove).modUnit.foldl fun _ h => h.push

/-! ## Fetch and looking ahead (04, 14) -/

theorem MemCanonical.poisonObject (hs : MemCanonical s) {die : Nat} {r : Region} : MemCanonical (s.poisonObject die r) :=
  hs.unless (·.modDie)

theorem MemCanonical.keepWord (hs : MemCanonical s) {core regid pc : Nat} {w : Word} :
    MemCanonical (s.keepWord core regid pc w) := hs.modCore

theorem MemCanonical.dropFetched (hs : MemCanonical s) {core regid : Nat} : MemCanonical (s.dropFetched core regid) := hs.modCore

theorem MemCanonical.codeAt (hs : MemCanonical s) {core regid : Nat} {r : Region} {pc : Nat} :
    MemCanonical (s.codeAt core regid r pc).2 := by
  unfold State.codeAt
  dsimp only
  split
  · exact hs.translate.snd_of_eq ‹_›
  · have h1 := hs.translate.snd_of_eq ‹_›
    split
    · split
      · exact h1
      · exact h1.modDie.push
    · exact h1.poisonObject
    · split
      · exact h1.demandAt
      · exact h1

theorem MemCanonical.fetch (hs : MemCanonical s) {core regid : Nat} {r : Region} {pc : Nat} :
    MemCanonical (s.fetch core regid r pc).2 := by
  unfold State.fetch
  split
  · exact hs.codeAt
  · exact hs

/-- The words that are skipped are hint words, one for each unit of fuel. -/
theorem State.skipHints_succ (s : State) (core regid : Nat) (r : Region) (n pc : Nat) :
    s.skipHints core regid r (n + 1) pc = match s.codeAt core regid r pc with
      | (.word w, s) => if isHintWord w then s.skipHints core regid r n (nextPc pc) else (pc, false, s)
      | (.hold, s) => (pc, true, s)
      | (_, s) => (pc, false, s) := rfl

theorem MemCanonical.skipHints (hs : MemCanonical s) {core regid : Nat} {r : Region} {n pc : Nat} :
    MemCanonical (s.skipHints core regid r n pc).2.2 := by
  induction n generalizing s pc with
  | zero => exact hs
  | succ n ih =>
    have h1 := hs.codeAt (core := core) (regid := regid) (r := r) (pc := pc)
    rw [State.skipHints_succ]
    generalize s.codeAt core regid r pc = p at h1 ⊢
    obtain ⟨x, t⟩ := p
    cases x with
    | word w =>
      dsimp only
      split
      · exact ih h1
      · exact h1
    | fault c a va => exact h1
    | watch l => exact h1
    | hold => exact h1
    | poison => exact h1

/-- Looking ahead takes up a word for each unit of fuel. -/
theorem State.lookAhead_succ (s : State) (core regid : Nat) (r : Region) (fuel n pc : Nat) (acc : List Word) :
    s.lookAhead core regid r (fuel + 1) n pc acc =
      if n = 0 then (.words acc.reverse, s)
      else match s.codeAt core regid r pc with
        | (.word w, s) =>
          if isHintWord w then s.lookAhead core regid r fuel n (nextPc pc) acc
          else if !lastMajor (field w 26 6) then (.words acc.reverse, s)
          else if !innerMajor (field w 26 6) then (.words (w :: acc).reverse, s)
          else s.lookAhead core regid r fuel (n - 1) (nextPc pc) (w :: acc)
        | (.fault c a va, s) => (.fault c a va, s)
        | (.poison, s) => (.poison, s)
        | (_, s) => (.hold, s) := rfl

theorem MemCanonical.lookAhead (hs : MemCanonical s) {core regid : Nat} {r : Region} {fuel n pc : Nat} {acc : List Word} :
    MemCanonical (s.lookAhead core regid r fuel n pc acc).2 := by
  induction fuel generalizing s n pc acc with
  | zero => exact hs
  | succ fuel ih =>
    have h1 := hs.codeAt (core := core) (regid := regid) (r := r) (pc := pc)
    rw [State.lookAhead_succ]
    split
    · exact hs
    · generalize s.codeAt core regid r pc = p at h1 ⊢
      obtain ⟨x, t⟩ := p
      cases x with
      | word w =>
        dsimp only
        split
        · exact ih h1
        · split
          · exact h1
          · split
            · exact h1
            · exact ih h1
      | fault c a va => exact h1
      | watch l => exact h1
      | hold => exact h1
      | poison => exact h1

/-! ## Issue of a word (04 R86 to R96; 12 R288 to R292) -/

theorem MemCanonical.logStream (hs : MemCanonical s) {i : Iss} {compared : Bool} : MemCanonical (s.logStream i compared) := by
  unfold State.logStream
  split
  · exact hs.unless (·.modPair)
  · exact hs

theorem MemCanonical.startWord (hs : MemCanonical s) {i : Iss} {lanes : Word} {past : Nat} :
    MemCanonical (s.startWord i lanes past) := by
  unfold State.startWord
  refine .modUnit ?_
  split
  · exact hs.modPair
  · exact hs

theorem MemCanonical.endWord (hs : MemCanonical s) {i : Iss} {jumped : Word} {past : Nat} :
    MemCanonical (s.endWord i jumped past) := hs.modUnit

theorem MemCanonical.countWord (hs : MemCanonical s) {i : Iss} : MemCanonical (s.countWord i) := hs.unless (·.count.count)

theorem MemCanonical.skipWord (hs : MemCanonical s) {i : Iss} {past : Nat} {member : Bool} :
    MemCanonical (s.skipWord i past member) := (hs.unless (·.modUnit)).startWord.countWord.endWord.logStream

theorem MemCanonical.refuse (hs : MemCanonical s) {i : Iss} {past : Nat} {member : Bool} {cause : Nat} {coord : Word} :
    MemCanonical (s.refuse i past member cause coord) := by
  unfold State.refuse
  split
  · exact hs.modUnit.faultAct
  · exact hs.modUnit.startWord.faultAct.endWord.logStream

theorem MemCanonical.queueTokens (hs : MemCanonical s) {i : Iss} {a : Attr} : MemCanonical (s.queueTokens i a) := by
  unfold State.queueTokens
  split
  · exact hs.modPair
  · exact hs

theorem MemCanonical.fillQueue (hs : MemCanonical s) {i : Iss} {a : Attr} {awaits : Option Nat} :
    MemCanonical (s.fillQueue i a awaits) := by
  unfold State.fillQueue
  split
  · exact hs.modPair
  · exact hs

theorem MemCanonical.hold (hs : MemCanonical s) : MemCanonical s.hold := hs.update

theorem MemCanonical.releaseFirst (hs : MemCanonical s) {a : Attr} {i : Iss} : MemCanonical (s.releaseFirst a i) :=
  hs.unless (·.commit.modUnit)

theorem MemCanonical.ahead (hs : MemCanonical s) {i : Iss} : MemCanonical (s.ahead i).2 := by
  unfold State.ahead
  split
  · exact hs.lookAhead
  · exact hs

theorem MemCanonical.judge (hs : MemCanonical s) {i : Iss} {a : Attr} {extra stall : Iss → State → Bool} :
    MemCanonical (s.judge i a extra stall).2 := by
  unfold State.judge
  split
  · exact hs.ahead.snd_of_eq ‹_›
  · exact hs.ahead.snd_of_eq ‹_›
  · exact hs.ahead.snd_of_eq ‹_›
  · have h1 := hs.ahead.snd_of_eq ‹_›
    (repeat' split) <;> exact h1

theorem MemCanonical.acquireTokens (hs : MemCanonical s) {i : Iss} {a : Attr} : MemCanonical (s.acquireTokens i a) :=
  hs.unless (·.acquireAt.raiseLtime.modUnit)

theorem MemCanonical.dropTokens (hs : MemCanonical s) {i : Iss} {a : Attr} : MemCanonical (s.dropTokens i a) :=
  hs.unless (·.modUnit)

theorem MemCanonical.keepValues (hs : MemCanonical s) {i : Iss} {a : Attr} : MemCanonical (s.keepValues i a) :=
  (hs.unless fun h => (h.unless (·.fillQueue)).queueTokens).modUnit

theorem MemCanonical.perform (hs : MemCanonical s) {i : Iss} {a : Attr} {chain : Option Chain} {body : Iss → State → State × Word}
    {compared : Bool}
    (hbody : ∀ {t} x0, MemCanonical t → MemCanonical (body x0 t).1) :
    MemCanonical (s.perform i a chain body compared) :=
  (hbody _ hs.startWord.countWord.acquireTokens.dropTokens.modUnit.addEnergy).modUnit.keepValues.endWord.logStream

theorem MemCanonical.noteLag (hs : MemCanonical s) {i : Iss} : MemCanonical (s.noteLag i) := by
  unfold State.noteLag
  split
  · exact hs.unless (·.modPair.at)
  · exact hs

theorem MemCanonical.leadTurn (hs : MemCanonical s) {i : Iss} {a : Attr} {n : Nat} {f : Iss → State → List Nat}
    {chain : Option Chain} {body : Iss → State → State × Word}
    (hbody : ∀ {t} x0, MemCanonical t → MemCanonical (body x0 t).1) :
    MemCanonical (s.leadTurn i a n f chain body) := by
  unfold State.leadTurn
  split
  · split
    · exact hs.modPair.perform hbody
    · exact hs.hold
  · exact hs.modPair.noteLag.hold

theorem MemCanonical.noteStall (hs : MemCanonical s) {i : Iss} {a : Attr} (ha : a.KeepsMemory := by exact fun _ h => h) :
    MemCanonical (s.noteStall i a) := (ha _ (hs.modUnit.when (·.noteLag))).hold

theorem MemCanonical.noteDue (hs : MemCanonical s) {i : Iss} : MemCanonical (s.noteDue i) := hs.modUnit.hold

theorem MemCanonical.takeTokens (hs : MemCanonical s) {i : Iss} {a : Attr} {n : Nat} : MemCanonical (s.takeTokens i a n) :=
  (hs.foldl fun _ h => h.modUnit).modUnit.modPair

theorem MemCanonical.takeQueue (hs : MemCanonical s) {i : Iss} {a : Attr} {n : Nat} : MemCanonical (s.takeQueue i a n) := by
  unfold State.takeQueue
  refine .modPair (hs.foldl fun _ h => ?_)
  dsimp only
  split <;> exact h.modUnit

theorem MemCanonical.passItem (hs : MemCanonical s) {blk n : Nat} {m : Word} : MemCanonical (s.passItem blk n m) := hs.modPair

theorem MemCanonical.trailWord (hs : MemCanonical s) {i : Iss} {a : Attr} {n : Nat} {body : Iss → State → State × Word}
    (hbody : ∀ {t} x0, MemCanonical t → MemCanonical (body x0 t).1) :
    MemCanonical (s.trailWord i a n body) := by
  unfold State.trailWord
  dsimp only
  refine .endWord (.takeQueue ?_)
  split
  · exact hbody _ hs.passItem.takeTokens.startWord.modUnit
  · exact hs.passItem.takeTokens.startWord.modUnit

theorem MemCanonical.trailTurn (hs : MemCanonical s) {i : Iss} {a : Attr} {n : Nat} {body : Iss → State → State × Word}
    (hbody : ∀ {t} x0, MemCanonical t → MemCanonical (body x0 t).1) :
    MemCanonical (s.trailTurn i a n body) := by
  unfold State.trailTurn
  split
  · split
    · exact hs.passItem.skipWord
    · split
      · exact hs.consume
      · split
        · exact hs.consume
        · split
          · exact hs.trailWord hbody
          · exact hs.hold
  · split
    · exact hs.hold
    · split
      · exact hs.modPair.modUnit
      · exact hs.consume
  · exact hs.hold

theorem MemCanonical.issue (hs : MemCanonical s) {a : Attr} {extra stall : Iss → State → Bool} {body : Iss → State → State × Word}
    (hbody : ∀ {t} x0, MemCanonical t → MemCanonical (body x0 t).1)
    (ha : a.KeepsMemory := by exact fun _ h => h) :
    NextCanonical (s.issue a extra stall body) := by
  unfold State.issue
  split
  · exact trivial
  · split
    · exact (hs.trailTurn hbody).next
    · split
      · exact (hs.judge.snd_of_eq ‹_›).skipWord.next
      · exact (hs.judge.snd_of_eq ‹_›).refuse.next
      · exact (hs.judge.snd_of_eq ‹_›).takeFault.next
      · exact ((hs.judge.snd_of_eq ‹_›).noteStall ha).next
      · exact (hs.judge.snd_of_eq ‹_›).consume.next
      · exact (hs.judge.snd_of_eq ‹_›).noteDue.next
      · have h1 := hs.judge.snd_of_eq ‹_›
        split
        · exact (h1.leadTurn hbody).next
        · exact (h1.perform hbody).next

/-- ISSUE of a word whose effect leaves no lane elsewhere. -/
theorem MemCanonical.issueStraight (hs : MemCanonical s) {a : Attr} {extra stall : Iss → State → Bool} {f : Iss → State → State}
    (hf : ∀ {t} i, MemCanonical t → MemCanonical (f i t)) (ha : a.KeepsMemory := by exact fun _ h => h) :
    NextCanonical (s.issue a extra stall (straight f)) := hs.issue hf ha

theorem MemCanonical.compute (hs : MemCanonical s) {a : Attr} {f : Iss → State → State}
    (hf : ∀ {t} i, MemCanonical t → MemCanonical (f i t)) (ha : a.KeepsMemory := by exact fun _ h => h) :
    NextCanonical (s.compute a f) := hs.issueStraight hf ha

/-! ## Register-only words (06) -/

theorem MemCanonical.vec (hs : MemCanonical s) {maj fn cls : Nat} {p : BitVec 4} {d a b : BitVec 6} {n : BitVec 1} {third : Bool}
    {f : Mods → Word → Word → Word → Nat × Flags} :
    NextCanonical (s.vec maj fn cls p d a b n third f) := hs.compute (fun _ h => h.results.raiseFlags)

theorem MemCanonical.vecI (hs : MemCanonical s) {maj fn : Nat} {p : BitVec 4} {d a b : BitVec 6} {n : BitVec 1} {third : Bool}
    {f : Word → Word → Word → Word} :
    NextCanonical (s.vecI maj fn p d a b n third f) := hs.vec

theorem MemCanonical.vecF (hs : MemCanonical s) {maj fn cls : Nat} {p : BitVec 4} {d a b : BitVec 6} {n : BitVec 1} {third : Bool}
    {f : Mods → Nat → Nat → Nat → Nat × Flags} :
    NextCanonical (s.vecF maj fn cls p d a b n third f) := hs.vec

theorem MemCanonical.vecImm (hs : MemCanonical s) {maj fn : Nat} {himm : Bool} {p : BitVec 4} {d a : BitVec 6}
    {f : Hints → Word → Word} :
    NextCanonical (s.vecImm maj fn himm p d a f) := hs.compute (fun _ h => h.results)

theorem MemCanonical.vec64 (hs : MemCanonical s) {fn : Nat} {p : BitVec 4} {d a b : BitVec 6}
    {f : BitVec 64 → BitVec 64 → BitVec 64} :
    NextCanonical (s.vec64 fn p d a b f) := hs.compute (fun _ h => h.modUnit)

theorem MemCanonical.predResults (hs : MemCanonical s) {i : Iss} {g : BitVec 2} {k : BitVec 3} {f : Nat → Bool} :
    MemCanonical (s.predResults i g k f) := hs.modUnit

theorem MemCanonical.setP (hs : MemCanonical s) {maj fn cls : Nat} {p : BitVec 4} {g : BitVec 2} {k : BitVec 3} {a b : BitVec 6}
    {f : Word → Word → Bool × Flags} :
    NextCanonical (s.setP maj fn cls p g k a b f) := hs.compute (fun _ h => h.predResults.raiseFlags)

theorem MemCanonical.scal (hs : MemCanonical s) {maj fn : Nat} {d a b : BitVec 5} {f : Word → Word → Word} :
    NextCanonical (s.scal maj fn d a b f) := hs.compute (fun _ h => h.putS)

theorem MemCanonical.scal1 (hs : MemCanonical s) {maj fn : Nat} {himm : Bool} {d a : BitVec 5} {f : Hints → Word → Word} :
    NextCanonical (s.scal1 maj fn himm d a f) := hs.compute (fun _ h => h.putS)

/-! ## Accesses of lanes (07) -/

theorem MemCanonical.modAccess (hs : MemCanonical s) {t : Site} {f : Access → Access} : MemCanonical (s.modAccess t f) :=
  hs.modUnit

theorem MemCanonical.modLaneAcc (hs : MemCanonical s) {t : Site} {lane : Nat} {f : LaneAcc → LaneAcc} :
    MemCanonical (s.modLaneAcc t lane f) := hs.modAccess

theorem MemCanonical.laneDone (hs : MemCanonical s) {t : Site} {lane : Nat} : MemCanonical (s.laneDone t lane) := by
  unfold State.laneDone
  refine .settleCommit (.unitGone ?_)
  split
  · exact hs.modUnit.modPair
  · exact hs.modAccess

theorem MemCanonical.putResult (hs : MemCanonical s) {t : Site} {lane : Nat} {regs : List Nat} {vals : List Word} {taint : Bool} :
    MemCanonical (s.putResult t lane regs vals taint) := hs.modUnit.modPair

theorem MemCanonical.accessFault (hs : MemCanonical s) {t : Site} {faults : List (Nat × Bad × Nat × Nat)} :
    MemCanonical (s.accessFault t faults) := by
  unfold State.accessFault
  split
  · exact hs
  · refine .settleCommit (.takeFaults ?_)
    refine hs.foldl fun _ h => ?_
    split
    · exact h.laneDone
    · exact h.modLaneAcc

theorem MemCanonical.doStore (hs : MemCanonical s) {t : Site} {core m pol : Nat} {x : LaneAcc} :
    MemCanonical (s.doStore t core m pol x) := by
  unfold State.doStore
  split
  · exact hs
  · refine .foldl ?_ (fun _ h => ?_)
    · split
      · exact hs.when (·.modCore)
      · exact hs.l1Drop
    · split
      · exact h.bufStore
      · exact h

theorem MemCanonical.markCommitted (hs : MemCanonical s) {blk : Nat} : MemCanonical (s.markCommitted blk) := hs.modBlock

theorem MemCanonical.doLr (hs : MemCanonical s) {t : Site} {core : Nat} {hm : Home} {off lane : Nat} :
    MemCanonical (s.doLr t core hm off lane).2 := by
  unfold State.doLr
  split
  · exact hs
  · exact hs.dramRead.l1Drop.dropFarCopy.lease.readsFrom.fresh.modUnit.modBlock.at

theorem MemCanonical.doSc (hs : MemCanonical s) {t : Site} {core : Nat} {hm : Home} {off lane : Nat} {x : Word} :
    MemCanonical (s.doSc t core hm off lane x).2 := .ite_snd hs (.ite_snd hs.modUnit.rmw hs.modUnit.l1Drop)

theorem MemCanonical.performed {r : Option Word × State} (hr : MemCanonical r.2) {blk : Nat} :
    MemCanonical (State.performed blk r).2 := by
  unfold State.performed
  split
  · exact hr.markCommitted
  · exact hr

theorem MemCanonical.doAtomic (hs : MemCanonical s) {t : Site} {core : Nat} {op : MemOp} {x : LaneAcc} :
    MemCanonical (s.doAtomic t core op x).2 := by
  unfold State.doAtomic
  split
  · dsimp only
    split
    · exact hs.releaseLine
    · split
      · exact hs.releaseLine.rmw.performed
      · exact hs.releaseLine.rmw.performed
      · exact hs.releaseLine.doLr
      · exact hs.releaseLine.doSc.performed
      · exact hs.releaseLine
  · exact hs

theorem MemCanonical.atomicDone (hs : MemCanonical s) {t : Site} {op : MemOp} {x : LaneAcc} {v : Option Word} {remote : Bool}
    {time : Nat} :
    MemCanonical (s.atomicDone t op x v remote time) := by
  unfold State.atomicDone
  split
  · exact hs.consume
  · split
    · split
      · refine .laneDone (.commitSoon (.putResult ?_))
        split
        · exact hs.raiseLtime
        · exact hs
      · exact hs.modLaneAcc.push
    · exact hs.commitSoon.laneDone

theorem MemCanonical.doMaint (hs : MemCanonical s) {t : Site} {core fn : Nat} {x : LaneAcc} :
    MemCanonical (s.doMaint t core fn x) := by
  unfold State.doMaint
  split
  · exact hs
  · exact (hs.unless (·.releaseLine)).unless fun h => (h.unless (·.writeBack)).unless (·.l1Drop)

theorem MemCanonical.doSts (hs : MemCanonical s) {core base m : Nat} {x : LaneAcc} : MemCanonical (s.doSts core base m x) :=
  hs.modCore

theorem MemCanonical.doAtoms (hs : MemCanonical s) {core base : Nat} {o : AtomOp} {x : LaneAcc} :
    MemCanonical (s.doAtoms core base o x).2 := by
  unfold State.doAtoms
  split
  · exact hs.modCore
  · exact hs

theorem MemCanonical.doScratch (hs : MemCanonical s) {t : Site} {core base : Nat} {op : MemOp} {m : Nat} {x : LaneAcc} :
    MemCanonical (s.doScratch t core base op m x) := by
  unfold State.doScratch
  dsimp only
  split
  · split
    · exact hs.consume
    · exact hs.modLaneAcc.push
  · exact hs.doSts.laneDone
  · split
    · exact hs.consume
    · exact hs.doAtoms.modLaneAcc.push
  · exact hs

theorem MemCanonical.readLine (hs : MemCanonical s) {blk core : Nat} {hm : Home} {pol : Nat} :
    MemCanonical (s.readLine blk core hm pol).2.2 := (hs.loadLine.count.unless (·.addEnergy.addEnergy)).when (·.sendTo)

theorem MemCanonical.holdLanes (hs : MemCanonical s) {t : Site} {p : Phase} {lanes : List LaneAcc} :
    MemCanonical (s.holdLanes t p lanes) := hs.modAccess

theorem MemCanonical.awaitEarlier (hs : MemCanonical s) {t : Site} {p : Phase} {line : Option Nat} {lanes : List LaneAcc} :
    MemCanonical (s.awaitEarlier t p line lanes) := hs.holdLanes

theorem MemCanonical.holdBack (hs : MemCanonical s) {t : Site} {lanes : List LaneAcc} : MemCanonical (s.holdBack t lanes) :=
  hs.holdLanes.commit

theorem MemCanonical.bindLoad (hs : MemCanonical s) {t : Site} {core w : Nat} {signed : Bool} {x : LaneAcc} :
    MemCanonical (s.bindLoad t core w signed x) := by
  unfold State.bindLoad
  dsimp only
  split
  · exact hs.putResult.laneDone
  · split
    · exact hs.awaitEarlier.push
    · split
      · exact hs.dirEvict.push
      · split
        · exact hs.readLine.consume
        · exact hs.readLine.readsFrom.foldl fun _ h => h.putResult.laneDone

theorem MemCanonical.bindStore (hs : MemCanonical s) {t : Site} {store : Bool} {f : LaneAcc → State → State} {x : LaneAcc}
    (hf : ∀ {t} x0, MemCanonical t → MemCanonical (f x0 t)) :
    MemCanonical (s.bindStore t store f x) := by
  unfold State.bindStore
  dsimp only
  split
  · exact hs.laneDone
  · split
    · exact hs.awaitEarlier.push
    · split
      · exact hs.holdBack.push
      · exact hs.foldl fun _ h => (hf _ h).laneDone

/-! ## Rings and writes of units (13) -/

theorem MemCanonical.unitWrite (hs : MemCanonical s) {die : Nat} {hm : Home} {off : Nat} {bytes : List Byte} :
    MemCanonical (s.unitWrite die hm off bytes) := by
  unfold State.unitWrite
  split
  · exact hs.lostStore
  · exact hs.stampWrite.homeWrite.clearResv

theorem MemCanonical.setRing (hs : MemCanonical s) {core : Nat} {l : List Bind} : MemCanonical (s.setRing core l) := hs.modDie

/-! ## Ladder units (09 R213 to R219) -/

theorem MemCanonical.viewOf (hs : MemCanonical s) {core regid : Nat} {r : Region} {at' : Nat → Park} {view : Nat} :
    MemCanonical (s.viewOf core regid r at' view).2 := by
  unfold State.viewOf
  split <;> exact hs.record.snd_of_eq ‹_›

theorem MemCanonical.ladderShape (hs : MemCanonical s) {core regid : Nat} {r : Region} {at' : Nat → Park} {v : Nat} {d : Desc} :
    MemCanonical (s.ladderShape core regid r at' v d).2 := by
  unfold State.ladderShape
  split
  · exact hs.viewOf.snd_of_eq ‹_›
  · exact hs.viewOf.snd_of_eq ‹_›
  · have h1 := hs.viewOf.snd_of_eq ‹_›
    split
    · exact h1
    · split
      · exact h1
      · split <;> exact h1.viewOf.snd_of_eq ‹_›

theorem MemCanonical.readLadder (hs : MemCanonical s) {core regid : Nat} {r : Region} {at' : Nat → Park} {v key : Nat} {hm : Home}
    {old : Option Ladder} :
    MemCanonical (s.readLadder core regid r at' v key hm old).2 := by
  unfold State.readLadder
  dsimp only
  split
  · exact hs.demandAt
  · split
    · exact hs.demandAt
    · split <;> exact hs.demandAt.ladderShape.snd_of_eq ‹_›

theorem MemCanonical.ladderWrite (hs : MemCanonical s) {lid bit x : Nat} : MemCanonical (s.ladderWrite lid bit x) := by
  unfold State.ladderWrite
  split
  · exact hs
  · exact hs.unitWrite

theorem MemCanonical.writeThru (hs : MemCanonical s) {lid : Nat} : MemCanonical (s.writeThru lid) := by
  unfold State.writeThru
  split
  · exact hs
  · exact hs.modLadder.unless (·.ladderWrite.modLadder)

theorem MemCanonical.ladderSettle (hs : MemCanonical s) {lid : Nat} : MemCanonical (s.ladderSettle lid) :=
  hs.writeThru.when (·.modLadder)

theorem MemCanonical.grantOne (hs : MemCanonical s) {lid : Nat} {r : Region} {l : Ladder} :
    MemCanonical (s.grantOne lid r l) := by
  unfold State.grantOne
  split
  · exact hs.modLadder
  · exact hs

theorem MemCanonical.grant (hs : MemCanonical s) {lid : Nat} : MemCanonical (s.grant lid) := by
  unfold State.grant
  split
  · exact hs
  · split
    · exact hs
    · exact hs.unless fun h => h.foldl fun _ h => h.grantOne

theorem MemCanonical.ladderPump (hs : MemCanonical s) {lid k : Nat} : MemCanonical (s.ladderPump lid k) := by
  unfold State.ladderPump
  dsimp only
  split
  · exact hs.grant
  · split
    · exact hs.grant
    · split
      · exact hs.grant
      · split
        · exact hs.grant.push
        · exact hs.grant

theorem MemCanonical.pumpCluster (hs : MemCanonical s) {die cluster : Nat} : MemCanonical (s.pumpCluster die cluster) :=
  hs.foldl fun _ h => h.when fun h => h.foldl fun _ h => h.ladderPump

theorem MemCanonical.pumpLadders (hs : MemCanonical s) {regid : Nat} : MemCanonical (s.pumpLadders regid) :=
  hs.foldl fun _ h => h.when fun h => h.foldl fun _ h => h.ladderPump

theorem MemCanonical.starveClock (hs : MemCanonical s) {lid k : Nat} : MemCanonical (s.starveClock lid k) := by
  unfold State.starveClock
  split
  · exact hs
  · split
    · exact hs.at
    · exact hs

theorem MemCanonical.enqueue (hs : MemCanonical s) {lid k id : Nat} {frame : Option Nat} :
    MemCanonical (s.enqueue lid k id frame) := by
  unfold State.enqueue
  split
  · exact hs
  · exact (hs.modLadder.when (·.starveClock)).ladderPump

theorem MemCanonical.acceptFrom (hs : MemCanonical s) {lid n : Nat} {x : Submission} : MemCanonical (s.acceptFrom lid n x).2 := by
  induction n generalizing s x with
  | zero => exact hs
  | succ n ih =>
    unfold State.acceptFrom
    split
    · split
      · exact ih hs.enqueue.modBlock
      · exact hs
    · exact hs

theorem MemCanonical.submitted (hs : MemCanonical s) {x : Submission} : MemCanonical (s.submitted x) := hs.modUnit.commitSoon

theorem MemCanonical.turnAway (hs : MemCanonical s) {x : Submission} {p : Park} : MemCanonical (s.turnAway x p) := by
  unfold State.turnAway
  dsimp only
  split
  · exact hs
  · exact hs.modUnit.takeFault

theorem MemCanonical.heldFor (hs : MemCanonical s) {lid : Nat} {x : Submission} : MemCanonical (s.heldFor lid x).2 := by
  unfold State.heldFor
  dsimp only
  split
  · split
    · exact hs
    · split
      · exact hs
      · split
        · exact (hs.readLadder.snd_of_eq ‹_›).update
        · exact (hs.readLadder.snd_of_eq ‹_›).turnAway
        · exact (hs.readLadder.snd_of_eq ‹_›).consume
  · exact hs

theorem MemCanonical.acceptMore (hs : MemCanonical s) {lid : Nat} : MemCanonical (s.acceptMore lid) := by
  unfold State.acceptMore
  split
  · exact hs
  · refine hs.modLadder.foldl fun _ h => ?_
    split
    · split
      · exact h.heldFor.snd_of_eq ‹_›
      · have h1 := h.heldFor.snd_of_eq ‹_›
        split
        · exact (h1.acceptFrom.snd_of_eq ‹_›).submitted
        · exact (h1.acceptFrom.snd_of_eq ‹_›).modLadder
    · exact h.modLadder

theorem MemCanonical.wakeFrames (hs : MemCanonical s) {lid : Nat} : MemCanonical (s.wakeFrames lid) := hs.update

theorem MemCanonical.freeFrame (hs : MemCanonical s) {lid : Nat} {a : Option Nat} : MemCanonical (s.freeFrame lid a) := by
  unfold State.freeFrame
  split
  · exact hs
  · exact hs.modLadder.wakeFrames

theorem MemCanonical.retire (hs : MemCanonical s) {lid id : Nat} {write : Option Nat} : MemCanonical (s.retire lid id write) := by
  unfold State.retire
  split
  · exact hs
  · split
    · exact hs.acceptMore
    · exact hs.modLadder.writeThru.acceptMore

theorem MemCanonical.loseItem (hs : MemCanonical s) {lid id : Nat} {frame : Option Nat} :
    MemCanonical (s.loseItem lid id frame) := by
  unfold State.loseItem
  refine .ladderSettle (.retire (.freeFrame ?_))
  split
  · exact hs.modLadder.ladderWrite
  · exact hs.modLadder

theorem MemCanonical.takeItem (hs : MemCanonical s) {blk l : Nat} : MemCanonical (s.takeItem blk l) := hs.modUnit

theorem MemCanonical.loseItems (hs : MemCanonical s) {blk : Nat} {lanes : Word} : MemCanonical (s.loseItems blk lanes) := by
  unfold State.loseItems
  split
  · exact hs
  · split
    · refine hs.foldl fun _ h => ?_
      split
      · exact h.takeItem.loseItem
      · exact h
    · exact hs

theorem MemCanonical.abortLadders (hs : MemCanonical s) {regid : Nat} : MemCanonical (s.abortLadders regid) :=
  hs.foldl fun _ h => h.unless fun h => (h.modLadder.foldl fun _ h => h.submitted).foldl fun _ h => h.loseItem

/-! ## Control flow (05) -/

theorem MemCanonical.goto (hs : MemCanonical s) {i : Iss} {leave : Bool} {targets : List (Nat × Nat)} :
    MemCanonical (s.goto i leave targets) := hs.modUnit

theorem MemCanonical.jump (hs : MemCanonical s) {i : Iss} {leave : Bool} {targets : List (Nat × Nat)} :
    MemCanonical (s.jump i leave targets).1 := hs.goto.takeFaults.takeFaults

theorem MemCanonical.link (hs : MemCanonical s) {i : Iss} {lanes : Word} : MemCanonical (s.link i lanes) := hs.modUnit

theorem MemCanonical.execSbr (hs : MemCanonical s) {c : BitVec 4} {a b : BitVec 5} {o : BitVec 12} :
    NextCanonical (execSbr c a b o s) := by
  unfold Machine.execSbr
  refine hs.issue (fun _ h => ?_)
  split
  · exact h.jump
  · exact h

theorem MemCanonical.segment (hs : MemCanonical s) {i : Iss} {k : Nat} : MemCanonical (s.segment i k).2 := by
  unfold State.segment
  dsimp only
  split
  · exact hs
  · split
    · exact hs
    · split
      · exact hs.translate.snd_of_eq ‹_›
      · have h1 := hs.translate.snd_of_eq ‹_›
        split
        · exact h1.loadLine
        · split
          · exact h1.loadLine.readsFrom.dropFetched
          · exact h1.loadLine.readsFrom

theorem MemCanonical.segments (hs : MemCanonical s) {i : Iss} {l : List (Nat × Nat)} : MemCanonical (s.segments i l).2.2.2 := by
  induction l generalizing s with
  | nil => exact hs
  | cons e l ih =>
    unfold State.segments
    dsimp only
    split <;> exact ih hs.segment

theorem MemCanonical.execNextSeg (hs : MemCanonical s) {p : BitVec 4} {a : BitVec 6} : NextCanonical (execNextSeg p a s) := by
  unfold Machine.execNextSeg
  dsimp only
  refine hs.issue (fun _ h => ?_)
  split
  · exact h.segments.consume
  · exact h.segments.takeFaults.jump.foldl fun _ h => h.leave

theorem MemCanonical.setOp (hs : MemCanonical s) {a : Attr} {e : BitVec 4} {f : Iss → Warp → Warp}
    (ha : a.KeepsMemory := by exact fun _ h => h) :
    NextCanonical (s.setOp a e f) := hs.issueStraight (fun _ h => h.modUnit) ha

theorem MemCanonical.loopEnd (hs : MemCanonical s) {i : Iss} {off : Nat} : MemCanonical (s.loopEnd i off).2.2 := hs.skipHints

theorem MemCanonical.loopWord (hs : MemCanonical s) {maj k : Nat} {rs : List Nat} {off : Nat} {count : Iss → Nat} :
    NextCanonical (s.loopWord maj k rs off count) := by
  unfold State.loopWord
  refine MemCanonical.issue ?issued fun _ h => ?acted
  case issued =>
    split
    · exact hs.loopEnd
    · exact hs
  case acted =>
    dsimp only
    split
    · exact h.takeFault
    · split <;> exact h.modUnit

theorem MemCanonical.arriveBar (hs : MemCanonical s) {i : Iss} {k : Nat} : MemCanonical (s.arriveBar i k) := hs.modBlock

theorem MemCanonical.waitBar (hs : MemCanonical s) {i : Iss} {k : Nat} : MemCanonical (s.waitBar i k) := hs.modUnit

theorem MemCanonical.syncBar (hs : MemCanonical s) {i : Iss} {k : Nat} : MemCanonical (s.syncBar i k) := by
  unfold State.syncBar
  dsimp only
  split
  · exact hs.arriveBar.completePhase.fenceWait.passFences
  · exact hs.arriveBar.waitBar

/-! ## Sink groups (07 R175 to R183) -/

theorem MemCanonical.fetchGroup (hs : MemCanonical s) {core regid : Nat} {r : Region} {fuel n pc : Nat} {ws : List Word}
    {acc : Members} : MemCanonical (s.fetchGroup core regid r fuel n pc ws acc).2 := by
  induction fuel generalizing s n pc ws acc with
  | zero => exact hs
  | succ fuel ih =>
    unfold State.fetchGroup
    split
    · exact hs.fetch.snd_of_eq ‹_›
    · exact hs.fetch.snd_of_eq ‹_›
    · exact hs.fetch.snd_of_eq ‹_›
    · exact hs.fetch.snd_of_eq ‹_›
    · have h1 := hs.fetch.snd_of_eq ‹_›
      dsimp only
      split
      · exact ih h1.keepWord
      · split
        · exact h1.keepWord
        · split
          · split
            · exact ih h1.keepWord
            · exact h1.keepWord
          · exact h1.keepWord

theorem MemCanonical.memberElems (hs : MemCanonical s) {p : Place} {m : Mem} {f : MemForm} {hm : Hints} :
    MemCanonical (s.memberElems p m f hm).2 := by
  unfold State.memberElems
  dsimp only
  split
  · exact hs.record.snd_of_eq ‹_›
  · exact hs.record.snd_of_eq ‹_›
  · have h1 := hs.record.snd_of_eq ‹_›
    (repeat' split) <;> exact h1

theorem MemCanonical.memberHome (hs : MemCanonical s) {p : Place} {op : MemOp} {va : Nat} :
    MemCanonical (s.memberHome p op va).2 := by
  unfold State.memberHome
  split
  · exact hs
  · split <;> exact hs.translate.snd_of_eq ‹_›

theorem MemCanonical.runMember (hs : MemCanonical s) {p : Place} {m : Mem} {e : Effect} {g : Instr} {hm : Hints} :
    MemCanonical (s.runMember p m e g hm).2 := by
  unfold State.runMember
  split
  · exact hs
  · split
    · exact hs
    · split
      · exact hs.memberElems.snd_of_eq ‹_›
      · have h1 := hs.memberElems.snd_of_eq ‹_›
        split
        · split <;> exact h1
        · split
          · exact h1.memberHome.snd_of_eq ‹_›
          · have h2 := h1.memberHome.snd_of_eq ‹_›
            dsimp only
            split
            · refine .ite_snd ?_ (.readsFrom ?_) <;> split
              exacts [h2, h2.readLine, h2, h2.readLine]
            · exact h2
            · exact h2

theorem MemCanonical.runMembers (hs : MemCanonical s) {p : Place} {m : Mem} {e : Effect} {l : List (Instr × List Word)} :
    MemCanonical (s.runMembers p m e l).2 := by
  induction l generalizing s m e with
  | nil => exact hs
  | cons x l ih =>
    unfold State.runMembers
    split
    · exact ih (hs.runMember.snd_of_eq ‹_›)
    · exact hs.runMember

theorem MemCanonical.coreEffect (hs : MemCanonical s) {t : Site} {core lane : Nat} {e : Effect} :
    MemCanonical (s.coreEffect t core lane e) := by
  unfold State.coreEffect
  dsimp only
  split
  · exact hs
  · exact hs.foldl fun _ h => h.bufStore
  · split
    · exact hs.releaseLine
    · split
      · exact (hs.releaseLine.rmw.snd_of_eq ‹_›).markCommitted.commitSoon
      · exact (hs.releaseLine.rmw.snd_of_eq ‹_›).consume

theorem MemCanonical.groupResults (hs : MemCanonical s) {t : Site} {lane level : Nat} {m : Mem} :
    MemCanonical (s.groupResults t lane level m) := by
  unfold State.groupResults
  dsimp only
  split
  · exact hs.modUnit.modPair.count
  · exact hs.modUnit.modPair

theorem MemCanonical.groupLater (hs : MemCanonical s) {t : Site} {lanes : List LaneAcc} : MemCanonical (s.groupLater t lanes) :=
  hs.foldl fun _ h => h.push

theorem MemCanonical.runAtCore (hs : MemCanonical s) {t : Site} {p : Place} {x : LaneAcc} : MemCanonical (s.runAtCore t p x) := by
  unfold State.runAtCore
  split
  · exact (hs.runMembers.snd_of_eq ‹_›).consume
  · exact (hs.runMembers.snd_of_eq ‹_›).accessFault
  · have h1 := hs.runMembers.snd_of_eq ‹_›
    split
    · exact h1.holdBack.groupLater
    · exact h1.coreEffect.groupResults.laneDone

theorem MemCanonical.runLead (hs : MemCanonical s) {t : Site} {b : Block} {r : Region} {x : LaneAcc} :
    MemCanonical (s.runLead t b r x) := by
  unfold State.runLead
  dsimp only
  split
  · split
    · exact hs.readLine.consume
    · exact hs.readLine.runAtCore
  · exact hs.runAtCore

theorem MemCanonical.startGroup (hs : MemCanonical s) {t : Site} {b : Block} {r : Region} {hm : Home} {lanes : List LaneAcc} :
    MemCanonical (s.startGroup t b r hm lanes) := by
  unfold State.startGroup
  dsimp only
  split
  · exact hs.awaitEarlier.groupLater
  · split
    · exact hs.holdBack.groupLater
    · split
      · exact hs.foldl fun _ h => h.runLead
      · split
        · exact hs.holdLanes.groupLater
        · exact hs.foldl fun _ h => h.fresh.update.push

theorem MemCanonical.startGroups (hs : MemCanonical s) {t : Site} {b : Block} {r : Region} {fuel : Nat} {l : List LaneAcc} :
    MemCanonical (s.startGroups t b r fuel l) := by
  induction fuel generalizing s l with
  | zero => unfold State.startGroups; exact hs
  | succ fuel ih =>
    cases l with
    | nil => exact hs
    | cons x l =>
      unfold State.startGroups
      split
      · exact ih (hs.awaitEarlier.groupLater.ite hs.runLead)
      · exact ih hs.startGroup

/-! ## Attempts of accesses (07, 14) -/

theorem MemCanonical.passed (hs : MemCanonical s) {t : Site} {b : Block} {r : Region} {lanes : List Nat} :
    MemCanonical (s.passed t b r lanes) := by
  unfold State.passed
  dsimp only
  split
  · exact hs.startGroups
  · exact hs.foldl fun _ h => h.push
  · exact hs.foldl fun _ h => h.push
  · exact hs.foldl fun _ h => h.push
  · exact hs.foldl fun _ h => h.push

theorem MemCanonical.translatePage (hs : MemCanonical s) {b : Block} {r : Region} {w : Warp} {a : Access} {domain full : Bool}
    {lanes : List (Nat × Nat)} :
    MemCanonical (s.translatePage b r w a domain full lanes).2 := by
  unfold State.translatePage
  dsimp only
  split
  · exact hs
  · split
    · split <;> exact hs.translate.snd_of_eq ‹_›
    · (repeat' split) <;> exact hs

theorem MemCanonical.tryPages (hs : MemCanonical s) {t : Site} {b : Block} {r : Region} {domain full : Bool} {fuel : Nat}
    {l : List (Nat × Nat)} : MemCanonical (s.tryPages t b r domain full fuel l) := by
  induction fuel generalizing s l with
  | zero => unfold State.tryPages; exact hs
  | succ fuel ih =>
    cases l with
    | nil => exact hs
    | cons e l =>
      unfold State.tryPages
      refine ih ?_
      split
      · exact hs
      · split
        · exact (hs.translatePage.snd_of_eq ‹_›).push
        · exact (hs.translatePage.snd_of_eq ‹_›).accessFault
        · exact ((hs.translatePage.snd_of_eq ‹_›).foldl fun _ h => h.modLaneAcc.modUnit).passed

theorem MemCanonical.stallOwner (hs : MemCanonical s) {blk : Nat} {u : UnitRef} {x : OwnerStall} :
    MemCanonical (s.stallOwner blk u x) := by
  unfold State.stallOwner
  split
  · exact hs
  · exact hs.unless (·.modUnit.at)

theorem MemCanonical.tryScratch (hs : MemCanonical s) {t : Site} {b : Block} {lanes : List LaneAcc} :
    MemCanonical (s.tryScratch t b lanes) :=
  ((hs.count.foldl fun _ h => h.doScratch).stallOwner.foldl fun _ h => h.awaitEarlier).unless (·.push)

theorem MemCanonical.tryLanes (hs : MemCanonical s) {t : Site} {sel : LaneAcc → Bool} {full : Bool} :
    MemCanonical (s.tryLanes t sel full) := by
  unfold State.tryLanes
  split
  · exact hs
  · split
    · exact hs
    · split
      · exact (hs.record.snd_of_eq ‹_›).unless (·.consume)
      · exact (hs.record.snd_of_eq ‹_›).accessFault
      · have h1 := hs.record.snd_of_eq ‹_›
        split
        · exact (h1.modAccess.foldl fun _ h => h.modLaneAcc).accessFault.tryScratch
        · exact ((h1.modAccess.foldl fun _ h => h.modLaneAcc).accessFault.foldl fun _ h => h.modLaneAcc).passed.tryPages

theorem MemCanonical.startAccess (hs : MemCanonical s) {i : Iss} {a : Attr} {m : MemIss} {headPc : Nat} :
    MemCanonical (s.startAccess i a m headPc) := by
  unfold State.startAccess
  split
  · exact hs.takeFaults.unless fun h => (h.when (·.acquireAt)).fresh.modUnit.fillQueue.tryLanes
  · exact hs

/-! ## Fences, views and groups (07, 10, 11) -/

theorem MemCanonical.fenceAt (hs : MemCanonical s) {i : Iss} {scope : Nat} {acquire release : Bool} {sc : Option Nat}
    {drop : Option (Option Nat)} :
    MemCanonical (s.fenceAt i scope acquire release sc drop) :=
  ((hs.when (·.commit)).when (·.acquireAt)).when (·.shareC.fenceWait.passFences)

theorem MemCanonical.fence (hs : MemCanonical s) {fn : Nat} {p e : BitVec 4} : NextCanonical (s.fence fn p e) :=
  hs.issueStraight (fun _ h => h.fenceAt)

theorem MemCanonical.patchRecord (hs : MemCanonical s) {i : Iss} {t : BitVec 5} {v e : Nat} {x : Word} {hm : Home} {off : Nat} :
    MemCanonical (s.patchRecord i t v e x hm off) := by
  unfold State.patchRecord
  dsimp only
  split
  · exact hs.releaseLine
  · split
    · exact hs.releaseLine.consume
    · exact hs.releaseLine.write.clearResv.dropRecords.putS.markCommitted.commitSoon

theorem MemCanonical.recordFault (hs : MemCanonical s) {i : Iss} {cause acc va : Nat} :
    MemCanonical (s.recordFault i cause acc va) := hs.takeFault

theorem MemCanonical.execViewp (hs : MemCanonical s) {p : BitVec 4} {t sa x : BitVec 5} {e : BitVec 4} :
    NextCanonical (execViewp p t sa x e s) := by
  refine hs.issueStraight fun _ h => ?_
  dsimp only
  split
  · exact h.takeFault
  · split
    · exact (h.translate.snd_of_eq ‹_›).recordFault
    · exact (h.translate.snd_of_eq ‹_›).patchRecord

theorem MemCanonical.execViewq (hs : MemCanonical s) {p : BitVec 4} {t sa : BitVec 5} {e : BitVec 4} :
    NextCanonical (execViewq p t sa e s) := by
  unfold Machine.execViewq
  refine hs.issueStraight (fun _ h => ?_)
  split
  · exact (h.record.snd_of_eq ‹_›).putS
  · exact (h.record.snd_of_eq ‹_›).recordFault
  · exact (h.record.snd_of_eq ‹_›).consume

theorem MemCanonical.groupEnd (hs : MemCanonical s) {core regid : Nat} {r : Region} {fuel n pc : Nat} :
    MemCanonical (s.groupEnd core regid r fuel n pc).2.2 := by
  induction fuel generalizing s n pc with
  | zero => exact hs
  | succ fuel ih =>
    unfold State.groupEnd
    split
    · exact hs
    · split
      · exact ih (hs.fetch.snd_of_eq ‹_›)
      · exact hs.fetch.snd_of_eq ‹_›

theorem MemCanonical.beginGroup (hs : MemCanonical s) {i : Iss} {a : Attr} {grp : Grp} {gend limit : Nat} :
    MemCanonical (s.beginGroup i a grp gend limit) := by
  unfold State.beginGroup
  split
  · exact hs.takeFault
  · exact hs.takeFault
  · exact hs.takeFault
  · exact hs.takeFault
  · exact hs
  · exact hs.consume
  · split
    · exact hs.takeFault
    · exact hs.startAccess

theorem MemCanonical.skipGroup (hs : MemCanonical s) {i : Iss} {p : BitVec 4} {e : Nat} : NextCanonical (s.skipGroup i p e) := by
  unfold State.skipGroup
  dsimp only
  split
  · split
    · exact (hs.groupEnd.third_of_eq ‹_›).issueStraight (fun _ h => h)
    · have h1 := hs.groupEnd.third_of_eq ‹_›
      refine .next ?_
      split
      · exact h1.hold
      · exact h1.takeFault
    · have h1 := hs.groupEnd.third_of_eq ‹_›
      refine .next ?_
      split
      · exact h1.hold
      · exact h1.takeFault
    · exact (hs.groupEnd.third_of_eq ‹_›).hold.next
    · exact (hs.groupEnd.third_of_eq ‹_›).consume.next
  · exact hs.issueStraight (fun _ h => h)

theorem MemCanonical.execGbegin (hs : MemCanonical s) {p : BitVec 4} {x : BitVec 5} {e : BitVec 4} :
    NextCanonical (execGbegin p x e s) := by
  unfold Machine.execGbegin
  dsimp only
  split
  · exact trivial
  · split
    · split
      · exact hs.skipGroup
      · exact hs.issueStraight (fun _ h => h)
    · exact hs.fetchGroup.issueStraight (fun _ h => h.unless (·.beginGroup))

/-! ## Answers of the memory system (07, 11, 12) -/

theorem MemCanonical.execLoadResponse (hs : MemCanonical s) {id : Nat} : NextCanonical (execLoadResponse id s) := by
  unfold Machine.execLoadResponse
  split
  · exact hs.next
  · split
    · split
      · exact hs.next
      · split
        · exact (hs.raiseLtime.putResult.unless (·.commitSoon)).laneDone.next
        · refine .next ?_
          split
          · exact hs.push
          · exact hs.bindLoad
        · exact (hs.bindStore (fun _ h => h.doStore)).next
        · refine .next ?_
          split
          · exact hs.push
          · exact hs.bindStore (fun _ h => h.doMaint)
        · exact hs.next
    · exact hs.next

theorem MemCanonical.execAtomicCompletion (hs : MemCanonical s) {id : Nat} : NextCanonical (execAtomicCompletion id s) := by
  unfold Machine.execAtomicCompletion
  dsimp only
  split
  · exact hs.next
  · split
    · split
      · exact hs.next
      · split
        · exact hs.atomicDone.next
        · split
          · exact hs.awaitEarlier.push.next
          · split
            · exact hs.push.next
            · exact ((hs.unless (·.push)).unless (·.sendTo)).doAtomic.atomicDone.next
    · exact hs.next

theorem MemCanonical.reissue (hs : MemCanonical s) {t : Site} : MemCanonical (s.reissue t) := by
  unfold State.reissue
  split
  · exact hs
  · exact hs.modAccess.when (·.push)

theorem MemCanonical.execPageWalkDone (hs : MemCanonical s) {id page : Nat} : NextCanonical (execPageWalkDone id page s) := by
  unfold Machine.execPageWalkDone
  split
  · exact hs.next
  · exact hs.reissue.tryLanes.next

theorem MemCanonical.sunkLine (hs : MemCanonical s) {k : Sunk} {hm : Home} : MemCanonical (s.sunkLine k hm).2.2.2.2 := by
  unfold State.sunkLine
  dsimp only
  split
  · exact hs.setLlc
  · exact (hs.unless fun h => h.dramRead.when (·.dropFarCopy)).lease

theorem MemCanonical.sunkEffect (hs : MemCanonical s) {t : Site} {k : Sunk} {e : Effect} :
    MemCanonical (s.sunkEffect t k e).2 := by
  unfold State.sunkEffect
  dsimp only
  split
  · exact hs
  · split
    · exact hs.consume
    · exact hs.writeBelow.clearResv.markCommitted
  · split
    · exact hs.consume
    · exact hs.writeBelow.clearResv.markCommitted

theorem MemCanonical.runSunk (hs : MemCanonical s) {id : Nat} {k : Sunk} {t : Site} {b : Block} {r : Region} {x : LaneAcc}
    {hm : Home} {leaf : Leaf} :
    MemCanonical (s.runSunk id k t b r x hm leaf) := by
  unfold State.runSunk
  dsimp only
  split
  · exact hs.sunkLine.consume
  · split
    · exact (hs.sunkLine.runMembers.snd_of_eq ‹_›).consume
    · exact (hs.sunkLine.runMembers.snd_of_eq ‹_›).update.accessFault
    · have h1 := hs.sunkLine.runMembers.snd_of_eq ‹_›
      refine .push (.update ?_)
      split
      · exact h1.addEnergy
      · exact h1.addEnergy.sunkEffect

theorem MemCanonical.resink (hs : MemCanonical s) {k : Sunk} {t : Site} {b : Block} {r : Region} {hm : Home} :
    MemCanonical (s.resink k t b r hm) := hs.update.startGroup

theorem MemCanonical.execUmberGroupExecute (hs : MemCanonical s) {id : Nat} : NextCanonical (execUmberGroupExecute id s) := by
  unfold Machine.execUmberGroupExecute
  split
  · exact hs.next
  · split
    · exact hs.next
    · split
      · exact hs.push.next
      · split
        · exact hs.next
        · split
          · split
            · split
              · exact hs.resink.next
              · split
                · exact hs.push.next
                · split
                  · exact (hs.when (·.update)).push.next
                  · exact (hs.when (·.sendTo)).runSunk.next
            · exact hs.next
          · exact hs.next

theorem MemCanonical.sunkReturn (hs : MemCanonical s) {k : Sunk} {t : Site} {x : LaneAcc} {hm : Home} {regs : List (Nat × Word)} :
    MemCanonical (s.sunkReturn k t x hm regs) := by
  unfold State.sunkReturn
  refine .laneDone (.groupResults ?_)
  split
  · exact ((hs.raiseLtime.when (·.l1Drop)).unless (·.coreEffect)).coreEffect
  · exact (hs.raiseLtime.when (·.l1Drop)).unless (·.coreEffect)

theorem MemCanonical.execSinkGroupResponse (hs : MemCanonical s) {id : Nat} : NextCanonical (execSinkGroupResponse id s) := by
  unfold Machine.execSinkGroupResponse
  split
  · exact hs.next
  · split
    · split
      · split
        · refine .next ?_
          split
          · exact hs.update.holdBack.push
          · exact hs.update.sunkReturn
        · exact hs.next
      · exact hs.next
    · exact hs.next

theorem MemCanonical.execStoreAcknowledge (hs : MemCanonical s) {id : Nat} : NextCanonical (execStoreAcknowledge id s) := by
  unfold Machine.execStoreAcknowledge
  dsimp only
  split
  · exact hs.next
  · split
    · exact hs.push.next
    · refine .next (.askCompletion (.answerOwed (.passAllFences (.foldl ?_ (fun _ h => h.when (·.ladderSettle))))))
      split
      · refine .raiseLtime ?_
        split <;> exact hs.update
      · split <;> exact hs.update

theorem MemCanonical.sharerGone (hs : MemCanonical s) {die line id : Nat} : MemCanonical (s.sharerGone die line id) := by
  unfold State.sharerGone
  dsimp only
  split
  · exact hs.update.when (·.push)
  · exact hs.update

theorem MemCanonical.execDirectoryInvalidate (hs : MemCanonical s) {die line id : Nat} :
    NextCanonical (execDirectoryInvalidate die line id s) := by
  unfold Machine.execDirectoryInvalidate
  split
  · exact hs.next
  · split
    · exact (hs.unless (·.sharerGone)).next
    · split
      · split
        · exact hs.push.next
        · exact hs.dropFarCopy.sharerGone.next
      · split
        · exact hs.push.next
        · exact hs.sharerGone.next

theorem MemCanonical.execOwnerTimeoutExpiry (hs : MemCanonical s) {blk unit stamp : Nat} :
    NextCanonical (execOwnerTimeoutExpiry blk unit stamp s) := by
  unfold Machine.execOwnerTimeoutExpiry
  dsimp only
  split
  · split
    · exact hs.next
    · split
      · exact hs.modUnit.next
      · split
        · exact hs.modUnit.accessFault.next
        · exact hs.modUnit.takeFault.next
  · exact hs.next

theorem MemCanonical.execOrphanDetection (hs : MemCanonical s) {blk warp : Nat} :
    NextCanonical (execOrphanDetection blk warp s) := by
  unfold Machine.execOrphanDetection
  split
  · exact hs.next
  · split
    · exact hs.next
    · exact hs.takeFault.next

theorem MemCanonical.execTrailingLagTimeout (hs : MemCanonical s) {blk warp stamp : Nat} :
    NextCanonical (execTrailingLagTimeout blk warp stamp s) := by
  unfold Machine.execTrailingLagTimeout
  split
  · exact hs.next
  · split
    · exact hs.consume.next
    · exact hs.next

/-! ## Engine units (08) -/

theorem MemCanonical.postPage (hs : MemCanonical s) {die part va acc regid core : Nat} :
    MemCanonical (s.postPage die part va acc regid core) := by
  unfold State.postPage
  split
  · exact hs
  · exact hs.fresh.update.postFault

theorem MemCanonical.engFind (hs : MemCanonical s) {c : Cmd} {b : Block} {r : Region} {v : Record} {opnd srcn : Nat} {dest : Bool}
    {need : Need} {e : List ℤ} :
    MemCanonical (s.engFind c b r v opnd srcn dest need e).2 := by
  unfold State.engFind
  dsimp only
  split
  · exact hs
  · exact hs
  · split
    · (repeat' split) <;> exact hs
    · (repeat' split) <;> exact hs
    · split
      · exact hs
      · split
        · exact hs
        · split
          · have h1 := hs.translateEngine.snd_of_eq ‹_›
            (repeat' split) <;> exact h1
          · have h1 := hs.translateEngine.snd_of_eq ‹_›
            split
            · exact h1
            · split
              · exact h1
              · exact h1.postPage

theorem MemCanonical.engFetch (hs : MemCanonical s) {c : Cmd} {hm : Home} : MemCanonical (s.engFetch c hm) := by
  unfold State.engFetch
  split
  · exact hs.unless (·.dramRead.llcFill)
  · split
    · exact hs
    · exact hs.unless (·.sendTo.modCmd)

theorem MemCanonical.engReads (hs : MemCanonical s) {c : Cmd} {es : Nat} {a : ELoc} : MemCanonical (s.engReads c es a) := by
  unfold State.engReads
  split
  · exact hs.engFetch.readsFrom
  · exact hs

theorem MemCanonical.engFlaw (hs : MemCanonical s) {c : Cmd} {a : ELoc} : MemCanonical (s.engFlaw c a) := by
  unfold State.engFlaw
  split
  · exact hs.consume
  · exact hs.demandAt
  · exact hs

theorem MemCanonical.engGet (hs : MemCanonical s) {c : Cmd} {b : Block} {r : Region} {v : Record} {opnd srcn : Nat} {e : List ℤ} :
    MemCanonical (s.engGet c b r v opnd srcn e).2 := by
  unfold State.engGet
  split
  · exact hs.engFind.snd_of_eq ‹_›
  · exact hs.engFind.snd_of_eq ‹_›
  · have h1 := hs.engFind.snd_of_eq ‹_›
    split
    · exact h1.engReads
    · exact h1.engFlaw

theorem MemCanonical.engGets (hs : MemCanonical s) {c : Cmd} {b : Block} {r : Region} {v : Record} {opnd srcn : Nat}
    {l : List (List Int)} : MemCanonical (s.engGets c b r v opnd srcn l).2 := by
  induction l generalizing s with
  | nil => exact hs
  | cons e l ih =>
    unfold State.engGets
    split
    · exact hs.engGet.snd_of_eq ‹_›
    · exact hs.engGet.snd_of_eq ‹_›
    · have h1 := ih (hs.engGet.snd_of_eq ‹_›)
      split
      · exact h1.snd_of_eq ‹_›
      · exact h1

theorem MemCanonical.engLine (hs : MemCanonical s) {cmd : Nat} {c : Cmd} {least : Nat} {hm : Home} {mask : BitVec 128}
    {data : BitVec 1024} :
    MemCanonical (s.engLine cmd c least hm mask data) := hs.stampWrite.homeWrite.clearResv.modCmd

theorem MemCanonical.engLocal (hs : MemCanonical s) {c : Cmd} {b : Block} {bytes : List Byte} {a : ELoc} :
    MemCanonical (s.engLocal c b bytes a) := by
  unfold State.engLocal
  split
  · exact hs.modCore
  · exact hs.modDie
  · exact hs

theorem MemCanonical.sendFar (hs : MemCanonical s) {cmd unit : Nat} {homes : List Home} :
    MemCanonical (s.sendFar cmd unit homes) := by
  unfold State.sendFar
  split
  · exact hs
  · exact hs.foldl fun _ h => h.modCmd.sendTo.push

theorem MemCanonical.engWrite (hs : MemCanonical s) {cmd unit es : Nat} {b : Block} {l : List (ELoc × Nat)} {least : Nat} :
    MemCanonical (s.engWrite cmd unit es b l least) := by
  unfold State.engWrite
  refine .sendFar ?_
  refine .foldl ?_ (fun _ h => ?_)
  · refine hs.foldl fun _ h => ?_
    split
    · exact h.engLine
    · exact h
  · split
    · exact h.engLocal
    · exact h

theorem MemCanonical.engAdd (hs : MemCanonical s) {cmd : Nat} {f : Fmt} {b : Block} {e : ELoc × Nat} :
    MemCanonical (s.engAdd cmd f b e) := by
  unfold State.engAdd
  split
  · exact hs
  · split
    · exact hs.engLine
    · exact hs.engLocal

theorem MemCanonical.engPlace (hs : MemCanonical s) {c : Cmd} {b : Block} {r : Region} {v : Record} {opnd : Nat} {adds : Bool}
    {e : List ℤ} :
    MemCanonical (s.engPlace c b r v opnd adds e).2 := by
  unfold State.engPlace
  split
  · exact hs.engFind.snd_of_eq ‹_›
  · exact hs.engFind.snd_of_eq ‹_›
  · have h1 := hs.engFind.snd_of_eq ‹_›
    split
    · exact h1
    · split
      · exact h1.engFlaw
      · exact h1.engReads

theorem MemCanonical.engPlan (hs : MemCanonical s) {one : State → List Nat → Got (ELoc × Nat) × State}
    (hone : ∀ {t} x, MemCanonical t → MemCanonical (one t x).2) {l : List (List Nat)} :
    MemCanonical (s.engPlan one l).2 := by
  induction l generalizing s with
  | nil => exact hs
  | cons e l ih =>
    unfold State.engPlan
    split
    · exact (hone _ hs).snd_of_eq ‹_›
    · exact (hone _ hs).snd_of_eq ‹_›
    · have h1 := ih ((hone _ hs).snd_of_eq ‹_›)
      split
      · exact h1.snd_of_eq ‹_›
      · exact h1

theorem MemCanonical.engPair {c : Cmd} {b : Block} {r : Region} {v : Record} {adds : Bool} {dest : List Int} {x : Got Nat × State}
    (hx : MemCanonical x.2) : MemCanonical (engPair c b r v adds dest x).2 := by
  unfold Machine.engPair
  split
  · exact hx
  · exact hx
  · split <;> exact (MemCanonical.engPlace hx).snd_of_eq ‹_›

/-! ## Memory words (07) -/

theorem MemCanonical.memory (hs : MemCanonical s) {a : Attr} {c : BitVec 6} {rank : Nat} {m : MemIss} {pol : Option Nat}
    (ha : a.KeepsMemory := by exact fun _ h => h) :
    NextCanonical (s.memory a c rank m pol) := hs.issueStraight (fun _ h => h.startAccess) ha

theorem MemCanonical.load (hs : MemCanonical s) {maj fn w : Nat} {signed taint : Bool} {pol : Option Nat} {p : BitVec 4}
    {d c : BitVec 6} {v : BitVec 7} :
    NextCanonical (s.load maj fn w signed taint pol p d c v) := hs.memory

theorem MemCanonical.store (hs : MemCanonical s) {maj fn w n : Nat} {pol : Option Nat} {p : BitVec 4} {d c : BitVec 6}
    {v : BitVec 7} :
    NextCanonical (s.store maj fn w n pol p d c v) := hs.memory

theorem MemCanonical.noteOwner (hs : MemCanonical s) {i : Iss} {view : Option Nat} {lanes : List (Nat × Word × List Nat)} :
    MemCanonical (s.noteOwner i view lanes) := hs.stallOwner

theorem MemCanonical.scratch (hs : MemCanonical s) {a : Attr} {c : BitVec 6} {rank : Nat} {m : MemIss} :
    NextCanonical (s.scratch a c rank m) := hs.issueStraight (fun _ h => h.startAccess) (fun _ h => h.noteOwner)

theorem MemCanonical.lds (hs : MemCanonical s) {fn w dir : Nat} {p : BitVec 4} {d c : BitVec 6} {v : BitVec 7} :
    NextCanonical (s.lds fn w dir p d c v) := hs.scratch

theorem MemCanonical.sts (hs : MemCanonical s) {fn w n dir : Nat} {p : BitVec 4} {d c : BitVec 6} {v : BitVec 7} :
    NextCanonical (s.sts fn w n dir p d c v) := hs.scratch

theorem MemCanonical.atom (hs : MemCanonical s) {maj fn n : Nat} {op : MemOp} {p : BitVec 4} {d c : BitVec 6} {v : BitVec 7} :
    NextCanonical (s.atom maj fn n op p d c v) := hs.memory

theorem MemCanonical.red (hs : MemCanonical s) {fn : Nat} {op : AtomOp} {p : BitVec 4} {d c : BitVec 6} {v : BitVec 7} :
    NextCanonical (s.red fn op p d c v) := hs.memory

theorem MemCanonical.atoms (hs : MemCanonical s) {fn n : Nat} {op : AtomOp} {p : BitVec 4} {d c : BitVec 6} {v : BitVec 7} :
    NextCanonical (s.atoms fn n op p d c v) := hs.scratch

theorem MemCanonical.prefetch (hs : MemCanonical s) {i : Iss} {rec : Record} {v c : Nat} {llcOnly : Bool} {l : Nat} :
    MemCanonical (s.prefetch i rec v c llcOnly l) := by
  unfold State.prefetch
  split
  · split
    · split
      · exact hs.unless fun h => (h.dramRead.when (·.llcFill)).unless (·.loadLine)
      · exact hs
    · exact hs
  · exact hs

theorem MemCanonical.pref (hs : MemCanonical s) {fn : Nat} {llcOnly : Bool} {p : BitVec 4} {c : BitVec 6} {v : BitVec 7} :
    NextCanonical (s.pref fn llcOnly p c v) := by
  unfold State.pref
  refine hs.issueStraight (fun _ h => ?_)
  split
  · exact (h.record.snd_of_eq ‹_›).foldl fun _ h => h.prefetch
  · exact h.record.snd_of_eq ‹_›

theorem MemCanonical.maint (hs : MemCanonical s) {fn : Nat} {p : BitVec 4} {c : BitVec 6} {v : BitVec 7} :
    NextCanonical (s.maint fn p c v) := hs.memory

/-! ## Engine commands (08) -/

theorem MemCanonical.modArray (hs : MemCanonical s) {die n : Nat} {f : ArrayUnit → ArrayUnit} :
    MemCanonical (s.modArray die n f) := hs.modDie

theorem MemCanonical.redeGets (hs : MemCanonical s) {c : Cmd} {b : Block} {r : Region} {e : List Int} {l : List CmdView} :
    MemCanonical (s.redeGets c b r e l).2 := by
  induction l generalizing s with
  | nil => exact hs
  | cons v l ih =>
    unfold State.redeGets
    split
    · exact hs.engGet.snd_of_eq ‹_›
    · exact hs.engGet.snd_of_eq ‹_›
    · have h1 := ih (hs.engGet.snd_of_eq ‹_›)
      split
      · exact h1.snd_of_eq ‹_›
      · exact h1

theorem MemCanonical.boxValue (hs : MemCanonical s) {c : Cmd} {b : Block} {r : Region} {i : List Nat} :
    MemCanonical (s.boxValue c b r i).2 := by
  unfold State.boxValue
  split
  · split
    · exact hs.engGet.snd_of_eq ‹_›
    · exact hs.engGet.snd_of_eq ‹_›
    · have h1 := hs.engGet.snd_of_eq ‹_›
      split
      · exact h1.engGet.snd_of_eq ‹_›
      · exact h1.engGet
  · dsimp only
    split <;> exact hs
  · split <;> exact hs.redeGets.snd_of_eq ‹_›
  · exact hs.engGet

/-- One element of a box: its value, then its place. -/
theorem MemCanonical.boxElem (hs : MemCanonical s) {c : Cmd} {b : Block} {r : Region} {v : Record} {adds : Bool} {dest : List Int}
    {i : List Nat} : MemCanonical (Machine.engPair c b r v adds dest (s.boxValue c b r i)).2 := .engPair hs.boxValue

theorem MemCanonical.boxUnit (hs : MemCanonical s) {cmd : Nat} {c : Cmd} {b : Block} {r : Region} :
    MemCanonical (s.boxUnit cmd c b r).2 := by
  unfold State.boxUnit
  dsimp only
  split
  · exact hs
  · split
    · exact (hs.engPlan fun _ h => h.boxElem).snd_of_eq ‹_›
    · exact (hs.engPlan fun _ h => h.boxElem).snd_of_eq ‹_›
    · have h1 := (hs.engPlan fun _ h => h.boxElem).snd_of_eq ‹_›
      dsimp only
      split
      · refine .sendFar (h1.addEnergy.foldl fun _ h => ?_)
        split
        · exact (h.boxElem.snd_of_eq ‹_›).engAdd
        · exact h.boxElem.snd_of_eq ‹_›
      · exact h1.addEnergy.engWrite

theorem MemCanonical.csldUnit (hs : MemCanonical s) {c : Cmd} {b : Block} {r : Region} : MemCanonical (s.csldUnit c b r).2 := by
  unfold State.csldUnit
  dsimp only
  split
  · exact hs.engGets.snd_of_eq ‹_›
  · exact hs.engGets.snd_of_eq ‹_›
  · have h1 := hs.engGets.snd_of_eq ‹_›
    split
    · exact h1.engGets.snd_of_eq ‹_›
    · exact h1.engGets.snd_of_eq ‹_›
    · exact (h1.engGets.snd_of_eq ‹_›).addEnergy.modDie

theorem MemCanonical.mmrunUnit (hs : MemCanonical s) {c : Cmd} {b : Block} {r : Region} : MemCanonical (s.mmrunUnit c b r).2 := by
  unfold State.mmrunUnit
  dsimp only
  split
  · exact hs.modArray
  · split
    · exact hs
    · split
      · exact hs
      · split
        · exact hs.engGets.snd_of_eq ‹_›
        · exact hs.engGets.snd_of_eq ‹_›
        · have h1 := hs.engGets.snd_of_eq ‹_›
          split
          · exact (MemCanonical.ite_snd h1.engGet h1).snd_of_eq ‹_›
          · exact (MemCanonical.ite_snd h1.engGet h1).snd_of_eq ‹_›
          · exact ((MemCanonical.ite_snd h1.engGet h1).snd_of_eq ‹_›).addEnergy.modArray

theorem MemCanonical.deliver (hs : MemCanonical s) {d : TokenDest} {tok : Nat} {x : Word} {t : Nat} :
    MemCanonical (s.deliver d tok x t) := hs.modBlock.modUnit

theorem MemCanonical.endCmd (hs : MemCanonical s) {cmd : Nat} : MemCanonical (s.endCmd cmd) := by
  unfold State.endCmd
  dsimp only
  split
  · exact hs
  · split
    · refine .pushOnce (.askCompletion (.deliver (.update ?_)))
      split
      · exact hs
      · exact (hs.when (·.modCore)).foldl fun _ h => h.modCore
    · refine .askCompletion (.deliver (.update ?_))
      split
      · exact hs
      · exact (hs.when (·.modCore)).foldl fun _ h => h.modCore

theorem MemCanonical.finishCmd (hs : MemCanonical s) {cmd status : Nat} {d : Defect} : MemCanonical (s.finishCmd cmd status d) :=
  hs.modCmd.push

theorem MemCanonical.redeFlag (hs : MemCanonical s) {cmd : Nat} {c : Cmd} {b : Block} {r : Region} :
    MemCanonical (s.redeFlag cmd c b r) := by
  unfold State.redeFlag
  dsimp only
  split
  · exact (hs.engPlace.snd_of_eq ‹_›).finishCmd
  · have h1 := hs.engPlace.snd_of_eq ‹_›
    split
    · exact h1.pushOnce
    · exact h1.modCmd
  · exact (hs.engPlace.snd_of_eq ‹_›).engWrite.modCmd.finishCmd

theorem MemCanonical.nextUnit (hs : MemCanonical s) {cmd : Nat} {c : Cmd} {b : Block} {r : Region} :
    MemCanonical (s.nextUnit cmd c b r) := by
  unfold State.nextUnit
  dsimp only
  have hres : MemCanonical (match c.op with
      | .csld => (s.modCmd cmd fun c => { c with fetched := [] }).csldUnit c b r
      | .mmrun => (s.modCmd cmd fun c => { c with fetched := [] }).mmrunUnit c b r
      | _ => (s.modCmd cmd fun c => { c with fetched := [] }).boxUnit cmd c b r).2 := by
    split
    · exact hs.modCmd.csldUnit
    · exact hs.modCmd.mmrunUnit
    · exact hs.modCmd.boxUnit
  split
  · exact ((hres.snd_of_eq ‹_›).when (·.modCmd)).finishCmd
  · exact (hres.snd_of_eq ‹_›).pushOnce.ite (hres.snd_of_eq ‹_›).modCmd
  · exact (hres.snd_of_eq ‹_›).modCmd.pushOnce

theorem MemCanonical.captureView (hs : MemCanonical s) {c : Cmd} {r : Region} {v : CmdView} :
    MemCanonical (s.captureView c r v).2 := by
  unfold State.captureView
  split
  · exact hs.record.snd_of_eq ‹_›
  · exact hs.record.snd_of_eq ‹_›
  · have h1 := hs.record.snd_of_eq ‹_›
    split
    · exact h1
    · exact h1.postPage

theorem MemCanonical.captureViews (hs : MemCanonical s) {c : Cmd} {r : Region} {l : List CmdView} :
    MemCanonical (s.captureViews c r l).2 := by
  induction l generalizing s c with
  | nil => exact hs
  | cons v l ih =>
    unfold State.captureViews
    split <;> exact ih (hs.captureView.snd_of_eq ‹_›)

theorem MemCanonical.resolveViews (hs : MemCanonical s) {c : Cmd} {r : Region} : MemCanonical (s.resolveViews c r).2 := by
  unfold State.resolveViews
  split
  · refine .foldlOn (π := Prod.snd) hs fun _ h => ?_
    split <;> exact (MemCanonical.record h).snd_of_eq ‹_›
  · exact hs.captureViews

theorem MemCanonical.beginCmd (hs : MemCanonical s) {cmd : Nat} {c : Cmd} {r : Region} : MemCanonical (s.beginCmd cmd c r) := by
  unfold State.beginCmd
  dsimp only
  split
  · exact hs.modCmd.finishCmd
  · split
    · exact hs.update.modArray.push
    · exact hs.update.pushOnce

theorem MemCanonical.startCmd (hs : MemCanonical s) {cmd : Nat} {c : Cmd} {r : Region} : MemCanonical (s.startCmd cmd c r) := by
  unfold State.startCmd
  dsimp only
  split
  · exact hs.beginCmd
  · split
    · exact hs.modCmd
    · split
      · exact hs.resolveViews.update.pushOnce
      · exact hs.resolveViews.update.beginCmd

theorem MemCanonical.execEngineUnit (hs : MemCanonical s) {cmd : Nat} : NextCanonical (execEngineUnit cmd s) := by
  unfold Machine.execEngineUnit
  split
  · exact hs.next
  · split
    · exact hs.next
    · split
      · split
        · exact hs.startCmd.next
        · split
          · exact hs.next
          · split
            · split
              · refine .next ?_
                split
                · exact hs.redeFlag
                · exact hs.pushOnce
              · exact hs.finishCmd.next
            · split
              · exact hs.next
              · exact hs.nextUnit.next
        · exact hs.next
      · exact hs.next

theorem MemCanonical.execMmldBankValid (hs : MemCanonical s) {cmd : Nat} : NextCanonical (execMmldBankValid cmd s) := by
  unfold Machine.execMmldBankValid
  dsimp only
  split
  · exact hs.next
  · split
    · exact hs.next
    · split
      · exact hs.modCmd.finishCmd.next
      · exact hs.modArray.modCmd.finishCmd.next

theorem MemCanonical.execEngineCommandEnd (hs : MemCanonical s) {cmd : Nat} : NextCanonical (execEngineCommandEnd cmd s) := by
  unfold Machine.execEngineCommandEnd
  split
  · exact hs.next
  · split
    · exact hs.next
    · split
      · exact hs.push.next
      · exact hs.endCmd.next

theorem MemCanonical.answerCmd (hs : MemCanonical s) {req : Nat} {granted : Bool} {cmd : Nat} {c : Cmd} :
    MemCanonical (s.answerCmd req granted cmd c) := by
  unfold State.answerCmd
  split
  · exact hs.modCmd.pushOnce
  · split
    · exact hs
    · split
      · exact hs.modCmd.pushOnce
      · exact hs.finishCmd

theorem MemCanonical.execEnginePageAnswer (hs : MemCanonical s) {req : Nat} {granted : Bool} :
    NextCanonical (execEnginePageAnswer req granted s) := by
  unfold Machine.execEnginePageAnswer
  split
  · exact hs.next
  · exact (hs.update.foldl fun _ h => h.answerCmd).next

theorem MemCanonical.execFabricCompletionReceive (hs : MemCanonical s) {cmd unit dev : Nat} :
    NextCanonical (execFabricCompletionReceive cmd unit dev s) := by
  unfold Machine.execFabricCompletionReceive
  dsimp only
  split
  · exact hs.next
  · split
    · exact hs.next
    · split
      · exact hs.push.next
      · exact hs.modCmd.pushOnce.next

theorem MemCanonical.capture (hs : MemCanonical s) {i : Iss} {op : CmdOp} {t sa : BitVec 5} {resume : Nat} :
    MemCanonical (s.capture i op t sa resume) := by
  unfold State.capture
  split
  · exact hs.faultAct
  · split
    · exact hs.consume
    · exact hs.fresh.resolveViews.update.putS.modUnit.markCommitted.commitSoon.pushOnce

theorem MemCanonical.engine (hs : MemCanonical s) {maj fn : Nat} {op : CmdOp} {p : BitVec 4} {t sa x : BitVec 5} {r : BitVec 1} :
    NextCanonical (s.engine maj fn op p t sa x r) :=
  hs.issueStraight (fun _ h => h.capture) (fun _ h => h.releaseFirst.ite (h.when (·.noteOwner)))

theorem MemCanonical.setTiles (hs : MemCanonical s) {i : Iss} {sa x : BitVec 5} {eng : Bool} :
    MemCanonical (s.setTiles i sa x eng) := by
  unfold State.setTiles
  split
  · exact hs.faultAct
  · exact hs.foldl fun _ h => h.modCore

/-! ## Stops (15 R362 to R364) -/

theorem MemCanonical.reportStops (hs : MemCanonical s) : MemCanonical s.reportStops := hs.unless (·.update)

/-! ## Recovery of blocks (12 R277, R283 to R286) -/

theorem MemCanonical.abortCmds (hs : MemCanonical s) {blk : Nat} : MemCanonical (s.abortCmds blk) :=
  hs.foldl fun _ h => (h.unless (·.modCmd)).endCmd

theorem MemCanonical.freeBanks (hs : MemCanonical s) {core blk : Nat} : MemCanonical (s.freeBanks core blk) := hs.modCore

theorem MemCanonical.dropPending (hs : MemCanonical s) {blk : Nat} : MemCanonical (s.dropPending blk) := hs.update

theorem MemCanonical.killBlock (hs : MemCanonical s) {blk status : Nat} {fate : Fate} :
    MemCanonical (s.killBlock blk status fate) := by
  unfold State.killBlock
  split
  · exact hs
  · exact hs.unless (·.modBlock.abortCmds.loseItems.dropPending.modBlock.freeBanks.push)

theorem MemCanonical.leaveRecords (hs : MemCanonical s) {core regid : Nat} : MemCanonical (s.leaveRecords core regid) :=
  hs.unless (·.dropRecords)

theorem MemCanonical.dropSubmissions (hs : MemCanonical s) {blk : Nat} : MemCanonical (s.dropSubmissions blk) := hs.update

theorem MemCanonical.unbind (hs : MemCanonical s) {blk : Nat} {b : Block} {ctx : Machine.Ctx} {status : BitVec 8} :
    MemCanonical (s.unbind blk b ctx status) := by
  unfold State.unbind
  split
  · exact hs.update.dropPending.dropSubmissions.freeBanks.modBlock.leaveRecords.modRegion.modRegion
  · exact hs.update.dropPending.dropSubmissions.freeBanks.modBlock.leaveRecords.modRegion

theorem MemCanonical.relaunchPlain (hs : MemCanonical s) {blk : Nat} {b : Block} : MemCanonical (s.relaunchPlain blk b) :=
  hs.unbind

theorem MemCanonical.rollback (hs : MemCanonical s) {blk : Nat} {b : Block} {hm : SnapHalf} :
    MemCanonical (s.rollback blk b hm) := hs.abortCmds.unbind.modBlock

/-! ## Regions (13 R302 to R311) -/

theorem MemCanonical.recordWrite (hs : MemCanonical s) {die part regid rec' va : Nat} {bytes : List Byte} :
    MemCanonical (s.recordWrite die part regid rec' va bytes) := by
  unfold State.recordWrite
  split
  · exact (hs.translateEngine.snd_of_eq ‹_›).unitWrite
  · exact (hs.translateEngine.snd_of_eq ‹_›).post

theorem MemCanonical.recordAdd (hs : MemCanonical s) {die part regid rec' va x : Nat} :
    MemCanonical (s.recordAdd die part regid rec' va x) := by
  unfold State.recordAdd
  split
  · exact hs
  · split
    · exact (hs.translateEngine.snd_of_eq ‹_›).unitWrite
    · exact (hs.translateEngine.snd_of_eq ‹_›).post

theorem MemCanonical.rcbWrite (hs : MemCanonical s) {die part regid va : Nat} {phys : Bool} {bytes : List Byte} :
    MemCanonical (s.rcbWrite die part regid va phys bytes) := by
  unfold State.rcbWrite
  split
  · exact hs.unitWrite
  · exact hs.recordWrite

theorem MemCanonical.setRegionState (hs : MemCanonical s) {n x : Nat} : MemCanonical (s.setRegionState n x) := by
  unfold State.setRegionState
  split
  · exact hs
  · exact hs.modRegion.rcbWrite

theorem MemCanonical.writable (hs : MemCanonical s) {die part va : Nat} : MemCanonical (s.writable die part va).2 := by
  unfold State.writable
  split <;> exact hs.translateEngine.snd_of_eq ‹_›

theorem MemCanonical.judgeRcb (hs : MemCanonical s) {die part va : Nat} {phys : Bool} {parent : Option Nat} {x : Rcb}
    {token : Option TokenDest} {detach : Bool} : MemCanonical (s.judgeRcb die part va phys parent x token detach).2 := by
  unfold State.judgeRcb
  refine .ite_snd hs ?_
  dsimp only
  refine .ite_snd (.rcbWrite ?_) (.at (.unless (.modDie (.rcbWrite (.update (.fresh ?_)))) fun h => h.at))
  all_goals exact .ite_snd hs.writable hs.writable.writable

theorem MemCanonical.launch (hs : MemCanonical s) {die part va : Nat} {parent : Option Nat} {token : Option TokenDest}
    {detach : Bool} :
    MemCanonical (s.launch die part va parent token detach).2 := by
  unfold State.launch
  split
  · exact hs.translateEngine.snd_of_eq ‹_›
  · have h1 := hs.translateEngine.snd_of_eq ‹_›
    split
    · exact h1.post
    · exact h1.judgeRcb

theorem MemCanonical.rootLaunch (hs : MemCanonical s) {die part pa : Nat} : MemCanonical (s.rootLaunch die part pa) := by
  unfold State.rootLaunch
  dsimp only
  split
  · exact hs.post
  · exact hs.judgeRcb

theorem MemCanonical.flushTime (hs : MemCanonical s) {n : Nat} : MemCanonical (s.flushTime n) := by
  unfold State.flushTime
  split
  · exact hs
  · exact hs.recordAdd.recordAdd.modRegion

theorem MemCanonical.flushRecord (hs : MemCanonical s) {n : Nat} : MemCanonical (s.flushRecord n) := by
  unfold State.flushRecord
  split
  · exact hs
  · exact hs.foldl fun _ h => h.flushTime

theorem MemCanonical.completeRegion (hs : MemCanonical s) {n : Nat} {r : Region} {aborted : Bool} :
    MemCanonical (s.completeRegion n r aborted) := by
  unfold State.completeRegion
  dsimp only
  split
  · exact (hs.modRegion.flushRecord.unless (·.recordWrite)).setRegionState.modDie.deliver
  · exact (hs.modRegion.flushRecord.unless (·.recordWrite)).setRegionState.modDie

theorem MemCanonical.dropBinds (hs : MemCanonical s) {n : Nat} : MemCanonical (s.dropBinds n) := hs.update

theorem MemCanonical.regionCheck (hs : MemCanonical s) {n : Nat} {aborted : Bool} : MemCanonical (s.regionCheck n aborted) := by
  unfold State.regionCheck
  split
  · exact hs
  · split
    · exact hs
    · split
      · exact hs.completeRegion
      · exact hs.unless (·.completeRegion)

theorem MemCanonical.dropUnbound (hs : MemCanonical s) {blk : Nat} {b : Block} : MemCanonical (s.dropUnbound blk b) := by
  unfold State.dropUnbound
  split
  · exact hs.loseItems.update
  · exact hs.loseItems.update.modLadder.ladderSettle

theorem MemCanonical.abortRegion (hs : MemCanonical s) {fuel n : Nat} : MemCanonical (s.abortRegion fuel n) := by
  induction fuel generalizing s n with
  | zero => exact hs
  | succ fuel ih =>
    unfold State.abortRegion
    split
    · exact hs
    · exact hs.unless fun h => ((((h.modRegion.when (·.abortLadders)).dropBinds.foldl fun _ h =>
        h.dropUnbound.ite h.killBlock).foldl fun _ h => ih h)).regionCheck

theorem MemCanonical.abort (hs : MemCanonical s) {n : Nat} : MemCanonical (s.abort n) := hs.abortRegion

/-! ## Placement and binding (13) -/

theorem MemCanonical.ringPump (hs : MemCanonical s) {core : Nat} : MemCanonical (s.ringPump core) := by
  unfold State.ringPump
  split
  · exact hs
  · exact hs.unless (·.push)

theorem MemCanonical.pumpRings (hs : MemCanonical s) {p : Bind → Bool} : MemCanonical (s.pumpRings p) :=
  hs.foldl fun _ h => h.foldl fun _ h => h.when (·.ringPump)

theorem MemCanonical.writeBind (hs : MemCanonical s) {core : Nat} {r : Bind} : MemCanonical (s.writeBind core r) :=
  hs.setRing.ringPump

theorem MemCanonical.rebindRung (hs : MemCanonical s) {blk : Nat} {b : Block} {lid k : Nat} :
    MemCanonical (s.rebindRung blk b lid k) := by
  unfold State.rebindRung
  dsimp only
  split
  · split
    · exact hs
    · exact hs.modBlock.writeBind
  · exact hs

theorem MemCanonical.rebindRungs (hs : MemCanonical s) : MemCanonical s.rebindRungs := by
  unfold State.rebindRungs
  refine hs.foldl fun _ h => ?_
  split
  · exact h.unless (·.rebindRung)
  · exact h

theorem MemCanonical.villek (hs : MemCanonical s) : MemCanonical s.villek := by
  unfold State.villek
  extract_lets rebound ranked placed switched
  have hplaced : MemCanonical placed := by
    dsimp only [placed]
    split
    · exact hs.rebindRungs.unless (·.push)
    · exact hs.rebindRungs
  have hswitched : MemCanonical switched := by
    dsimp only [switched]
    split
    · split
      · exact hplaced.ite hplaced.push
      · exact hplaced.writeBind
      · exact hplaced
    · exact hplaced
  split
  · exact hswitched.writeBind
  · exact hswitched

theorem MemCanonical.execVillekPlacement (hs : MemCanonical s) {die region core tile0 wslot0 snap : Nat} :
    NextCanonical (execVillekPlacement die region core tile0 wslot0 snap s) := by
  unfold Machine.execVillekPlacement
  dsimp only
  split
  · exact hs.next
  · split
    · exact hs.villek.next
    · exact (hs.modRegion.writeBind.when (·.writeBind)).villek.next

theorem MemCanonical.execPriorityAgeing (hs : MemCanonical s) {region : Nat} : NextCanonical (execPriorityAgeing region s) := by
  unfold Machine.execPriorityAgeing
  dsimp only
  split
  · exact hs.next
  · split
    · exact hs.next
    · exact hs.modRegion.at.villek.next

theorem MemCanonical.popRing (hs : MemCanonical s) {core : Nat} : MemCanonical (s.popRing core) := hs.setRing

theorem MemCanonical.skipRecord (hs : MemCanonical s) {core : Nat} : MemCanonical (s.skipRecord core) := hs.popRing.pumpRings

theorem MemCanonical.bindOver (hs : MemCanonical s) {b : Block} : MemCanonical (s.bindOver b) := by
  unfold State.bindOver
  split
  · exact hs.when (·.popRing)
  · exact hs

theorem MemCanonical.fillWindow (hs : MemCanonical s) {core tile0 ntile : Nat} {win : Table Byte} {owners : BitVec 128} :
    MemCanonical (s.fillWindow core tile0 ntile win owners) := hs.modCore

theorem MemCanonical.startBind (hs : MemCanonical s) {blk : Nat} {r : Bind} : MemCanonical (s.startBind blk r) := by
  unfold State.startBind
  refine .at (.pumpRings (.at (.modRegion ?_)))
  split
  · refine .dropFetched ?_
    split
    · exact hs.when (·.setRegionState.at)
    · exact hs
  · split
    · exact hs.when (·.setRegionState.at)
    · exact hs

theorem MemCanonical.bindFresh (hs : MemCanonical s) {core : Nat} {r : Bind} {ctx : Machine.Ctx} {rung : Option (Nat × Nat)} :
    MemCanonical (s.bindFresh core r ctx rung) := by
  unfold State.bindFresh
  refine .startBind (.fillWindow (.setBlock (.update ?_)))
  split
  · exact hs
  · exact hs.fresh

/-- A ring's head record that is rejected leaves the ring. -/
theorem MemCanonical.rejected (hs : MemCanonical s) {core kind : Nat} (hhead : s.head core kind = .rejected t) :
    MemCanonical t := by
  unfold State.head at hhead
  split at hhead
  · cases hhead
  · split at hhead
    · cases hhead
    · split at hhead
      · cases hhead
      · split at hhead
        · cases hhead
          exact hs.popRing.modDie.pumpRings
        · split at hhead <;> cases hhead

theorem MemCanonical.execBindBlock (hs : MemCanonical s) {die core : Nat} : NextCanonical (execBindBlock die core s) := by
  unfold Machine.execBindBlock
  dsimp only
  split
  · exact hs
  · exact hs
  · exact hs.rejected ‹_›
  · split
    · exact hs.skipRecord
    · split
      · exact hs.skipRecord
      · exact hs.bindFresh

theorem MemCanonical.execBindRungWarp (hs : MemCanonical s) {die core : Nat} : NextCanonical (execBindRungWarp die core s) := by
  unfold Machine.execBindRungWarp
  dsimp only
  split
  · exact hs
  · exact hs
  · exact hs.rejected ‹_›
  · split
    · split
      · exact hs.modLadder.bindFresh
      · exact hs.skipRecord
    · exact hs.skipRecord

theorem MemCanonical.bindAgain (hs : MemCanonical s) {core : Nat} {r : Bind} {blk : Nat} {check : Bool} :
    MemCanonical (s.bindAgain core r blk check) := by
  unfold State.bindAgain
  dsimp only
  split
  · refine .startBind (.fillWindow (.modBlock ?_))
    split
    · exact hs.unless (·.enterCore)
    · exact hs
  · refine .modBlock ?_
    split
    · exact hs.unless (·.enterCore)
    · exact hs

theorem MemCanonical.execBindResumeSnapshot (hs : MemCanonical s) {die core : Nat} :
    NextCanonical (execBindResumeSnapshot die core s) := by
  unfold Machine.execBindResumeSnapshot
  dsimp only
  split
  · exact hs
  · exact hs
  · exact hs.rejected ‹_›
  · split
    · exact hs.bindAgain
    · exact hs.skipRecord

theorem MemCanonical.resumeForwarded (hs : MemCanonical s) {blk : Nat} {u : UnitRef} :
    MemCanonical (s.resumeForwarded blk u) := by
  unfold State.resumeForwarded
  split
  · exact hs
  · exact hs.resumeLanes.askHandler

theorem MemCanonical.setMode (hs : MemCanonical s) {blk : Nat} : MemCanonical (s.setMode blk) := by
  unfold State.setMode
  split
  · exact hs
  · split
    · exact hs
    · exact hs.modBlock

theorem MemCanonical.retryHeld (hs : MemCanonical s) {blk : Nat} : MemCanonical (s.retryHeld blk) := by
  unfold State.retryHeld
  split
  · exact hs
  · exact hs.foldl fun _ h => h.push

theorem MemCanonical.execDispatchStart (hs : MemCanonical s) {blk : Nat} : NextCanonical (execDispatchStart blk s) := by
  unfold Machine.execDispatchStart
  split
  · exact hs.next
  · split
    · exact hs.next
    · exact (hs.bindOver.modBlock.at.setMode.retryHeld.foldl fun _ h => h.resumeForwarded).passFences.askCompletion.ringPump.next

theorem MemCanonical.blockRecord (hs : MemCanonical s) {b : Block} {r : Region} {fate : Nat} :
    MemCanonical (s.blockRecord b r fate) := hs.when (·.recordWrite)

theorem MemCanonical.blockEnd (hs : MemCanonical s) {blk : Nat} {b : Block} : MemCanonical (s.blockEnd blk b) := by
  unfold State.blockEnd
  split
  · exact hs
  · refine .villek (.regionCheck (.pumpLadders (.pumpCluster (.ringPump ?_))))
    split
    · refine .leaveRecords (.update ?_)
      exact hs.blockRecord.modRegion.flushRecord.dropPending.freeBanks.when (·.bindOver)
    · refine .ladderSettle (.modLadder (.leaveRecords (.update ?_)))
      exact hs.blockRecord.modRegion.flushRecord.dropPending.freeBanks.when (·.bindOver)

theorem MemCanonical.loseRecord (hs : MemCanonical s) {core : Nat} {r : Bind} : MemCanonical (s.loseRecord core r) := by
  unfold State.loseRecord
  split
  · exact hs.killBlock
  · exact hs.unless fun h => h.modRegion.foldl fun _ h => h.when fun h => h.foldl fun _ h => h.modLadder.foldl fun _ h => h.loseItem

theorem MemCanonical.loseOn (hs : MemCanonical s) {p : Nat} {mine : Region → Bool} {kids : List Nat} :
    MemCanonical (s.loseOn p mine kids) := by
  unfold State.loseOn
  refine .pumpRings (.foldl ?_ (fun _ h => h.regionCheck))
  refine (((hs.foldl fun _ h => h.killBlock).foldl fun _ h => h.loseRecord).modDie.foldl fun _ h => h.abort).foldl fun _ h => ?_
  split
  · exact h.blockEnd
  · exact h

theorem MemCanonical.execBlockCompletion (hs : MemCanonical s) {blk : Nat} : NextCanonical (execBlockCompletion blk s) := by
  unfold Machine.execBlockCompletion
  split
  · exact hs.next
  · split
    · exact hs.next
    · split
      · split
        · exact hs.modBlock.commit.askCompletion.next
        · split
          · exact hs.next
          · split
            · exact hs.blockEnd.next
            · exact hs.next
      · exact hs.blockEnd.next

theorem MemCanonical.execLimitCheck (hs : MemCanonical s) {die : Nat} : NextCanonical (execLimitCheck die s) := by
  unfold Machine.execLimitCheck
  dsimp only
  split
  · exact hs.next
  · exact (hs.at.unless fun h => (h.foldl fun _ h => h.abort).pumpRings.villek).next

theorem MemCanonical.execExecTimeCharge (hs : MemCanonical s) {region : Nat} : NextCanonical (execExecTimeCharge region s) := by
  unfold Machine.execExecTimeCharge
  split
  · exact hs.next
  · split
    · exact hs.next
    · exact hs.flushRecord.at.next

theorem MemCanonical.execResidenceEnergyCharge (hs : MemCanonical s) {blk : Nat} :
    NextCanonical (execResidenceEnergyCharge blk s) := by
  unfold Machine.execResidenceEnergyCharge
  split
  · exact hs.next
  · split
    · exact hs.next
    · exact (hs.unless (·.addEnergy)).at.next

theorem MemCanonical.execRootLaunch (hs : MemCanonical s) {die : Nat} : NextCanonical (execRootLaunch die s) := by
  unfold Machine.execRootLaunch
  split
  · exact hs.next
  · split
    · exact hs.next
    · exact hs.modDie.rootLaunch.villek.next

theorem MemCanonical.recover (hs : MemCanonical s) {blk : Nat} : MemCanonical (s.recover blk) := by
  unfold State.recover
  split
  · exact hs
  · split
    · refine .ite (.ite ?spent ?again) (.ite ?committed ?plain)
      case spent => exact (hs.post.ite hs.post).modBlock.killBlock.post
      case again =>
        split
        · exact (hs.post.ite hs.post).modBlock.killBlock.post.ite
            (hs.post.ite hs.post).modBlock.rollback.villek.ringPump.pumpCluster.post
        · exact (hs.post.ite hs.post).modBlock.relaunchPlain.modBlock.villek.ringPump.pumpCluster.post
      case committed => exact (hs.post.ite hs.post).modBlock.killBlock.post
      case plain => exact (hs.post.ite hs.post).modBlock.relaunchPlain.villek.ringPump.pumpCluster.post
    · exact hs

/-! ## Faults, preemption and migration (14 R335 to R347) -/

theorem MemCanonical.execHandlerEntry (hs : MemCanonical s) {blk unit : Nat} : NextCanonical (execHandlerEntry blk unit s) := by
  unfold Machine.execHandlerEntry
  split
  · split
    · exact hs.next
    · split
      · exact hs.enterHandler.next
      · exact hs.push.next
  · exact hs.next

theorem MemCanonical.dropWaiting (hs : MemCanonical s) {k : Nat} : MemCanonical (s.dropWaiting k) := hs.update

theorem MemCanonical.answer (hs : MemCanonical s) {die : Nat} {kill : Bool} {again : Instr}
    {f : State → BitVec 64 → Nat → Waiting → State}
    (hf : ∀ {t} x1 x2 x3, MemCanonical t → MemCanonical (f t x1 x2 x3)) :
    MemCanonical (s.answer die kill again f) := by
  unfold State.answer
  dsimp only
  split
  · exact hs
  · split
    · exact hs.push
    · split
      · exact hs.modDie
      · split
        · exact hs.modDie.push
        · exact hf _ _ _ hs.modDie

theorem MemCanonical.resumeParked (hs : MemCanonical s) {blk : Nat} {u : UnitRef} {lanes : Word} :
    MemCanonical (s.resumeParked blk u lanes) := by
  unfold State.resumeParked
  split
  · exact hs.resumeLanes
  · exact hs

theorem MemCanonical.execFaultResumeAnswer (hs : MemCanonical s) {die : Nat} : NextCanonical (execFaultResumeAnswer die s) := by
  unfold Machine.execFaultResumeAnswer
  refine .next ?_
  refine hs.answer (fun _ _ _ h => ?_)
  split
  · exact h.dropWaiting
  · split
    · exact h.update
    · exact h.dropWaiting.resumeParked

theorem MemCanonical.execInvalidationCommand (hs : MemCanonical s) {die : Nat} :
    NextCanonical (execInvalidationCommand die s) := by
  unfold Machine.execInvalidationCommand
  dsimp only
  split
  · exact hs.next
  · split
    · exact hs.update.modDie.next
    · split
      · exact hs.dropLeaves.push.next
      · exact hs.dropLeaves.modDie.next

theorem MemCanonical.execCodePageHashDone (hs : MemCanonical s) {die region page : Nat} :
    NextCanonical (execCodePageHashDone die region page s) := by
  unfold Machine.execCodePageHashDone
  dsimp only
  split
  · exact hs.modDie.next
  · split
    · split
      · split
        · exact hs.modDie.next
        · exact (hs.modDie.unitWrite.unless (·.poisonObject)).next
      · exact hs.modDie.next
    · exact hs.modDie.next

theorem MemCanonical.moveLoc (hs : MemCanonical s) {core : Nat} {old : List Loc} {new : Loc} {f : Block → Block} :
    MemCanonical (s.moveLoc core old new f) := hs.update

theorem MemCanonical.arrive (hs : MemCanonical s) {blk : Nat} : MemCanonical (s.arrive blk) := by
  unfold State.arrive
  split
  · exact hs
  · exact (hs.foldl fun _ h => h.askHandler).passFences.askCompletion

theorem MemCanonical.execBankSwitch (hs : MemCanonical s) {die core : Nat} : NextCanonical (execBankSwitch die core s) := by
  unfold Machine.execBankSwitch
  dsimp only
  split
  · exact hs
  · exact hs
  · exact hs.rejected ‹_›
  · exact (((((hs.popRing.dropRecords.foldl fun _ h => h.modBlock).foldl fun _ h => h.modBlock).foldl fun _ h => h.arrive).unless
      (·.push)).ringPump.pumpCluster).villek.next

theorem MemCanonical.writeImage (hs : MemCanonical s) {core : Nat} {l : List (Nat × Block)} {moved : Bool} :
    MemCanonical (s.writeImage core l moved) := by
  unfold State.writeImage
  split
  · exact hs
  · refine .when ((hs.wrArea.foldl fun _ h => h.wrArea).foldl fun _ h => h.wrArea.wrArea) fun h => ?_
    exact .foldlOn (π := Prod.snd) h fun _ h => h.wrArea

theorem MemCanonical.moveOut (hs : MemCanonical s) {image blk : Nat} : MemCanonical (s.moveOut image blk) := by
  unfold State.moveOut
  split
  · exact hs
  · exact hs.release.freeBanks.modBlock.leaveRecords

theorem MemCanonical.moveAll (hs : MemCanonical s) {core : Nat} {l : List (Nat × Block)} : MemCanonical (s.moveAll core l) :=
  hs.fresh.writeImage.foldl fun _ h => h.moveOut

theorem MemCanonical.execAshSpillDone (hs : MemCanonical s) {die core : Nat} : NextCanonical (execAshSpillDone die core s) := by
  unfold Machine.execAshSpillDone
  dsimp only
  split
  · exact hs.next
  · split
    · exact hs.moveLoc.push.next
    · split
      · exact hs.moveAll.moveAll.ringPump.villek.next
      · exact hs.fresh.writeImage.moveLoc.ringPump.villek.next

theorem MemCanonical.resumeAnswered (hs : MemCanonical s) {blk : Nat} : MemCanonical (s.resumeAnswered blk) :=
  hs.foldl fun _ h => h.dropWaiting.resumeParked

theorem MemCanonical.execRestoreRequest (hs : MemCanonical s) {blk die core tile0 wslot0 step : Nat} :
    NextCanonical (execRestoreRequest blk die core tile0 wslot0 step s) := by
  unfold Machine.execRestoreRequest
  dsimp only
  split
  · exact hs.next
  · split
    · exact hs.next
    · split
      · exact hs.next
      · split
        · exact hs.update.next
        · split
          · exact (hs.when (·.pushOnce)).push.next
          · exact ((hs.modBlock.unless (·.fillWindow)).unless (·.leaveRecords.enterCore)).setMode.resumeAnswered.update.villek.next

theorem MemCanonical.execMigrationStop (hs : MemCanonical s) {blk : Nat} : NextCanonical (execMigrationStop blk s) := by
  unfold Machine.execMigrationStop
  dsimp only
  split
  · exact hs.next
  · split
    · exact hs.next
    · split
      · exact hs.next
      · split
        · exact hs.modBlock.next
        · split
          · exact hs.moveAll.ringPump.pumpCluster.villek.next
          · split
            · exact hs.modBlock.next
            · exact hs.modBlock.push.next

theorem MemCanonical.handOver (hs : MemCanonical s) {part core : Nat} : MemCanonical (s.handOver part core) :=
  hs.moveAll.update.modCore

theorem MemCanonical.execWorldSwitch (hs : MemCanonical s) {die cluster part : Nat} :
    NextCanonical (execWorldSwitch die cluster part s) := by
  unfold Machine.execWorldSwitch
  generalize clusterCores die cluster = cores
  refine .ite ?busy (.ite ?handed ?used)
  case busy => exact (hs.foldl fun _ h => h.moveLoc.dropRecords).push.next
  case handed =>
    exact (((hs.foldl fun _ h => h.moveLoc.dropRecords).foldl fun _ h => h.foldl fun _ h => h.release).dropLeaves.foldl fun _ h =>
      h.handOver).villek.next
  case used =>
    exact ((hs.foldl fun _ h => h.moveLoc.dropRecords).foldl fun _ h => h.foldl fun _ h => h.release).dropLeaves.push.next

/-! ## Upkeep and resets (02 R59; 12, 13, 15) -/

theorem MemCanonical.arm (hs : MemCanonical s) {t : Nat} {i : Instr} : MemCanonical (s.arm t i) := hs.unless (·.at)

theorem MemCanonical.setCal (hs : MemCanonical s) {u : CalUnit} {c : Cal} : MemCanonical (s.setCal u c) := hs.update

theorem MemCanonical.execCalendarAdopt (hs : MemCanonical s) {unit : CalUnit} : NextCanonical (execCalendarAdopt unit s) := by
  unfold Machine.execCalendarAdopt
  split
  · exact hs.next
  · exact hs.setCal.next

theorem MemCanonical.setDram (hs : MemCanonical s) {die line : Nat} {x : Option (Option Nat)} :
    MemCanonical (s.setDram die line x) := hs.modDie

theorem MemCanonical.execPatrolScrub (hs : MemCanonical s) {die line : Nat} {found : ScrubResult} :
    NextCanonical (execPatrolScrub die line found s) := by
  unfold Machine.execPatrolScrub
  split
  · exact hs.setDram.next
  · exact hs.setDram.correct.next
  · split
    · exact hs.next
    · exact (hs.setDram.unless (·.update)).post.next

theorem MemCanonical.countRepairs (hs : MemCanonical s) {fused : Nat} : MemCanonical (s.countRepairs fused) := hs.update

theorem MemCanonical.dropBadRepairs (hs : MemCanonical s) {die : Nat} : MemCanonical (s.dropBadRepairs die) :=
  (hs.unless (·.modDie)).foldl fun _ h => h.post

theorem MemCanonical.forget (hs : MemCanonical s) {gone : Nat → Block → Bool} : MemCanonical (s.forget gone) := hs.update

theorem MemCanonical.forgetRegions (hs : MemCanonical s) {mine : List Nat} : MemCanonical (s.forgetRegions mine) :=
  (((hs.foldl fun _ h => h.freeBanks).forget.foldl fun _ h => h.dropBinds).foldl fun _ h => h.leaveRecords).update

theorem MemCanonical.resetDie (hs : MemCanonical s) {die : Nat} : MemCanonical (s.resetDie die) := by
  unfold State.resetDie
  refine .villek (.countRepairs (.foldl (.modDie (.dropBadRepairs ?_)) fun _ h => h.modCore))
  exact hs.forgetRegions.update.loseOn.forget.update

theorem MemCanonical.execDieReset (hs : MemCanonical s) {die : Nat} : NextCanonical (execDieReset die s) := by
  unfold Machine.execDieReset
  split
  · exact hs.resetDie.next
  · exact hs.next

theorem MemCanonical.extend (hs : MemCanonical s) {reg : Nat} {digest : BitVec 384} : MemCanonical (s.extend reg digest) :=
  hs.update

theorem MemCanonical.stages (hs : MemCanonical s) {first last version : Nat} : MemCanonical (s.stages first last version) :=
  (((hs.when (·.extend)).when (·.update.extend)).when fun h =>
    (h.foldl fun _ h => h.dropBadRepairs).update.countRepairs.extend).when fun h =>
    h.extend.arm.foldl fun _ h => h.arm

theorem MemCanonical.bootFrom (hs : MemCanonical s) {first version : Nat} {fails : Option (Nat × Bool)} :
    MemCanonical (s.bootFrom first version fails) := by
  unfold State.bootFrom
  split <;> exact hs.stages.update

theorem MemCanonical.execPowerOn (hs : MemCanonical s) {fails : Option (Nat × Bool)} {version : Nat} :
    NextCanonical (execPowerOn fails version s) := by
  unfold Machine.execPowerOn
  split
  · exact hs.next
  · exact hs.update.bootFrom.next

theorem MemCanonical.execMeasurementExtend (hs : MemCanonical s) {reg : Nat} {digest : BitVec 384} :
    NextCanonical (execMeasurementExtend reg digest s) := by
  unfold Machine.execMeasurementExtend
  split
  · exact hs.extend.next
  · exact hs.next

theorem MemCanonical.queueInval (hs : MemCanonical s) {die : Nat} {cmd : BitVec 128} : MemCanonical (s.queueInval die cmd) :=
  hs.when (·.modDie.push)

theorem MemCanonical.joinPort (hs : MemCanonical s) {link memb port : Nat} : MemCanonical (s.joinPort link memb port) := hs.update

theorem MemCanonical.formLink (hs : MemCanonical s) {link : Nat} {ports : List Nat} {peer : Nat} :
    MemCanonical (s.formLink link ports peer) := hs.when fun h => h.update.foldl fun _ h => h.joinPort

theorem MemCanonical.modPart (hs : MemCanonical s) {p : Nat} {f : Partition → Partition} : MemCanonical (s.modPart p f) :=
  hs.when (·.update)

theorem MemCanonical.writeRegister (hs : MemCanonical s) {a : MgmtWrite} : MemCanonical (s.writeRegister a) := by
  unfold State.writeRegister
  split
  · exact hs.when (·.modDie)
  · exact hs.modDie
  · exact hs.queueInval
  · exact hs.modDie.push
  · exact hs.when (·.modDie.push)
  · exact hs.update
  · exact hs.when (·.modPart)
  · exact hs.modPart
  · exact hs.modPart
  · exact hs.modPart
  · exact hs.modPart
  · exact hs.formLink
  · exact hs.update
  · exact hs.update
  · exact hs.when (·.update)
  · exact hs.modDie
  · exact hs.modDie
  · exact hs.when (·.modCore)
  · exact hs.update
  · exact hs.update
  · exact hs

/-! ## Accesses from outside (11 R253; 15) -/

theorem MemCanonical.writeLine (hs : MemCanonical s) {hm : Option Home} {line off : Nat} {bytes : List Byte} :
    MemCanonical (s.writeLine hm line off bytes) := by
  unfold State.writeLine
  split
  · exact hs.unitWrite
  · exact hs.homeWrite.clearResv

theorem MemCanonical.writeAt (hs : MemCanonical s) {home : State → Nat → Option Home} {k : Nat} {data : List Byte} :
    MemCanonical (s.writeAt home k data) := hs.foldl fun _ h => h.writeLine

theorem MemCanonical.demandLines (hs : MemCanonical s) {homes : List (Option Home)} : MemCanonical (s.demandLines homes) := by
  unfold State.demandLines
  refine hs.foldl fun _ h => ?_
  split
  · exact h.demandAt
  · exact h

theorem MemCanonical.readAt (hs : MemCanonical s) {home : State → Nat → Option Home} {k n : Nat} :
    MemCanonical (s.readAt home k n).2 := hs.demandLines

theorem MemCanonical.rmwAt (hs : MemCanonical s) {home : State → Nat → Option Home} {k n : Nat} {f : Nat → Option Nat} :
    MemCanonical (s.rmwAt home k n f).2 := by
  unfold State.rmwAt
  split
  · exact hs.readAt.snd_of_eq ‹_›
  · have h1 := hs.readAt.snd_of_eq ‹_›
    split
    · exact h1.writeAt
    · exact h1

theorem MemCanonical.homeOp (hs : MemCanonical s) {home : State → Nat → Option Home} {op : HomeOp} :
    MemCanonical (s.homeOp home op).2 := by
  unfold State.homeOp
  split
  · exact hs.readAt
  · exact hs.writeAt
  · exact hs.rmwAt
  · exact hs.rmwAt

theorem MemCanonical.outsideReads (hs : MemCanonical s) {k n : Nat} : MemCanonical (s.outsideReads k n) :=
  hs.foldl fun _ h => h.readsFrom

theorem MemCanonical.setSysRead (hs : MemCanonical s) {core : Nat} {x : Option (List Byte)} :
    MemCanonical (s.setSysRead core x) := hs.update

theorem MemCanonical.sysLr (hs : MemCanonical s) {core pa n : Nat} : MemCanonical (s.sysLr core pa n) :=
  hs.outsideReads.readAt.setSysRead.update

theorem MemCanonical.sysSc (hs : MemCanonical s) {core pa n x : Nat} : MemCanonical (s.sysSc core pa n x) :=
  (hs.update.when (·.writeAt)).setSysRead

theorem MemCanonical.sysDo (hs : MemCanonical s) {core : Nat} {a : CoreOp} : MemCanonical (s.sysDo core a) := by
  unfold State.sysDo
  split
  · exact (hs.when (·.outsideReads)).homeOp.setSysRead
  · exact hs.sysLr
  · exact hs.sysSc
  · exact hs
  · exact hs

theorem MemCanonical.sysNext (hs : MemCanonical s) {core : Nat} : NextCanonical (s.sysNext core) := by
  unfold State.sysNext
  split
  · exact hs.next
  · split
    · exact hs.push.next
    · split
      · exact trivial
      · exact (hs.update.sysDo.unless (·.push)).next

theorem MemCanonical.execSystemCoreMemoryAccess (hs : MemCanonical s) {core : Nat} {op : CoreOp} :
    NextCanonical (execSystemCoreMemoryAccess core op s) := by
  unfold Machine.execSystemCoreMemoryAccess
  split
  · exact hs.next
  · split
    · exact hs.sysNext
    · split
      · exact hs.next
      · split
        · exact hs.update.next
        · split
          · exact trivial
          · split
            · exact hs.update.push.next
            · exact hs.sysDo.next

theorem MemCanonical.execPcieDmaAccess (hs : MemCanonical s) {op : DmaOp} : NextCanonical (execPcieDmaAccess op s) := by
  unfold Machine.execPcieDmaAccess
  split
  · split
    · exact trivial
    · exact hs.outsideReads.readAt.update.next
  · split
    · exact trivial
    · split
      · exact (hs.foldl fun _ h => h.push).next
      · exact hs.writeAt.next

theorem MemCanonical.modQp (hs : MemCanonical s) {qp : Nat} {f : QueuePair → QueuePair} : MemCanonical (s.modQp qp f) := hs.update

theorem MemCanonical.rdmaLines (hs : MemCanonical s) {part : Nat} {need : Need} {l : List (Nat × List Byte)} :
    MemCanonical (s.rdmaLines part need l).2 := by
  induction l generalizing s with
  | nil => exact hs
  | cons e l ih =>
    unfold State.rdmaLines
    split
    · exact hs
    · split
      · exact hs.translateEngine.snd_of_eq ‹_›
      · have h1 := ih (hs.translateEngine.snd_of_eq ‹_›)
        split <;> exact h1.snd_of_eq ‹_›

theorem MemCanonical.rdma (hs : MemCanonical s) {dst : RdmaTarget} {need : Need} {data : List Byte}
    {f : State → List (Leaf × Nat × List Byte) → Option State} (hf : ∀ {t} l, MemCanonical t → OptionCanonical (f t l)) :
    MemCanonical (s.rdma dst need data f) := by
  unfold State.rdma
  split
  · exact hs
  · split
    · exact hs
    · split
      · exact hs.modQp
      · split
        · exact (hs.rdmaLines.snd_of_eq ‹_›).modQp
        · have h1 := hs.rdmaLines.snd_of_eq ‹_›
          exact (hf _ h1).getD h1.modQp

theorem MemCanonical.rdmaStore (hs : MemCanonical s) {l : List (Leaf × Nat × List Byte)} : MemCanonical (s.rdmaStore l) :=
  hs.foldl fun _ h => h.unitWrite

theorem MemCanonical.rdmaMessage (hs : MemCanonical s) {dst : RdmaTarget} {l : List (Leaf × Nat × List Byte)} :
    MemCanonical (s.rdmaMessage dst l) := by
  unfold State.rdmaMessage
  split
  · exact hs.rdmaStore
  · exact hs.foldl fun _ h => h.push

theorem MemCanonical.rdmaDeliver (hs : MemCanonical s) {dst : RdmaTarget} {again : Instr} {f : QueuePair → QueuePair} :
    MemCanonical (s.rdmaDeliver dst again f) := by
  unfold State.rdmaDeliver
  split
  · exact hs
  · split
    · exact hs
    · split
      · exact hs.push
      · exact hs.modQp

theorem MemCanonical.rdmaFetch (hs : MemCanonical s) {l : List (Leaf × Nat × List Byte)} : MemCanonical (s.rdmaFetch l).2 :=
  hs.demandLines

theorem MemCanonical.execRdmaRead (hs : MemCanonical s) {dst : RdmaTarget} {bytes : Nat} :
    NextCanonical (execRdmaRead dst bytes s) := by
  refine (hs.rdma fun _ h => ?_).next
  refine MemCanonical.some ?_
  split <;> exact (h.rdmaFetch.snd_of_eq ‹_›).modQp

theorem MemCanonical.rdmaAtomic (hs : MemCanonical s) {dst : RdmaTarget} {f : Nat → Option Nat} :
    MemCanonical (s.rdmaAtomic dst f) := by
  refine hs.rdma fun _ h => ?_
  dsimp only
  split
  · trivial
  · refine MemCanonical.some ?_
    split
    · refine .modQp ?_
      split
      · exact (h.rdmaFetch.snd_of_eq ‹_›).rdmaStore
      · exact h.rdmaFetch.snd_of_eq ‹_›
    · exact (h.rdmaFetch.snd_of_eq ‹_›).modQp

/-! ## Links and peers (12 R298 to R300; 15 R350 to R353) -/

theorem MemCanonical.modPort (hs : MemCanonical s) {p : Nat} {f : Port → Port} : MemCanonical (s.modPort p f) := hs.update

theorem MemCanonical.modLink (hs : MemCanonical s) {l : Nat} {f : Link → Link} : MemCanonical (s.modLink l f) := hs.update

theorem MemCanonical.interrupt (hs : MemCanonical s) {port : Nat} : MemCanonical (s.interrupt port) := hs.update

theorem MemCanonical.retrain (hs : MemCanonical s) {link : Nat} : MemCanonical (s.retrain link) := by
  unfold State.retrain
  split
  · exact hs
  · exact hs.unless (·.modLink.arm)

theorem MemCanonical.failPort (hs : MemCanonical s) {port : Nat} : MemCanonical (s.failPort port) :=
  hs.unless fun h => h.modPort.interrupt.unless (·.retrain)

theorem MemCanonical.crcFailure (hs : MemCanonical s) {port : Nat} : MemCanonical (s.crcFailure port) :=
  hs.modPort.when (·.failPort)

theorem MemCanonical.execLinkRetrainDone (hs : MemCanonical s) {link : Nat} : NextCanonical (execLinkRetrainDone link s) := by
  unfold Machine.execLinkRetrainDone
  split
  · exact hs.next
  · split
    · exact hs.next
    · refine .next (.answerOwed ?_)
      split
      · exact ((hs.foldl fun _ h => h.modPort).foldl fun _ h => h.joinPort).modLink.push
      · exact ((hs.foldl fun _ h => h.modPort).foldl fun _ h => h.joinPort).modLink

theorem MemCanonical.execLinkRetrainRequest (hs : MemCanonical s) {link : Nat} {broken : List Nat} :
    NextCanonical (execLinkRetrainRequest link broken s) := by
  unfold Machine.execLinkRetrainRequest
  split
  · exact hs.next
  · exact (hs.foldl fun _ h => h.modPort.when (·.interrupt)).modLink.retrain.next

theorem MemCanonical.refreshPort (hs : MemCanonical s) {r : PortReading} : MemCanonical (s.refreshPort r) := by
  unfold State.refreshPort
  split
  · exact hs
  · split
    · exact (hs.when (·.failPort)).modPort
    · exact hs.modPort.unless (·.interrupt)

theorem MemCanonical.execPortWarnClear (hs : MemCanonical s) {port : Nat} {mask : BitVec 3} :
    NextCanonical (execPortWarnClear port mask s) := by
  unfold Machine.execPortWarnClear
  split
  · exact hs.next
  · exact hs.modPort.next

theorem MemCanonical.dropCopies (hs : MemCanonical s) {peer line : Nat} : MemCanonical (s.dropCopies peer line) :=
  (hs.foldl fun _ h => h.unless (·.dropFarCopy)).update

theorem MemCanonical.shareWith (hs : MemCanonical s) {die line dev : Nat} : MemCanonical (s.shareWith die line dev) := hs.modDie

theorem MemCanonical.reply (hs : MemCanonical s) {link flits : Nat} {ids : List Nat} : MemCanonical (s.reply link flits ids) :=
  hs.modLink.answerOwed

theorem MemCanonical.homePacket (hs : MemCanonical s) {link die : Nat} {tracked : Bool} {op : HomeOp} :
    MemCanonical (s.homePacket link die tracked op) := hs.homeOp.reply

theorem MemCanonical.deliverPacket (hs : MemCanonical s) {link peer : Nat} {body : FabricBody} :
    MemCanonical (s.deliverPacket link peer body) := by
  unfold State.deliverPacket
  split
  · exact hs.unless (·.homePacket)
  · exact hs.unless (·.shareWith.reply)
  · exact hs.dropCopies.reply
  · exact hs

theorem MemCanonical.badPacket (hs : MemCanonical s) {link flits : Nat} : MemCanonical (s.badPacket link flits) := by
  unfold State.badPacket
  split
  · exact hs
  · split
    · exact hs.modLink.crcFailure
    · exact hs.modLink

theorem MemCanonical.execFabricPacketReceive (hs : MemCanonical s) {link seq : Nat} {crcOk : Bool} {body : FabricBody} :
    NextCanonical (execFabricPacketReceive link seq crcOk body s) := by
  unfold Machine.execFabricPacketReceive
  split
  · exact hs.next
  · split
    · exact hs.next
    · split
      · exact hs.badPacket.next
      · split
        · exact hs.modLink.next
        · split
          · exact trivial
          · split
            · exact hs.dirEvict.push.next
            · exact hs.modLink.deliverPacket.next

theorem MemCanonical.execFabricAckReceive (hs : MemCanonical s) {link seq : Nat} :
    NextCanonical (execFabricAckReceive link seq s) := by
  unfold Machine.execFabricAckReceive
  split
  · exact hs.next
  · split
    · exact hs.next
    · exact hs.modLink.answerOwed.next

theorem MemCanonical.dropPeerCopies (hs : MemCanonical s) {die p : Nat} : MemCanonical (s.dropPeerCopies die p) := hs.update

theorem MemCanonical.loseDie (hs : MemCanonical s) {die p : Nat} : MemCanonical (s.loseDie die p) := hs.loseOn.villek

theorem MemCanonical.loseCmds (hs : MemCanonical s) {die dev : Nat} : MemCanonical (s.loseCmds die dev) :=
  hs.foldl fun _ h => h.modCmd.finishCmd

theorem MemCanonical.fencePeer (hs : MemCanonical s) {die p : Nat} : MemCanonical (s.fencePeer die p) := by
  unfold State.fencePeer
  refine .push ?_
  split
  · refine .loseDie (.dropPeerCopies (.post ?_))
    split <;> exact hs.update
  · refine .loseCmds (.dropPeerCopies (.post ?_))
    split <;> exact hs.update

theorem MemCanonical.execHeartbeatMiss (hs : MemCanonical s) {pair : Peering} {path : Nat} :
    NextCanonical (execHeartbeatMiss pair path s) := by
  unfold Machine.execHeartbeatMiss
  split
  · exact hs.next
  · exact (hs.update.unless (·.fencePeer)).next

theorem MemCanonical.execHeartbeatReceive (hs : MemCanonical s) {pair : Peering} {path : Nat} :
    NextCanonical (execHeartbeatReceive pair path s) := by
  unfold Machine.execHeartbeatReceive
  split
  · exact hs.next
  · exact hs.update.next

theorem MemCanonical.execFenceDirectoryScrub (hs : MemCanonical s) {pair : Peering} :
    NextCanonical (execFenceDirectoryScrub pair s) := by
  unfold Machine.execFenceDirectoryScrub
  split
  · exact hs.next
  · exact (hs.update.modDie.foldl fun _ h => h.push).next

theorem MemCanonical.execPeerReadmission (hs : MemCanonical s) {pair : Peering} : NextCanonical (execPeerReadmission pair s) := by
  unfold Machine.execPeerReadmission
  split
  · exact hs.next
  · refine .next ?_
    split <;> exact hs.update

/-! ## Hint words (04) -/

theorem MemCanonical.hintWord (hs : MemCanonical s) {x : Word} : NextCanonical (s.hintWord x) := by
  unfold State.hintWord
  split
  · exact trivial
  · exact hs.modUnit.next

/-! ## Scalar words (06) -/

theorem MemCanonical.siImm (hs : MemCanonical s) {maj : Nat} {d : BitVec 5} {rs : List Nat} {i : BitVec 12}
    {f : Iss → Word → Word} :
    NextCanonical (s.siImm maj d rs i f) := hs.issueStraight (fun _ h => h.putS)

/-! ## System words (09) -/

theorem MemCanonical.execDqpop (hs : MemCanonical s) {p : BitVec 4} {t : BitVec 5} : NextCanonical (execDqpop p t s) := by
  unfold Machine.execDqpop
  refine hs.issueStraight (fun _ h => ?_)
  split
  · split
    · exact h.consume
    · exact h.modBlock.putS.putS
  · exact h

theorem MemCanonical.leaveHandler (hs : MemCanonical s) {i : Iss} {fwd : Bool} : MemCanonical (s.leaveHandler i fwd) := by
  unfold State.leaveHandler
  split
  · exact hs
  · refine .askHandler ?_
    split
    · split
      · exact hs.modUnit.modUnit.forward
      · exact hs.modUnit
    · exact hs.modUnit.resumeLanes

theorem MemCanonical.xl (hs : MemCanonical s) {a : Attr} {sa x : BitVec 5} {f : Iss → State → State}
    (hf : ∀ {t} x0, MemCanonical t → MemCanonical (f x0 t))
    (ha : a.KeepsMemory := by exact fun _ h => h) :
    NextCanonical (s.xl a sa x f) := by
  unfold State.xl
  refine hs.issueStraight (fun _ h => ?_) ha
  split
  · exact h.faultAct
  · exact hf _ h

theorem MemCanonical.execXlr (hs : MemCanonical s) {p : BitVec 4} {t sa x : BitVec 5} : NextCanonical (execXlr p t sa x s) := by
  unfold Machine.execXlr
  refine hs.xl (fun _ h => ?_)
  split
  · exact h.consume
  · exact h.putS

theorem MemCanonical.modBank (hs : MemCanonical s) {i : Iss} {n : Nat} {f : CtrBank → CtrBank} : MemCanonical (s.modBank i n f) :=
  hs.modCore

theorem MemCanonical.execCtrcfg (hs : MemCanonical s) {p : BitVec 4} {sa x : BitVec 5} : NextCanonical (execCtrcfg p sa x s) := by
  unfold Machine.execCtrcfg
  refine hs.issueStraight (fun _ h => ?_)
  split
  · exact h.faultAct
  · exact h.modBank

theorem MemCanonical.execCtrrdLo (hs : MemCanonical s) {p : BitVec 4} {t sa : BitVec 5} :
    NextCanonical (execCtrrdLo p t sa s) := by
  unfold Machine.execCtrrdLo
  refine hs.issueStraight (fun _ h => ?_)
  split
  · exact h.faultAct
  · exact h.modUnit.putS

/-! ## Ladder words (09 R213 to R219) -/

theorem MemCanonical.viewRecord (hs : MemCanonical s) {i : Iss} {view : Nat} : MemCanonical (s.viewRecord i view).2 := hs.viewOf

theorem MemCanonical.homeAt (hs : MemCanonical s) {i : Iss} {view : Nat} {op : MemOp} {coords : List Word} :
    MemCanonical (s.homeAt i view op coords).2 := by
  unfold State.homeAt
  split
  · exact hs.viewRecord.snd_of_eq ‹_›
  · exact hs.viewRecord.snd_of_eq ‹_›
  · have h1 := hs.viewRecord.snd_of_eq ‹_›
    split
    · exact h1
    · split
      · exact h1
      · split
        · exact h1
        · split <;> exact h1.translate.snd_of_eq ‹_›

theorem MemCanonical.homesAt (hs : MemCanonical s) {i : Iss} {view : Nat} {op : MemOp} {l : List (List Word)} :
    MemCanonical (s.homesAt i view op l).2 := by
  induction l generalizing s with
  | nil => exact hs
  | cons c l ih =>
    unfold State.homesAt
    split
    · exact hs.homeAt.snd_of_eq ‹_›
    · exact hs.homeAt.snd_of_eq ‹_›
    · have h1 := ih (hs.homeAt.snd_of_eq ‹_›)
      split
      · exact h1.snd_of_eq ‹_›
      · exact h1

theorem MemCanonical.storeHome (hs : MemCanonical s) {i : Iss} {leaf : Leaf} {va : Nat} {x : Word} :
    MemCanonical (s.storeHome i leaf va x).2 := by
  unfold State.storeHome
  dsimp only
  split
  · exact hs.releaseLine.lostStore
  · exact hs.releaseLine.write.clearResv.addEnergy

theorem MemCanonical.ladderView (hs : MemCanonical s) {i : Iss} {v : Nat} : MemCanonical (s.ladderView i v).2 := by
  unfold State.ladderView
  split
  · exact hs.viewRecord.snd_of_eq ‹_›
  · exact hs.viewRecord.snd_of_eq ‹_›
  · have h1 := hs.viewRecord.snd_of_eq ‹_›
    split
    · exact h1
    · split <;> exact h1.translate.snd_of_eq ‹_›

theorem MemCanonical.openLadder (hs : MemCanonical s) {i : Iss} {v : Nat} : MemCanonical (s.openLadder i v).2 := by
  unfold State.openLadder
  dsimp only
  split
  · exact hs.ladderView.snd_of_eq ‹_›
  · exact hs.ladderView.snd_of_eq ‹_›
  · have h1 := hs.ladderView.snd_of_eq ‹_›
    split
    · exact h1
    · split
      · exact h1.readLadder.snd_of_eq ‹_›
      · exact h1.readLadder.snd_of_eq ‹_›
      · have h2 := h1.readLadder.snd_of_eq ‹_›
        split
        · exact h2.update
        · exact h2.fresh.update

theorem MemCanonical.submitItems (hs : MemCanonical s) {i : Iss} {v : Nat} {ids : List Nat} {first count : Nat} :
    MemCanonical (s.submitItems i v ids first count) := by
  unfold State.submitItems
  dsimp only
  split
  · exact (hs.openLadder.snd_of_eq ‹_›).consume
  · exact (hs.openLadder.snd_of_eq ‹_›).takeFault
  · have h1 := hs.openLadder.snd_of_eq ‹_›
    split
    · exact h1.faultAct.ladderSettle
    · split
      · exact (h1.grant.fresh.acceptFrom.snd_of_eq ‹_›).commitSoon.ladderSettle
      · exact (h1.grant.fresh.acceptFrom.snd_of_eq ‹_›).modLadder.modUnit

theorem MemCanonical.execLinfo (hs : MemCanonical s) {p : BitVec 4} {t sa : BitVec 5} {e : BitVec 4} :
    NextCanonical (execLinfo p t sa e s) := by
  unfold Machine.execLinfo
  refine hs.issueStraight (fun _ h => ?_)
  split
  · exact (h.ladderView.snd_of_eq ‹_›).consume
  · exact (h.ladderView.snd_of_eq ‹_›).takeFault
  · exact ((h.ladderView.snd_of_eq ‹_›).when (·.demandAt)).consume.ite (((h.ladderView.snd_of_eq ‹_›).when (·.demandAt)).putS)

theorem MemCanonical.rungExit (hs : MemCanonical s) {i : Iss} {lid : Nat} {lanes : List Nat} :
    MemCanonical (s.rungExit i lid lanes) := hs.unless (·.markCommitted.exitLanes.commitSoon.ladderSettle)

theorem MemCanonical.escWait {a : Esc} (ha : MemCanonical a.s) {i : Iss} {ftmo l : Nat} : MemCanonical (a.wait i ftmo l).s := by
  unfold Esc.wait
  dsimp only
  split
  · exact ha.modUnit
  · exact ha.modUnit.when (·.at)

theorem MemCanonical.escHandOn {a : Esc} (ha : MemCanonical a.s) {i : Iss} {lid k l : Nat} {f : Option Nat} :
    MemCanonical (a.handOn i lid k l f).s := ha.enqueue.freeFrame.takeItem

theorem MemCanonical.escLane {a : Esc} (ha : MemCanonical a.s) {i : Iss} {lid k n t l : Nat} :
    MemCanonical (Esc.lane i lid k n t a l).s := by
  unfold Esc.lane
  split
  · exact ha
  · dsimp only
    split
    · exact ha
    · split
      · exact ha
      · split
        · exact ha.escHandOn
        · split
          · split
            · exact (ha.homesAt.snd_of_eq ‹_›).consume
            · exact ha.homesAt.snd_of_eq ‹_›
            · exact .escHandOn ((ha.homesAt.snd_of_eq ‹_›).modLadder.foldl fun _ h => h.storeHome)
          · exact ha.escWait

theorem MemCanonical.execLesc (hs : MemCanonical s) {p : BitVec 4} {t : BitVec 5} {e : BitVec 4} :
    NextCanonical (execLesc p t e s) := by
  refine hs.issueStraight (fun _ h => ?_) (fun _ h => h.releaseFirst)
  split
  · exact h.exitLanes
  · split
    · exact h
    · exact (MemCanonical.foldlOn (π := Esc.s) h fun _ h => h.escLane).modUnit.takeFaults.rungExit

theorem MemCanonical.escRet {a : Esc} (ha : MemCanonical a.s) {i : Iss} {lid view t l : Nat} :
    MemCanonical (Esc.ret i lid view t a l).s := by
  unfold Esc.ret
  dsimp only
  split
  · exact (ha.homeAt.snd_of_eq ‹_›).consume
  · exact ha.homeAt.snd_of_eq ‹_›
  · have h1 := ha.homeAt.snd_of_eq ‹_›
    refine .takeItem (.freeFrame (.retire ?_))
    split
    · exact h1.storeHome
    · exact h1

theorem MemCanonical.execLret (hs : MemCanonical s) {p : BitVec 4} {t : BitVec 5} : NextCanonical (execLret p t s) := by
  refine hs.issueStraight (fun _ h => ?_) (fun _ h => h.releaseFirst)
  split
  · exact h.exitLanes
  · split
    · exact h
    · exact (MemCanonical.foldlOn (π := Esc.s) h fun _ h => h.escRet).takeFaults.rungExit

theorem MemCanonical.dropCopiesOf (hs : MemCanonical s) {core line : Nat} : MemCanonical (s.dropCopiesOf core line) :=
  hs.l1Drop.dropFarCopy

theorem MemCanonical.escLoad {a : Esc} (ha : MemCanonical a.s) {i : Iss} {lid k t l : Nat} :
    MemCanonical (Esc.load i lid k t a l).s := by
  unfold Esc.load
  split
  · split
    · exact (ha.homesAt.snd_of_eq ‹_›).consume
    · exact ha.homesAt.snd_of_eq ‹_›
    · have h1 := ha.homesAt.snd_of_eq ‹_›
      dsimp only
      split
      · exact ((h1.foldl fun _ h => h.demandAt).foldl fun _ h => h.readsFrom.dropCopiesOf).consume
      · exact ((h1.foldl fun _ h => h.demandAt).foldl fun _ h => h.readsFrom.dropCopiesOf).modUnit.freeFrame
  · exact ha

theorem MemCanonical.execLfrm (hs : MemCanonical s) {p : BitVec 4} {t : BitVec 5} : NextCanonical (execLfrm p t s) := by
  refine hs.issueStraight (fun _ h => ?_)
  split
  · exact h
  · exact (MemCanonical.foldlOn (π := Esc.s) h fun _ h => h.escLoad).takeFaults

theorem MemCanonical.execLadderWarpLaunch (hs : MemCanonical s) {ladder rung core tile0 wslot0 : Nat} :
    NextCanonical (execLadderWarpLaunch ladder rung core tile0 wslot0 s) := by
  unfold Machine.execLadderWarpLaunch
  split
  · exact hs.next
  · split
    · exact hs.next
    · split
      · exact hs.ladderPump.next
      · exact (hs.modLadder.writeBind.foldl fun _ h => h.when (·.acceptMore)).starveClock.ladderPump.next

theorem MemCanonical.execLadderFrameTimeout (hs : MemCanonical s) {blk lane stamp : Nat} :
    NextCanonical (execLadderFrameTimeout blk lane stamp s) := by
  unfold Machine.execLadderFrameTimeout
  dsimp only
  split
  · exact hs.next
  · split
    · exact hs.next
    · exact hs.modUnit.takeFault.next

/-! ## Words across lanes (06) -/

theorem MemCanonical.shuffle (hs : MemCanonical s) {fn : Nat} {p : BitVec 4} {d a b : BitVec 6} {n : BitVec 1}
    {source : Nat → Word → Option Nat} :
    NextCanonical (s.shuffle fn p d a b n source) := hs.compute (fun _ h => h.results)

theorem MemCanonical.gather (hs : MemCanonical s) {maj fn : Nat} {p : BitVec 4} {d a : BitVec 6} {n : BitVec 1}
    {f : Hints → List Word → Word × Flags} :
    NextCanonical (s.gather maj fn p d a n f) := hs.compute (fun _ h => h.results.raiseFlags)

/-! ## Launches (09 R221 to R224) -/

theorem MemCanonical.rcbAt (hs : MemCanonical s) {i : Iss} {sa x : BitVec 5} : MemCanonical (s.rcbAt i sa x).2 := by
  unfold State.rcbAt
  dsimp only
  split
  · exact hs.viewRecord.snd_of_eq ‹_›
  · exact hs.viewRecord.snd_of_eq ‹_›
  · have h1 := hs.viewRecord.snd_of_eq ‹_›
    split
    · exact h1
    · split
      · exact h1
      · split
        · exact h1
        · split
          · exact h1
          · split <;> exact h1.translate.snd_of_eq ‹_›

theorem MemCanonical.doneToken (hs : MemCanonical s) {i : Iss} {t : BitVec 5} {x : Word} : MemCanonical (s.doneToken i t x) :=
  hs.putS.modUnit

theorem MemCanonical.launchChild (hs : MemCanonical s) {i : Iss} {t : BitVec 5} {d : Bool} {va : Nat} :
    MemCanonical (s.launchChild i t d va) := by
  unfold State.launchChild
  dsimp only
  split
  · exact (hs.launch.snd_of_eq ‹_›).doneToken.commitSoon
  · have h1 := hs.launch.snd_of_eq ‹_›
    refine .villek (.commitSoon ?_)
    split
    · exact h1.markCommitted.doneToken
    · exact h1.markCommitted.putS.modUnit

theorem MemCanonical.execRlaunch (hs : MemCanonical s) {p : BitVec 4} {t sa x : BitVec 5} {e : BitVec 1} :
    NextCanonical (execRlaunch p t sa x e s) := by
  unfold Machine.execRlaunch
  refine hs.issueStraight (fun _ h => ?_) (fun _ h => h.unless (·.commit.modUnit))
  split
  · exact (h.rcbAt.snd_of_eq ‹_›).consume
  · exact (h.rcbAt.snd_of_eq ‹_›).takeFault
  · exact (h.rcbAt.snd_of_eq ‹_›).launchChild

theorem MemCanonical.execRquery (hs : MemCanonical s) {p : BitVec 4} {t sa x : BitVec 5} {e : BitVec 4} :
    NextCanonical (execRquery p t sa x e s) := by
  unfold Machine.execRquery
  refine hs.issueStraight (fun _ h => ?_)
  split
  · exact (h.rcbAt.snd_of_eq ‹_›).consume
  · exact (h.rcbAt.snd_of_eq ‹_›).takeFault
  · exact (h.rcbAt.snd_of_eq ‹_›).demandAt.demandAt.consume.ite ((h.rcbAt.snd_of_eq ‹_›).demandAt.demandAt.putS)

/-! ## Matrix words (06 R153 to R155) -/

theorem MemCanonical.mma (hs : MemCanonical s) {fn w : Nat} {p : BitVec 4} {d a b : BitVec 6}
    {f : List (Nat × Nat) → Word → Word} :
    NextCanonical (s.mma fn w p d a b f) := hs.issueStraight (fun _ h => h.modUnit)

/-! ## Every instruction -/

/-- Every instruction, by what its meaning is built from. -/
theorem MemCanonical.exec (hs : MemCanonical s) {i : Instr} : NextCanonical (exec i s) := by
  unfold Machine.exec
  cases i with
  | bra | brx | ret => exact hs.issue (fun _ h => h.jump)
  | call | callx => exact hs.issue (fun _ h => h.jump.link)
  | sbr => exact hs.execSbr
  | exit => exact hs.issueStraight (fun _ h => (h.unless (·.loseItems)).exitLanes)
  | yield => exact hs.issueStraight (fun _ h => h.modUnit)
  | nop => exact hs.compute (fun _ h => h)
  | brk | gend | trap => exact hs.issueStraight (fun _ h => h.takeFault)
  | nextSeg => exact hs.execNextSeg
  | jenter | jquit | jmovf | jmovt | jclr => exact hs.setOp
  | jwait => exact hs.issueStraight (fun _ h => h.modUnit.takeFault.modUnit)
  | loop | loopi => exact hs.loopWord
  | barSync => exact hs.issueStraight (fun _ h => h.unless (·.syncBar))
  | barArv => exact hs.issueStraight (fun _ h => h.arriveBar.barrierCheck)
  | barWait => exact hs.issueStraight (fun _ h => h.when (·.waitBar))
  | barCnt | dqpush => exact hs.issueStraight (fun _ h => h.modBlock)
  | fadd | fsub | fmul | ffma | fmin | fmax | fmna | fcopys | frcp | frsq | fsqrt | fex2 | flg2 | fsin | fcos | ftanh
  | hadd2F16 | hsub2F16 | hmul2F16 | hfma2F16 | hmin2F16 | hmax2F16 | hdot2F16 | hadd2Bf16 | hsub2Bf16 | hmul2Bf16 | hfma2Bf16
  | hmin2Bf16 | hmax2Bf16 | hdot2Bf16 | frndRn | frndRz | frndRd | frndRu | ffrac | fexp | fscale | fclass => exact hs.vecF
  | fsetEq | fsetNe | fsetLt | fsetLe | fsetOrd | fsetUnord | fsetEqu | fsetLtu | isetEq | isetNe | isetLtI32 | isetLeI32
  | isetLtN32 | isetLeN32 | isetTst | isetNtst => exact hs.setP
  | cvt => exact hs.compute (fun _ h => h.results.raiseFlags)
  | iadd | isub | imul | imad | imulhI32 | imulhN32 | iaddsI32 | isubsI32 | iminI32 | iminN32 | imaxI32 | imaxN32 | iabsI32
  | idiffN32 | andV | orV | xorV | andn | shl | shr | sar | rot | popc | clz | brev | bfeI32 | bfeN32 | bfi | prmt => exact hs.vecI
  | iadd64 | isub64 => exact hs.vec64
  | lop3 | sel | ballot | matchLanes | s2v => exact hs.compute (fun _ h => h.results)
  | iaddi | shli | shri | sari | roti | andi | ori | xori => exact hs.vecImm
  | fenceAcq | fenceRel | fenceAr | fenceSc => exact hs.fence
  | viewf => exact hs.issueStraight (fun _ h => h.fenceAt.forgetViews)
  | viewp => exact hs.execViewp
  | viewq => exact hs.execViewq
  | gbegin => exact hs.execGbegin
  | loadResponse => exact hs.execLoadResponse
  | atomicCompletion => exact hs.execAtomicCompletion
  | pageWalkDone => exact hs.execPageWalkDone
  | umberGroupExecute => exact hs.execUmberGroupExecute
  | sinkGroupResponse => exact hs.execSinkGroupResponse
  | storeAcknowledge => exact hs.execStoreAcknowledge
  | directoryInvalidate => exact hs.execDirectoryInvalidate
  | ltimeTick => exact (hs.foldl fun _ h => h.modCore).next
  | lrReservationExpiry => exact hs.modUnit.next
  | ownerTimeoutExpiry => exact hs.execOwnerTimeoutExpiry
  | orphanDetection => exact hs.execOrphanDetection
  | trailingLagTimeout => exact hs.execTrailingLagTimeout
  | ldB8I | ldB8N | ldB16I | ldB16N | ldB32 | ldB64 | ldB128 | ldcB32 | ldntB32 => exact hs.load
  | stB8 | stB16 | stB32 | stB64 | stB128 | stntB32 => exact hs.store
  | ldsB32Row | ldsB32Col | ldsB64Row | ldsB64Col | ldsB16Row | ldsB16Col | ldsB8Row | ldsB128Row => exact hs.lds
  | stsB32Row | stsB32Col | stsB64Row | stsB64Col | stsB16Row | stsB16Col | stsB8Row | stsB128Row => exact hs.sts
  | atomAdd | atomMinI32 | atomMaxI32 | atomMinN32 | atomMaxN32 | atomAnd | atomOr | atomXor | atomExch | atomCas | atomAddF32
  | lrB32 | scB32 => exact hs.atom
  | redAddI32 | redMinI32 | redMaxI32 | redAnd | redOr | redXor | redAddF32 | redAddF16x2 => exact hs.red
  | atomsAdd | atomsMinI32 | atomsMaxI32 | atomsExch | atomsCas | atomsAddF32 | atomsOr | atomsAnd => exact hs.atoms
  | pref | prefLlc => exact hs.pref
  | cwb | cinv | cwbi => exact hs.maint
  | engineUnit => exact hs.execEngineUnit
  | mmldBankValid => exact hs.execMmldBankValid
  | engineCommandEnd => exact hs.execEngineCommandEnd
  | enginePageAnswer => exact hs.execEnginePageAnswer
  | fabricCompletionReceive => exact hs.execFabricCompletionReceive
  | cpy | cpyaF32 | cpyaF16 | cpyg | csld | mmld | mmrun | mmdrain | rede => exact hs.engine
  | ownE => exact hs.issueStraight (fun _ h => h.shareC.setTiles)
  | ownT => exact hs.issueStraight (fun _ h => h.acquireAt.setTiles)
  | ownq | parkq | ctrrdHi => exact hs.issueStraight (fun _ h => h.putS)
  | villekPlacement => exact hs.execVillekPlacement
  | priorityAgeing => exact hs.execPriorityAgeing
  | bindBlock => exact hs.execBindBlock
  | bindRungWarp => exact hs.execBindRungWarp
  | bindResumeSnapshot => exact hs.execBindResumeSnapshot
  | dispatchStart => exact hs.execDispatchStart
  | blockCompletion => exact hs.execBlockCompletion
  | limitCheck => exact hs.execLimitCheck
  | execTimeCharge => exact hs.execExecTimeCharge
  | residenceEnergyCharge => exact hs.execResidenceEnergyCharge
  | rootLaunch => exact hs.execRootLaunch
  | handlerEntry => exact hs.execHandlerEntry
  | faultResumeAnswer => exact hs.execFaultResumeAnswer
  | faultKillAnswer => exact (hs.answer (fun _ _ _ h => h.dropWaiting.killBlock)).next
  | invalidationCommand => exact hs.execInvalidationCommand
  | codePageHashDone => exact hs.execCodePageHashDone
  | bankSwitch => exact hs.execBankSwitch
  | ashSpillDone => exact hs.execAshSpillDone
  | restoreRequest => exact hs.execRestoreRequest
  | migrationStop => exact hs.execMigrationStop
  | worldSwitch => exact hs.execWorldSwitch
  | counterSteal | counterReturn => exact hs.modCore.next
  | calendarWrite => exact hs.setCal.arm.next
  | calendarAdopt => exact hs.execCalendarAdopt
  | patrolScrub => exact hs.execPatrolScrub
  | dieReset => exact hs.execDieReset
  | deviceReset => exact (hs.foldl fun _ h => h.dropBadRepairs).update.countRepairs.next
  | powerOn => exact hs.execPowerOn
  | bootRetry => exact (hs.when (·.bootFrom)).next
  | attestationQuote | stopRequest | stopResume => exact hs.update.next
  | measurementExtend => exact hs.execMeasurementExtend
  | telemetryReport | energyWeightWrite => exact hs.modDie.next
  | clockGovern => exact hs.modDie.arm.next
  | registerWrite => exact hs.writeRegister.next
  | systemCoreMemoryAccess => exact hs.execSystemCoreMemoryAccess
  | pcieDmaAccess => exact hs.execPcieDmaAccess
  | rdmaSend | rdmaSendImmediate => exact hs.rdmaDeliver.next
  | rdmaWrite => exact (hs.rdmaDeliver.ite (hs.rdma fun _ h => (h.rdmaMessage.unless (·.push)).some)).next
  | rdmaWriteImmediate => exact (hs.rdma fun _ h => h.rdmaMessage.push.some).next
  | rdmaRead => exact hs.execRdmaRead
  | rdmaCompareSwap | rdmaFetchAdd => exact hs.rdmaAtomic.next
  | ecnMark => exact hs.modQp.next
  | portFail => exact (hs.when (·.failPort)).next
  | linkRetrainDone => exact hs.execLinkRetrainDone
  | linkRetrainRequest => exact hs.execLinkRetrainRequest
  | portStatusRefresh => exact (hs.foldl fun _ h => h.refreshPort).next
  | portWarnClear => exact hs.execPortWarnClear
  | fabricPacketReceive => exact hs.execFabricPacketReceive
  | fabricAckReceive => exact hs.execFabricAckReceive
  | heartbeatSend => exact (hs.foldl fun _ h => h.when (·.sendPacket)).arm.next
  | heartbeatMiss => exact hs.execHeartbeatMiss
  | heartbeatReceive => exact hs.execHeartbeatReceive
  | fenceDirectoryScrub => exact hs.execFenceDirectoryScrub
  | peerReadmission => exact hs.execPeerReadmission
  | himm | hstall | hmod | hcoord => exact hs.hintWord
  | sadd | ssub | smul | sand | sor | sxor | sshl | sshr | sminI32 | smaxI32 | sminN32 | smaxN32 | ssar => exact hs.scal
  | saddi | smovi => exact hs.siImm
  | spopc | sclz => exact hs.scal1
  | commit => exact hs.issueStraight (fun _ h => h.commit)
  | dqpop => exact hs.execDqpop
  | srd => exact hs.issueStraight (fun _ h => h.putS.when (·.modUnit))
  | swr => exact hs.issueStraight (fun _ h => h.unless (·.modUnit))
  | rte => exact hs.issue (fun _ h => h.leaveHandler)
  | xlr => exact hs.execXlr
  | xlw => exact hs.xl (fun _ h => h.modUnit)
  | kill => exact hs.issueStraight (fun _ h => h.killBlock)
  | unpark => exact hs.issueStraight (fun _ h => h.resumeLanes)
  | ctrclm => exact hs.issueStraight (fun _ h => h.modBank.putS.ite h.putS)
  | ctrrel => exact hs.issueStraight (fun _ h => h.when (·.modBank))
  | ctrcfg => exact hs.execCtrcfg
  | ctrrdLo => exact hs.execCtrrdLo
  | enrd => exact hs.issueStraight (fun _ h => h.putS.putS)
  | ladrLane | ladrRange => exact hs.issueStraight (fun _ h => h.submitItems) (fun _ h => h.unless (·.commit.modUnit))
  | linfo => exact hs.execLinfo
  | lesc => exact hs.execLesc
  | lret => exact hs.execLret
  | lfrm => exact hs.execLfrm
  | ladderStarvation => exact hs.ladderPump.next
  | ladderWarpLaunch => exact hs.execLadderWarpLaunch
  | ladderFrameTimeout => exact hs.execLadderFrameTimeout
  | shflIdx | shflXor | shflUp | shflDown => exact hs.shuffle
  | voteAny | voteAll | elect => exact hs.compute (fun _ h => h.predResults)
  | reduxAddI32 | reduxMinI32 | reduxMaxI32 | reduxAddF32 => exact hs.gather
  | v2s => exact hs.compute (fun _ h => h.putS)
  | rlaunch => exact hs.execRlaunch
  | rquery => exact hs.execRquery
  | mmaF16 | mmaBf16 | mmaF8e4 | mmaF8e5 | mmaI8 => exact hs.mma

/-! ## The cycle of the part (05, 13) -/

theorem MemCanonical.runAll (hs : MemCanonical s) {l : List Instr} : NextCanonical (runAll l s) := by
  induction l generalizing s with
  | nil => exact hs
  | cons i l ih => exact hs.exec.andThen fun h => ih h

theorem MemCanonical.badWord (hs : MemCanonical s) {w : Word} : NextCanonical (s.badWord w) := by
  unfold State.badWord
  dsimp only
  split
  · exact hs.hintWord
  · split
    · split
      · exact hs.skipGroup
      · exact hs.issueStraight (fun _ h => h)
    · exact trivial

theorem MemCanonical.scrubSlices (hs : MemCanonical s) : MemCanonical s.scrubSlices := by
  unfold State.scrubSlices
  refine hs.foldl fun _ h => ?_
  refine .modDie (.foldl ?_ (fun _ h => h.post))
  refine h.foldl fun _ h => ?_
  split
  · exact h.update.modDie.post
  · exact h.llcParity

theorem MemCanonical.clockDies (hs : MemCanonical s) : MemCanonical s.clockDies := by
  unfold State.clockDies
  dsimp only
  split <;> exact hs.update

theorem MemCanonical.tick (hs : MemCanonical s) : MemCanonical s.tick.1 := (hs.clockDies.when (·.scrubSlices)).update

theorem MemCanonical.chargeTime (hs : MemCanonical s) : MemCanonical s.chargeTime := hs.update

theorem MemCanonical.countCycles (hs : MemCanonical s) : MemCanonical s.countCycles := by
  unfold State.countCycles
  refine hs.foldl fun _ h => ?_
  refine h.modCore.foldl fun _ h => ?_
  refine h.foldl fun _ h => ?_
  split
  · exact (h.when (·.count)).when (·.count)
  · exact h

theorem MemCanonical.settle (hs : MemCanonical s) : MemCanonical s.settle :=
  ((hs.reportStops.foldl fun _ h => h.recover).foldl fun _ h => h.settleCommit.when (·.askCompletion)).update

theorem MemCanonical.noteServed (hs : MemCanonical s) {c : Cand} : MemCanonical (s.noteServed c) := hs.unless (·.update)

theorem MemCanonical.fetchFault (hs : MemCanonical s) {c : Cand} {e : Nat × Word} {f : Park → Park} :
    MemCanonical (s.fetchFault c e f) := by
  unfold State.fetchFault
  split
  · exact hs
  · exact hs.takeFault

theorem MemCanonical.runWord (hs : MemCanonical s) {w : Word} : NextCanonical (s.runWord w) := by
  unfold State.runWord
  split
  · exact hs.exec
  · exact hs.badWord

theorem MemCanonical.runFetched (hs : MemCanonical s) {c : Cand} {r : Region} {e : Nat × Word} :
    NextCanonical (s.runFetched c r e) := by
  unfold State.runFetched
  split
  · exact (hs.update.fetch.snd_of_eq ‹_›).keepWord.update.runWord.andThen fun h => h.update.next
  · have h1 := hs.update.fetch.snd_of_eq ‹_›
    refine .next ?_
    split
    · exact h1.hold
    · exact h1.fetchFault
  · have h1 := hs.update.fetch.snd_of_eq ‹_›
    refine .next ?_
    split
    · exact h1.hold
    · exact h1.fetchFault
  · exact (hs.update.fetch.snd_of_eq ‹_›).hold.next
  · exact (hs.update.fetch.snd_of_eq ‹_›).consume.next

theorem MemCanonical.runPath (hs : MemCanonical s) {c : Cand} {e : Nat × Word} : NextCanonical (s.runPath c e) := by
  unfold State.runPath
  split
  · exact hs.next
  · split
    · exact hs.hold.next
    · exact hs.runFetched

theorem MemCanonical.of_next {r : Result} (hr : NextCanonical r) (h : r = .next t) : MemCanonical t := by
  subst h; exact hr

theorem MemCanonical.tryUnit (hs : MemCanonical s) {r : Region} {fuel : Nat} {c : Cand} {e : Nat × Word} :
    MemCanonical (State.tryUnit r fuel s c e) := by
  induction fuel generalizing s c e with
  | zero => exact hs
  | succ fuel ih =>
    unfold State.tryUnit
    split
    · have h1 := MemCanonical.of_next hs.runFetched ‹_›
      split
      · exact h1
      · split
        · split
          · exact h1
          · exact ih h1
        · exact h1
    · exact hs

theorem MemCanonical.turn (hs : MemCanonical s) {c : Cand} {ready : List (Nat × Word)} : NextCanonical (s.turn c ready) := by
  unfold State.turn
  split
  · exact hs.next
  · exact (hs.modUnit.when (·.count)).runPath

theorem MemCanonical.restedAll (hs : MemCanonical s) {q : Nat} {l : List Cand} : MemCanonical (s.restedAll q l) :=
  hs.foldl fun _ h => h.when (·.modUnit)

theorem MemCanonical.chosen (hs : MemCanonical s) {l : List Cand} {c : Cand} : MemCanonical (s.chosen l c) :=
  hs.restedAll.noteServed

theorem MemCanonical.happen (hs : MemCanonical s) {i : Instr} : NextCanonical (s.happen i) := hs.drop.exec

theorem MemCanonical.tryPath (hs : MemCanonical s) {c : Cand} {e : Nat × Word} : OptionCanonical (s.tryPath c e) := by
  unfold State.tryPath
  split
  · trivial
  · split
    · trivial
    · dsimp only
      split
      · trivial
      · exact hs.tryUnit.modUnit.update

theorem MemCanonical.tries (hs : MemCanonical s) {l : List Cand} (ht : t ∈ s.tries l) : MemCanonical t := by
  simp only [State.tries, List.mem_flatMap] at ht
  obtain ⟨c, -, ht⟩ := ht
  split at ht
  · cases ht
  · obtain ⟨e, -, ht⟩ := List.mem_filterMap.mp ht
    split at ht
    · cases ht
    · exact hs.tryPath.of_some ht

theorem MemCanonical.act (hs : MemCanonical s) : NextCanonical s.act := by
  unfold State.act
  dsimp only
  split
  · exact hs.happen
  · exact hs.chosen.turn
  · exact hs.tries (List.mem_of_getElem? ‹_›)
  · exact hs

theorem MemCanonical.cycle (hs : MemCanonical s) : NextCanonical s.cycle :=
  hs.tick.runAll.andThen fun h => h.settle.chargeTime.countCycles.act

/-! ## The step -/

theorem MemCanonical.step (hs : MemCanonical s) : NextCanonical (step s) := hs.cycle

end Sys2Proof.Machine
end

section
/-! 02 R59, 00 R4, 04 R82: the state after reset, memory at reset and at every step, the spec's example words. -/

open Sys2Proof Sys2Proof.Machine

namespace Sys2Proof.Claims

/-- Settles O51: the tables of the state after reset list nothing, so that each read answers its default. -/
theorem resetState : Obligations.ResetState :=
  ⟨rfl, rfl, rfl, rfl, rfl, rfl, fun _ => ⟨rfl, Nat.zero_mod _, rfl⟩, fun _ => rfl, fun _ => rfl⟩

/-- Settles O52: no byte is listed. -/
theorem resetMemory : Obligations.ResetMemory := (Memory.wf_iff []).mpr ⟨rfl, fun _ h => nomatch h⟩

/-- Settles O53: a step is a cycle, whose parts keep the canonical form, as the instruction that it carries out does. -/
theorem stepKeepsMemory : Obligations.StepKeepsMemory := fun _ _ hs hstep => MemCanonical.of_next hs.step hstep

/-- Settles O45: each word's fields choose one branch of the decoder. -/
theorem exampleWords : Obligations.ExampleWords :=
  ⟨rfl, rfl, rfl, rfl, rfl, rfl, rfl, rfl, rfl, rfl, rfl, rfl⟩

end Sys2Proof.Claims
end
